-- ==== Sys2Proof/Word.lean ====
section
/-! DEFINITION. The words of the Pelant P96 and their plainest arithmetic (00 R3, R8; 05 R54). -/

namespace Sys2Proof

/-- One register: 32 bits (05 R53). -/
abbrev Word := BitVec 32

/-- One byte. -/
abbrev Byte := BitVec 8

/-- A 64-bit virtual address or program counter (11 R145). -/
abbrev Addr := BitVec 64

/-- The low `n` bits of `x` read as a two's-complement integer (00 R10, SignExt). -/
def signExt (x n : Nat) : Int :=
  if n = 0 then 0
  else if x % 2 ^ n < 2 ^ (n - 1) then (x % 2 ^ n : Nat) else (x % 2 ^ n : Nat) - (2 ^ n : Nat)

/-- An exact integer reduced modulo 2^n to its bit pattern (00 R8). -/
def toBits (n : Nat) (x : Int) : Nat := (x % (2 ^ n : Nat)).toNat

/-- Bits [hi:lo] of `x`, as an unsigned value (00 R8). -/
def bits (x hi lo : Nat) : Nat := (x / 2 ^ lo) % 2 ^ (hi + 1 - lo)

/-- Bit `n` of `x`. -/
def bit (x n : Nat) : Bool := x / 2 ^ n % 2 = 1

/-- `x` clamped to [lo, hi] (00 R10, the Sat helpers). -/
def clamp (lo hi x : Int) : Int := if x < lo then lo else if hi < x then hi else x

end Sys2Proof
end

