-- ==== Sys2Proof/Operand.lean ====
section
/-! DEFINITION. The operand fields of Kycia instructions (07 R75, R78, R79, R83, R85, R87). -/

namespace Sys2Proof

/-- `TYPE` of a W-C word 2 (05 R53, R56); code 15 is reserved and has no name. -/
inductive Ty where
  | b32 | s32 | n32 | s64 | n64 | s16x2 | n16x2 | s8x4
  | f32 | f16x2 | bf16x2 | e4m3x4 | e5m2x4 | b64 | b128
deriving DecidableEq, Repr

/-- Rounding modes (05 R62). -/
inductive Rnd where
  | ne | tz | dn | up
deriving DecidableEq, Repr

/-- A source by class (07 R79): lane register, scalar, block register, or class 11 (immediate or literal). -/
inductive Src where
  | v (n : BitVec 8)
  | s (n : BitVec 6)
  | b (n : BitVec 6)
  | imm
deriving DecidableEq, Repr

/-- A destination by class (07 R79); class 11 keeps its raw `D` field: a predicate number, or zero for no register. -/
inductive Dst where
  | v (n : BitVec 8)
  | s (n : BitVec 6)
  | b (n : BitVec 6)
  | none (d : BitVec 8)
deriving DecidableEq, Repr

/-- Words 0 and 1 of an X96 instruction less `LEN` and `OP`, with the literal when `LEN` is 11 (07 R78, R79, R81).
A source that the instruction does not read is `.v 0` (field and class zero, R80). -/
structure Head where
  stop : Bool
  hold : BitVec 2
  g    : BitVec 3
  gn   : Bool
  d    : Dst
  sub  : BitVec 7
  a    : Src
  b    : Src
  c    : Src
  lit  : Option (BitVec 64)
deriving DecidableEq, Repr

/-- Word 2 of a compute instruction (07 R83). -/
structure WC where
  type : Ty
  rnd  : Rnd
  sat  : Bool
  ftz  : Bool
  neg  : BitVec 3
  abs  : BitVec 3
  cond : BitVec 3
  pd   : BitVec 3
  imm  : BitVec 12
deriving DecidableEq, Repr

/-- Word 2 of a memory instruction (07 R85). -/
structure WM where
  space : BitVec 3
  size  : BitVec 3
  sign  : Bool
  scope : BitVec 3
  order : BitVec 2
  cpol  : BitVec 3
  off   : BitVec 16
deriving DecidableEq, Repr

/-- Word 2 of a branch (07 R87). -/
structure WB where
  hint : BitVec 4
  off  : BitVec 24
deriving DecidableEq, Repr

/-- Word 2 of the W-S layout, whose fields R88 fixes per instruction (07 R88). -/
abbrev WS := BitVec 32

/-- A B32 word less `LEN` and `OP`, with the low half of the literal when `LEN` is 01 (07 R75, R76). -/
structure B32 where
  stop : Bool
  hold : Bool
  imm  : Bool
  g    : BitVec 3
  d    : BitVec 6
  a    : BitVec 6
  b    : BitVec 6
  lit  : Option (BitVec 32)
deriving DecidableEq, Repr

end Sys2Proof
end

