-- ==== Sys2Proof/Syntax.lean ====
section
/-! DEFINITION. Every step of the Pelant P96: one constructor per row of spec/opcode_table.json. The first 122 are the
X96 instructions (07 R78-R91), the next 31 their B32 forms (07 R75-R77), and the rest the indivisible steps of the device's other
agents (95_what_each_step_holds.md), whose arguments name the agent and what the outside world or a free order of agents decides. -/

namespace Sys2Proof

/-- The steps of the P96. -/
inductive Instr where
  /-- NOP (R110): X96 no-operation that reads nothing and changes no state. -/
  | nop (x : Head) (w : WC)
  /-- MOV (R110): Copies source B into the destination for each active lane, or once for the warp to a scalar. -/
  | mov (x : Head) (w : WC)
  /-- ADD (R111): Integer add per element, wrapping or saturating, with an optional overflow predicate. -/
  | add (x : Head) (w : WC)
  /-- SUB (R111): Integer subtract per element, wrapping or saturating, with an optional overflow predicate. -/
  | sub (x : Head) (w : WC)
  /-- MUL (R111): Integer multiply per element, keeping the low bits or saturating, with an optional overflow predicate. -/
  | mul (x : Head) (w : WC)
  /-- MULHI (R110): Writes the high half of the exact integer product. -/
  | mulhi (x : Head) (w : WC)
  /-- MAD (R111): Integer multiply-add a×b+c per element, reduced by wrap or saturation. -/
  | mad (x : Head) (w : WC)
  /-- MADW (R110): Widening multiply-add of two 32-bit values into a 64-bit accumulator pair. -/
  | madw (x : Head) (w : WC)
  /-- LEA (R110): Computes the 64-bit address a + b×2^k. -/
  | lea (x : Head) (w : WC)
  /-- ADD3 (R110): Integer three-operand add a+b+c. -/
  | add3 (x : Head) (w : WC)
  /-- MIN (R110): Integer minimum per element. -/
  | min (x : Head) (w : WC)
  /-- MAX (R110): Integer maximum per element. -/
  | max (x : Head) (w : WC)
  /-- ABS (R110): Integer absolute value per element, with optional saturation and overflow predicate. -/
  | abs (x : Head) (w : WC)
  /-- NEG (R110): Integer negation per element, with optional saturation and overflow predicate. -/
  | neg (x : Head) (w : WC)
  /-- AND (R110): Bitwise and of A and B. -/
  | and (x : Head) (w : WC)
  /-- OR (R110): Bitwise or of A and B. -/
  | or (x : Head) (w : WC)
  /-- XOR (R110): Bitwise exclusive or of A and B. -/
  | xor (x : Head) (w : WC)
  /-- NOT (R110): Bitwise complement of A. -/
  | not (x : Head) (w : WC)
  /-- BITF (R110): Three-input bitwise function selected by an 8-bit truth table. -/
  | bitf (x : Head) (w : WC)
  /-- SHL (R112): Logical shift left by an unsigned count, giving zero for counts at or above the width. -/
  | shl (x : Head) (w : WC)
  /-- SHR (R112): Logical shift right by an unsigned count. -/
  | shr (x : Head) (w : WC)
  /-- SAR (R112): Arithmetic shift right by an unsigned count. -/
  | sar (x : Head) (w : WC)
  /-- DSH (R112): Double shift of the 64-bit pair {B, A}, left or right, with a capped or modular count. -/
  | dsh (x : Head) (w : WC)
  /-- FEXT (R112): Extracts a signed or unsigned bit field. -/
  | fext (x : Head) (w : WC)
  /-- FINS (R112): Inserts a bit field of A into B. -/
  | fins (x : Head) (w : WC)
  /-- CLZ (R110): Counts leading zero bits. -/
  | clz (x : Head) (w : WC)
  /-- POPC (R110): Counts one bits. -/
  | popc (x : Head) (w : WC)
  /-- BREV (R110): Reverses the bit order. -/
  | brev (x : Head) (w : WC)
  /-- CMP (R113): Integer compare writing a predicate and its complement, or per-element masks. -/
  | cmp (x : Head) (w : WC)
  /-- SEL (R113): Selects A or B per lane by a predicate. -/
  | sel (x : Head) (w : WC)
  /-- ACS (R114): Add-compare-select per element, writing decisions to predicates. -/
  | acs (x : Head) (w : WC)
  /-- SAD (R115): Sum of absolute differences plus an accumulator. -/
  | sad (x : Head) (w : WC)
  /-- BSEL (R115): Byte select from eight source bytes under per-byte selectors. -/
  | bsel (x : Head) (w : WC)
  /-- PSET (R116): Manipulates predicates by function, bit extraction, save or load. -/
  | pset (x : Head) (w : WC)
  /-- VOTE (R117): Warp vote of every, some or same over the mask. -/
  | vote (x : Head) (w : WC)
  /-- BALLOT (R117): Collects a predicate of all lanes into a warp-wide bit mask. -/
  | ballot (x : Head) (w : WC)
  /-- MCNT (R117): Counts set predicate lanes, in total or as a prefix. -/
  | mcnt (x : Head) (w : WC)
  /-- XLANE (R119): Moves lane values within the warp by from, swap, below, above or rotate addressing. -/
  | xlane (x : Head) (w : WC)
  /-- BCAST (R119): Broadcasts one lane's value to every active lane. -/
  | bcast (x : Head) (w : WC)
  /-- WRED (R120): Reduces a source over the mask to a scalar or to every lane. -/
  | wred (x : Head) (w : WC)
  /-- WSCAN (R120): Forms inclusive or exclusive prefix reductions over the mask. -/
  | wscan (x : Head) (w : WC)
  /-- VGET (R121): Reads a lane register selected by an index register, checking the limit and VREGS. -/
  | vget (x : Head) (w : WC)
  /-- VPUT (R121): Writes a lane register selected by an index register. -/
  | vput (x : Head) (w : WC)
  /-- XSET (R122): Sets an index register's index and limit, or adds to its index. -/
  | xset (x : Head) (w : WC)
  /-- BMOV (R123): Writes a block register that the warp owns. -/
  | bmov (x : Head) (w : WC)
  /-- BPASS (R123): Hands ownership of a range of block registers to another warp. -/
  | bpass (x : Head) (w : WC)
  /-- SMOV (R124): Moves one lane's value to a scalar register. -/
  | smov (x : Head) (w : WC)
  /-- FADD (R125): Floating-point add, rounded once. -/
  | fadd (x : Head) (w : WC)
  /-- FSUB (R125): Floating-point subtract, rounded once. -/
  | fsub (x : Head) (w : WC)
  /-- FMUL (R125): Floating-point multiply, rounded once. -/
  | fmul (x : Head) (w : WC)
  /-- FFMA (R125): Fused multiply-add with one rounding. -/
  | ffma (x : Head) (w : WC)
  /-- FMIN (R127): Floating-point minimum with NaN and signed-zero rules. -/
  | fmin (x : Head) (w : WC)
  /-- FMAX (R127): Floating-point maximum with NaN and signed-zero rules. -/
  | fmax (x : Head) (w : WC)
  /-- FCMP (R128): Floating-point compare under any condition code. -/
  | fcmp (x : Head) (w : WC)
  /-- FRND (R129): Rounds to an integral value in the same format. -/
  | frnd (x : Head) (w : WC)
  /-- RCP (R130): Correctly rounded reciprocal. -/
  | rcp (x : Head) (w : WC)
  /-- RSQRT (R130): Correctly rounded reciprocal square root. -/
  | rsqrt (x : Head) (w : WC)
  /-- SQRT (R130): Correctly rounded square root. -/
  | sqrt (x : Head) (w : WC)
  /-- EXP2 (R130): Correctly rounded base-2 exponential. -/
  | exp2 (x : Head) (w : WC)
  /-- LOG2 (R130): Correctly rounded base-2 logarithm. -/
  | log2 (x : Head) (w : WC)
  /-- SINPI (R130): Correctly rounded sin(πx). -/
  | sinpi (x : Head) (w : WC)
  /-- COSPI (R130): Correctly rounded cos(πx). -/
  | cospi (x : Head) (w : WC)
  /-- FDOT2 (R131): Two-element FP16 or BF16 dot product plus an FP32 addend, rounded once to FP32. -/
  | fdot2 (x : Head) (w : WC)
  /-- CVT (R132): Converts one element between integer and floating-point types. -/
  | cvt (x : Head) (w : WC)
  /-- CVTQ (R134): Quantises one block per pass into an MX format, returning element, scale and status. -/
  | cvtq (x : Head) (w : WC)
  /-- CVTD (R135): Decodes one stored element with its scale to FP32 or BF16. -/
  | cvtd (x : Head) (w : WC)
  /-- PACK (R133): Converts two values into elements of a packed destination. -/
  | pack (x : Head) (w : WC)
  /-- UNPACK (R133): Extracts and widens one element of a packed value. -/
  | unpack (x : Head) (w : WC)
  /-- FCLASS (R136): Writes a one-hot class mask of a floating-point element. -/
  | fclass (x : Head) (w : WC)
  /-- FSCALE (R129): Multiplies by a power of two with one rounding. -/
  | fscale (x : Head) (w : WC)
  /-- BRA (R138): Relative branch that may part the issuing split. -/
  | bra (x : Head) (w : WB)
  /-- BRX (R138): Branch to per-lane register targets, grouping lanes by target. -/
  | brx (x : Head) (w : WB)
  /-- CALL (R137): Writes the return address and branches to a relative target. -/
  | call (x : Head) (w : WB)
  /-- CALL_R (R137): Writes the return address and branches to register targets. -/
  | callR (x : Head) (w : WB)
  /-- RET (R139): Returns each lane to its address, checking canonicity and alignment. -/
  | ret (x : Head) (w : WS)
  /-- EXIT (R45): The lanes of the mask exit, leaving splits and meeting stacks, possibly retiring the warp. -/
  | exit (x : Head) (w : WS)
  /-- MEET (R38): Pushes a meeting address onto each active lane's meeting stack. -/
  | meet (x : Head) (w : WB)
  /-- TRAP (R140): Raises software-trap fault 0x18 with a code in every lane of the mask. -/
  | trap (x : Head) (w : WS)
  /-- TRET (R141): Ends the handler, restores saved state and resumes the lanes and suspended splits. -/
  | tret (x : Head) (w : WS)
  /-- YIELD (R142): Ends the issuing split's run as if it had issued 256 instructions. -/
  | yield (x : Head) (w : WS)
  /-- BRK (R140): Raises breakpoint fault 0x1B with a code in every lane of the mask. -/
  | brk (x : Head) (w : WS)
  /-- MFSR (R143): Reads a special register. -/
  | mfsr (x : Head) (w : WS)
  /-- MTSR (R143): Writes %fpf, %conv or %mpred once for the warp. -/
  | mtsr (x : Head) (w : WS)
  /-- LD (R185): Loads each lane's location, sealing the destination until the data return. -/
  | ld (x : Head) (w : WM)
  /-- ST (R186): Stores each lane's data to its location. -/
  | st (x : Head) (w : WM)
  /-- LDG4 (R188): Gathers a 2×2 texel quad from a swizzled surface with wrap, clamp or mirror addressing. -/
  | ldg4 (x : Head) (w : WM)
  /-- ATOM (R190): Per-lane atomic read-modify-write returning the old value. -/
  | atom (x : Head) (w : WM)
  /-- RED (R191): Per-lane atomic reduction without a result. -/
  | red (x : Head) (w : WM)
  /-- PREFETCH (R192): Moves lines towards the core, possibly dispatching fills, without faulting on access. -/
  | prefetch (x : Head) (w : WM)
  /-- FENCE (R194): Holds the split until its acquire or release duties at the scope are met. -/
  | fence (x : Head) (w : WM)
  /-- WAITA (R195): Parks the split until every lane reads a value meeting its condition. -/
  | waita (x : Head) (w : WM)
  /-- SMAP (R196): Maps or unmaps a stash window over global memory. -/
  | smap (x : Head) (w : WM)
  /-- SWB (R197): Writes back every dirty byte of the crew's windows. -/
  | swb (x : Head) (w : WM)
  /-- CFLUSH (R193): Writes back a lane's LLC line and optionally evicts it. -/
  | cflush (x : Head) (w : WM)
  /-- BELL_INIT (R199): Initialises a bell with its expected arrival count. -/
  | bellInit (x : Head) (w : WS)
  /-- BELL_ARR (R199): Adds arrivals to a bell, ending the phase when the count is reached. -/
  | bellArr (x : Head) (w : WS)
  /-- BELL_WAIT (R199): Completes at once if the phase differs, otherwise parks until the phase changes. -/
  | bellWait (x : Head) (w : WS)
  /-- FSET (R201): Resolves a future per lane and commits its linked continuations. -/
  | fset (x : Head) (w : WS)
  /-- FON (R202): Registers a continuation node on a future, committing at once if it is resolved. -/
  | fon (x : Head) (w : WS)
  /-- QRES (R204): Reserves record slots of a work queue, parking or failing when it is full. -/
  | qres (x : Head) (w : WS)
  /-- QCOM (R204): Commits an outstanding reservation of the crew. -/
  | qcom (x : Head) (w : WS)
  /-- QTAKE (R204): Frees the crew's earlier take and takes a run of committed records from an unbound queue. -/
  | qtake (x : Head) (w : WS)
  /-- SPAWN (R206): Starts n crews of the current job on the issuing core, or none. -/
  | spawn (x : Head) (w : WS)
  /-- CPY (R207): Hands a copy descriptor to a copy queue of the core. -/
  | cpy (x : Head) (w : WS)
  /-- QFEN (R211): Joins the named engine queues of the core. -/
  | qfen (x : Head) (w : WS)
  /-- TCFG (R247): Configures the crew's matrix shape and claims, and queues a barrier. -/
  | tcfg (x : Head) (w : WS)
  /-- BRES (R248): Makes a bin record live with a format and layout. -/
  | bres (x : Head) (w : WS)
  /-- BREL (R248): Makes a bin record not live and releases its pins. -/
  | brel (x : Head) (w : WS)
  /-- TLOAD (R249): Checks and queues a hod load of one record area. -/
  | tload (x : Head) (w : WS)
  /-- MMA (R250): Checks and queues a matrix multiply-accumulate into a tile. -/
  | mma (x : Head) (w : WS)
  /-- TDRAIN (R251): Checks and queues conversion and write-out of a tile. -/
  | tdrain (x : Head) (w : WS)
  /-- TZERO (R252): Queues the zeroing of a tile. -/
  | tzero (x : Head) (w : WS)
  /-- TQUANT (R251): Checks and queues MX quantisation and write-out of a tile. -/
  | tquant (x : Head) (w : WS)
  /-- MSTAT (R253): Waits for the warp's matrix operations and writes the report and layer status. -/
  | mstat (x : Head) (w : WS)
  /-- SOPEN (R298): Opens a key with a window of sequences at its home slice, returning a status. -/
  | sopen (x : Head) (w : WS)
  /-- SENTER (R299): Registers the warp as waiter for a sequence of a key and parks until granted. -/
  | senter (x : Head) (w : WS)
  /-- SLEAVE (R300): Leaves a held section after its release wait and advances the key. -/
  | sleave (x : Head) (w : WS)
  /-- SSKIP (R301): Gives up a sequence of a key after a release wait. -/
  | sskip (x : Head) (w : WS)
  /-- STAKE (R302): Takes a ticket of a key. -/
  | stake (x : Head) (w : WS)
  /-- RAST (R307): Hands a primitive batch to the core's raster unit after a release wait. -/
  | rast (x : Head) (w : WS)
  /-- FDONE (R223): Snapshots the fill window and commits it as the block, or poisons it. -/
  | fdone (x : Head) (w : WS)
  /-- FPOIS (R223): Abandons the fill task's block as poisoned. -/
  | fpois (x : Head) (w : WS)
  /-- B32_NOP (R77): Compact no-operation. -/
  | b32Nop (w : B32)
  /-- B32_MOV (R77): Compact move of a register or imm6. -/
  | b32Mov (w : B32)
  /-- B32_ADD_S32 (R77): Compact add.s32. -/
  | b32AddS32 (w : B32)
  /-- B32_SUB_S32 (R77): Compact sub.s32. -/
  | b32SubS32 (w : B32)
  /-- B32_MUL_S32 (R77): Compact mul.s32 keeping the low 32 bits. -/
  | b32MulS32 (w : B32)
  /-- B32_AND (R77): Compact bitwise and. -/
  | b32And (w : B32)
  /-- B32_OR (R77): Compact bitwise or. -/
  | b32Or (w : B32)
  /-- B32_XOR (R77): Compact bitwise exclusive or. -/
  | b32Xor (w : B32)
  /-- B32_SHL (R77): Compact shift left. -/
  | b32Shl (w : B32)
  /-- B32_SHR (R77): Compact logical shift right. -/
  | b32Shr (w : B32)
  /-- B32_SAR (R77): Compact arithmetic shift right. -/
  | b32Sar (w : B32)
  /-- B32_MIN_S32 (R77): Compact signed minimum. -/
  | b32MinS32 (w : B32)
  /-- B32_MAX_S32 (R77): Compact signed maximum. -/
  | b32MaxS32 (w : B32)
  /-- B32_MIN_N32 (R77): Compact unsigned minimum. -/
  | b32MinN32 (w : B32)
  /-- B32_MAX_N32 (R77): Compact unsigned maximum. -/
  | b32MaxN32 (w : B32)
  /-- B32_FADD_F32 (R77): Compact FP32 add in RNE. -/
  | b32FaddF32 (w : B32)
  /-- B32_FSUB_F32 (R77): Compact FP32 subtract in RNE. -/
  | b32FsubF32 (w : B32)
  /-- B32_FMUL_F32 (R77): Compact FP32 multiply in RNE. -/
  | b32FmulF32 (w : B32)
  /-- B32_FMIN_F32 (R77): Compact FP32 minimum. -/
  | b32FminF32 (w : B32)
  /-- B32_FMAX_F32 (R77): Compact FP32 maximum. -/
  | b32FmaxF32 (w : B32)
  /-- B32_FADD_F16X2 (R77): Compact packed FP16 add. -/
  | b32FaddF16x2 (w : B32)
  /-- B32_FMUL_F16X2 (R77): Compact packed FP16 multiply. -/
  | b32FmulF16x2 (w : B32)
  /-- B32_FADD_BF16X2 (R77): Compact packed BF16 add. -/
  | b32FaddBf16x2 (w : B32)
  /-- B32_FMUL_BF16X2 (R77): Compact packed BF16 multiply. -/
  | b32FmulBf16x2 (w : B32)
  /-- B32_ADD_S16X2 (R77): Compact packed 16-bit add. -/
  | b32AddS16x2 (w : B32)
  /-- B32_SUB_S16X2 (R77): Compact packed 16-bit subtract. -/
  | b32SubS16x2 (w : B32)
  /-- B32_MAX_S16X2 (R77): Compact packed 16-bit maximum. -/
  | b32MaxS16x2 (w : B32)
  /-- B32_MIN_S16X2 (R77): Compact packed 16-bit minimum. -/
  | b32MinS16x2 (w : B32)
  /-- B32_XLANE_FROM (R77): Compact xlane.from. -/
  | b32XlaneFrom (w : B32)
  /-- B32_XLANE_SWAP (R77): Compact xlane.swap. -/
  | b32XlaneSwap (w : B32)
  /-- B32_BCAST (R77): Compact broadcast from one lane. -/
  | b32Bcast (w : B32)
  /-- ISSUE_ARBITRATION (R274): In each core clock with a free pipe, a quarter picks one window warp to issue. -/
  | issueArbitration (core quarter : Nat)
  /-- MASK_PREDICTION_REPAIR (R43): When a predicted mask resolves, wrongly included lanes are restored and omitted lanes replayed. -/
  | maskPredictionRepair (core slot warp : Nat)
  /-- RESULT_RETURN (R93): A long instruction's result returns, unsealing registers and ending stop waits. -/
  | resultReturn (core slot warp op : Nat) (lanes : List Nat) (part : Bool)
  /-- LINE_REQUEST (R159): A line request arrives at its home slice and is served, allocated or sent to memory. -/
  | lineRequest (core : Nat) (pa : BitVec 48) (cpol : BitVec 3) (write : Bool)
  /-- FILL_RECORD_WAIT_SERVED (R217): A waiting access takes the next free record of its level in arrival order. -/
  | fillRecordWaitServed (slice level : Nat)
  /-- FILL_TASK_PLACE (R218): A queued record is placed on the first free fill slot in ring order and its task launched. -/
  | fillTaskPlace (slice : Nat)
  /-- FILL_RELEASE (R219): When every line is placed, all parked accesses are released in one step. -/
  | fillRelease (slice : Nat) (block : BitVec 48) (level : Nat)
  /-- COPY_EXECUTE (R209): The copy engine reads the descriptor and produces elements in order. -/
  | copyExecute (core queue : Nat)
  /-- COPY_COMPLETE (R210): A copy completes, resolving its future and ringing its bell with success or error. -/
  | copyComplete (core queue : Nat)
  /-- CONTINUATION_COMMIT (R202): A continuation record is committed to its queue when a slot is free. -/
  | continuationCommit (index : Nat)
  /-- HOD_TLOAD_EXECUTE (R237): The hod fills a record area row by row, pinning lines or marking the area failed. -/
  | hodTloadExecute (core : Nat)
  /-- TCFG_BARRIER (R247): After earlier matrix and hod operations complete, pins are released and tiles zeroed. -/
  | tcfgBarrier (core : Nat)
  /-- MMA_EXECUTE (R241): The matrix engine computes K-slices by passes over the layers in service. -/
  | mmaExecute (core : Nat) (fails : List (Nat × Nat))
  /-- MMA_COMPLETE (R244): An mma completes with a report word or error form and resolves its future. -/
  | mmaComplete (core : Nat)
  /-- TDRAIN_EXECUTE (R251): The tile is converted and written out and the drain completes. -/
  | tdrainExecute (core : Nat)
  /-- TQUANT_EXECUTE (R251): The tile is quantised to MX, written out, and completes. -/
  | tquantExecute (core : Nat)
  /-- TZERO_EXECUTE (R252): Every element of the tile is set to zero in queue order. -/
  | tzeroExecute (core : Nat)
  /-- MSTAT_REPORT (R253): Once the warp's mma operations complete, mstat writes its result and %mmrep. -/
  | mstatReport (core slot warp : Nat)
  /-- STALL_BUDGET_EXPIRY (R305): When STALLCNT reaches the budget every waiter of the key takes fault 0x0E. -/
  | stallBudgetExpiry (slice entry : Nat)
  /-- STALL_COUNT (R305): Each home-slice clock adds one to STALLCNT of a waited, unheld entry. -/
  | stallCount (slice : Nat)
  /-- RASTER_BATCH (R309): A raster unit sets up and covers the primitives of a batch in order. -/
  | rasterBatch (unit : Nat)
  /-- TILE_KEY_OPEN (R311): A raster unit opens a tile key when it is free, and sets range skips. -/
  | tileKeyOpen (unit : Nat)
  /-- RASTER_BATCH_COMPLETE (R313): A batch completes and resolves its future with a count or error. -/
  | rasterBatchComplete (unit : Nat)
  /-- CREW_DISPATCH (R264): A core picks the first-ranked candidate crew and dispatches or restores it. -/
  | crewDispatch (core : Nat)
  /-- PARKED_EVICTION (R50): A crew parked 4,096 clocks is evicted for an undispatched crew of equal or higher class. -/
  | parkedEviction (core : Nat)
  /-- CREW_SAVE (R269): A crew's warps stop, its operations drain and its save area is written. -/
  | crewSave (core slot : Nat)
  /-- SAVE_DEFER_LIMIT (R270): A save waits for handler warps until tret, exit or 4,096 handler instructions. -/
  | saveDeferLimit (core slot : Nat)
  /-- CREW_RETIRE (R45): A crew retires after its warps and operations finish, voiding reservations and freeing resources. -/
  | crewRetire (core slot : Nat)
  /-- JOB_END (R46): A job ends when all its crews and continuations finish, producing its completion record. -/
  | jobEnd (part job : Nat)
  /-- COMPLETION_RECORD_WRITE (R260): A record enters the completion ring when it has room. -/
  | completionRecordWrite (part : Nat)
  /-- DOORBELL (R256): A host write to a partition doorbell advances the command tail or is refused. -/
  | doorbell (part : Nat) (value : BitVec 32)
  /-- LAUNCH (R261): Zhevvo reads and checks a launch command and its job descriptor. -/
  | launch (part : Nat)
  /-- JOB_BIND (R262): A job receives a handle and its crews are bound to cores by bind records. -/
  | jobBind (part : Nat)
  /-- CONFIG (R322): Configures a partition's cores, ways, weight, queue, pool and larder. -/
  | config (part : Nat)
  /-- CORE_MOVE (R23): A core moves partition once it holds no crew of the old partition, moving its bind records. -/
  | coreMove (core : Nat)
  /-- TLBINV (R321): Invalidates matching TLB entries in every core of the partition. -/
  | tlbinv (part : Nat)
  /-- PAGERES (R280): Answers a page fault as valid, re-translating, or unresolvable, faulting 0x07. -/
  | pageres (part : Nat)
  /-- GENWR (R213): Copies a generator descriptor into the table and records its root. -/
  | genwr (part : Nat)
  /-- GENINV (R323): Discards the partition's generated lines and larder after draining fill records. -/
  | geninv (part : Nat)
  /-- BIAS (R319): Flips pages between host and device bias one at a time. -/
  | bias (part : Nat)
  /-- COUNTERS (R321): Copies named core or slice counters to memory. -/
  | counters (part : Nat)
  /-- RACKRD (R321): Writes snapshots of key rack entries to memory. -/
  | rackrd (part : Nat)
  /-- RETIRED (R285): Writes the partition's retired page list to memory. -/
  | retired (part : Nat)
  /-- SCRUB (R321): Zeroes a page with fresh ECC and clears its poison. -/
  | scrub (part : Nat)
  /-- SETTIME (R321): Writes host time with each core's %clk reading. -/
  | settime (part : Nat)
  /-- LAYERTEST (R321): Self-tests a core's four matrix layers and returns them to service on a pass. -/
  | layertest (part : Nat)
  /-- POWER (R330): Sets the module power limit. -/
  | power (part : Nat)
  /-- ATTEST (R327): Writes a signed attestation report over a nonce. -/
  | attest (part : Nat)
  /-- Q0HDR (R317): A write naming partition 0's queue header places it once per reset in READY. -/
  | q0hdr (value : BitVec 64)
  /-- RESET (R317): Writing 0x0000_52E5 resets the module. -/
  | reset (value : BitVec 32)
  /-- REGISTER_WRITE_IGNORED (R317): Writes to registers without behaviour of their own are ignored. -/
  | registerWriteIgnored (offset : BitVec 16) (value : BitVec 64)
  /-- HELPER (R325): A board write of helper bytes into the selected window in state KEY. -/
  | helper (offset : Nat) (bytes : List (BitVec 8))
  /-- HWSEL_HELPER_PART (R325): Selects a 256-byte helper part for HELPER. -/
  | hwselHelperPart (value : BitVec 64)
  /-- HWSEL_REPAIR_ENTRY (R325): Selects a repair entry for HELPER. -/
  | hwselRepairEntry (value : BitVec 64)
  /-- HWSEL_HELPER_COMPLETE (R326): Zhevvo extracts the seed from the helper data and continues or fails boot. -/
  | hwselHelperComplete (value : BitVec 64)
  /-- HWSEL_ENROL (R326): Zhevvo enrols a fresh identity, publishes new helper data and continues boot. -/
  | hwselEnrol (value : BitVec 64)
  /-- I3C_DYNAMIC_ADDRESS (R324): The I3C target accepts a dynamic address from the bus controller. -/
  | i3cDynamicAddress (addr : BitVec 7)
  /-- RAILS_STABLE (R328): After reset with rails stable the management core starts Zhevvo from ROM. -/
  | railsStable
  /-- TRAIN (R328): HBM4 interface training completes or fails with error 0x02. -/
  | train (ok : Bool)
  /-- MARCH (R329): March C− tests remap failing rows, mark unusable cores and end in READY. -/
  | march (fails : List (Nat × Nat × Nat × Nat))
  /-- HOST_MEM_READ (R179): A host CXL.mem read is served by the home slice. -/
  | hostMemRead (addr : BitVec 48) (count : Nat)
  /-- HOST_MEM_WRITE (R179): A host CXL.mem write is acknowledged at the home slice. -/
  | hostMemWrite (addr : BitVec 48) (bytes : List (BitVec 8))
  /-- HBM_CORRECTED (R283): A corrected HBM error corrects data and counts HBMCE. -/
  | hbmCorrected (pa : BitVec 48)
  /-- HBM_UNCORRECTABLE (R283): An uncorrectable HBM read delivers poison and retires the page. -/
  | hbmUncorrectable (pa : BitVec 48)
  /-- LLC_CORRECTED (R283): A corrected LLC error is rewritten and counted, quarantining a way at sixteen. -/
  | llcCorrected (slice set way : Nat)
  /-- LLC_UE_CLEAN (R283): An uncorrectable clean line is dropped and its way quarantined. -/
  | llcUeClean (slice set way : Nat)
  /-- LLC_UE_DIRTY (R284): An uncorrectable dirty line is poisoned, jobs of its writer terminated, page retired and way quarantined. -/
  | llcUeDirty (slice set way : Nat)
  /-- SRAM_UNCORRECTABLE (R283): An uncorrectable register-cache or stash error terminates the owning job. -/
  | sramUncorrectable (core slot : Nat)
  /-- POWER_LOOP_EVAL (R330): Every 65,536 core clocks the adaptive loops throttle or release layers and quarters. -/
  | powerLoopEval (throttle release : List (Nat × Nat)) (suspend : List (Nat × Nat × Nat))
  /-- THERMAL_THROTTLE (R330): At 105 °C every attic layer of the hottest column is throttled until below 100 °C. -/
  | thermalThrottle (column : Nat)
  /-- THERMAL_TRIP (R330): At 115 °C all cores stop and boot state becomes FAILED with error 0x04. -/
  | thermalTrip
  /-- DIE_FALLS_BELOW_100C (R330): When the die that triggered the 105 °C throttle falls below 100 °C, the throttled attic layers of the hottest column return to service. -/
  | dieFallsBelow100c
  /-- CHANNEL_REFRESH (R278): An HBM channel performs a refresh, which delays its grants within the bound of R278. -/
  | channelRefresh (channel : Nat)
deriving DecidableEq, Repr

end Sys2Proof
end

