-- ==== Sys2Proof/Machine/Forms.lean ====
section
/-! DEFINITION. What each instruction reads and writes, and which encodings of its fields are legal (07 R75-R91 and the
instruction tables of 09, 13, 15, 17 and 21). The decoder's checks, the hazard and range checks at issue and the operands all
come from this one description. -/

namespace Sys2Proof.Machine

/-! ### Types -/

/-- The `TYPE` code of a type (05 R53, R56). -/
def tyCode : Ty → Nat
  | .b32 => 0 | .s32 => 1 | .n32 => 2 | .s64 => 3 | .n64 => 4 | .s16x2 => 5 | .n16x2 => 6 | .s8x4 => 7
  | .f32 => 8 | .f16x2 => 9 | .bf16x2 => 10 | .e4m3x4 => 11 | .e5m2x4 => 12 | .b64 => 13 | .b128 => 14

/-- The type of a `TYPE` code; 15 is reserved (05 R53). -/
def tyOf (n : Nat) : Option Ty :=
  match n with
  | 0 => some .b32 | 1 => some .s32 | 2 => some .n32 | 3 => some .s64 | 4 => some .n64 | 5 => some .s16x2
  | 6 => some .n16x2 | 7 => some .s8x4 | 8 => some .f32 | 9 => some .f16x2 | 10 => some .bf16x2
  | 11 => some .e4m3x4 | 12 => some .e5m2x4 | 13 => some .b64 | 14 => some .b128 | _ => none

/-- How many registers a value of the type takes (05 R53, R54). -/
def tyRegs : Ty → Nat
  | .s64 | .n64 | .b64 => 2
  | .b128 => 4
  | _ => 1

/-- The width in bits of one element of the type. -/
def tyWidth : Ty → Nat
  | .b32 | .s32 | .n32 | .f32 => 32
  | .s64 | .n64 | .b64 => 64
  | .b128 => 128
  | .s16x2 | .n16x2 | .f16x2 | .bf16x2 => 16
  | .s8x4 | .e4m3x4 | .e5m2x4 => 8

/-- How many elements a value of the type holds. -/
def tyElems : Ty → Nat
  | .s16x2 | .n16x2 | .f16x2 | .bf16x2 => 2
  | .s8x4 | .e4m3x4 | .e5m2x4 => 4
  | _ => 1

/-- The integer type reads its elements signed. -/
def tySigned : Ty → Bool
  | .s32 | .s64 | .s16x2 | .s8x4 => true
  | _ => false

/-- A floating-point type (`TYPE` 8 to 12). -/
def tyFloat : Ty → Bool
  | .f32 | .f16x2 | .bf16x2 | .e4m3x4 | .e5m2x4 => true
  | _ => false

/-! ### Operands -/

/-- How an instruction reads one source: how many registers (0: it does not read it; with `v` the field then holds a base
register number, 09 R121), which classes it may take, and the type by which a class-11 operand is read (07 R79-R81). -/
structure Use where
  n   : Nat
  v   : Bool
  s   : Bool
  b   : Bool
  imm : Bool
  ity : Ty
deriving DecidableEq, Repr

/-- A source the instruction does not read. -/
def Use.unread : Use := ⟨0, false, false, false, false, .b32⟩

/-- A source of `n` registers of any class, a class-11 operand read as `t` (09 R109). -/
def Use.any (n : Nat) (t : Ty) : Use := ⟨n, true, true, true, true, t⟩

/-- A source of any class in type `t` (09 R109). -/
def Use.ty (t : Ty) : Use := Use.any (tyRegs t) t

/-- A source of `n` registers of class 00 or 01. -/
def Use.vs (n : Nat) : Use := ⟨n, true, true, false, false, .b32⟩

/-- A source of `n` registers of class 00, 01 or 11. -/
def Use.vsi (n : Nat) : Use := ⟨n, true, true, false, true, .b32⟩

/-- What the destination of an instruction is (07 R79). -/
inductive DForm where
  /-- `n` registers of class 00 (`v`), 01 (`s`) or 10 (`b`). -/
  | reg (n : Nat) (v s b : Bool)
  /-- A predicate named by `D`[2:0]. -/
  | pred
  /-- No register: `DC` 11 and `D` zero. -/
  | none
  /-- `vput`: class 00, a base number that is no destination by itself (09 R121). -/
  | base
  /-- `nop`: all of `D` and its class zero (09 R110). -/
  | zero
deriving DecidableEq, Repr

/-- The class of word 2 (07 R83, R85, R87, R88). -/
inductive Layout where
  | c | m | b | s
deriving DecidableEq, Repr

/-- What an instruction reads and writes. -/
structure Form where
  layout : Layout
  long   : Bool
  a      : Use := Use.unread
  b      : Use := Use.unread
  c      : Use := Use.unread
  d      : DForm := .none
  /-- Predicates read besides the guard. -/
  preds  : List Nat := []
  /-- Predicates written in the lanes of `Mask()` besides a `D` predicate. -/
  pds    : List Nat := []
  /-- `IMM12` holds a field of the instruction, so no source may be `IMM12` (07 R81). -/
  field  : Bool := false
  /-- One of the instructions that reduce lanes to a scalar (07 R80). -/
  reduce : Bool := false
  /-- The omitted count of `bell.arr`: a class-11 source B without a literal (13 R198). -/
  omitB  : Bool := false
  /-- A load whose lanes may return apart (03 R44). -/
  load   : Bool := false
  /-- A memory instruction that acts once for the warp, whose operand checks report the lowest lane (13 R183). -/
  once   : Bool := false
  /-- `vget` and `vput`: the index register, and the base register it counts from (09 R121). -/
  index  : Option (Nat × Nat) := none
deriving DecidableEq, Repr

/-! ### Checks of word 2 -/

/-- Which fields of a W-C word 2 the instruction reads (07 R82-R84). -/
structure Reads where
  rnd  : Bool := false
  sat  : Bool := false
  ftz  : Bool := false
  sign : Nat := 0
  cond : Bool := false
  pd   : Bool := false
deriving DecidableEq, Repr

/-- Every field the instruction does not read holds its one legal value (07 R82, R84). -/
def wcOk (r : Reads) (w : WC) : Bool :=
  (r.rnd || decide (w.rnd = .ne)) && (r.sat || !w.sat) && (r.ftz || !w.ftz) &&
  decide (w.neg.toNat < 2 ^ r.sign) && decide (w.abs.toNat < 2 ^ r.sign) &&
  (r.cond || decide (w.cond = 0)) && (r.pd || decide (w.pd = 7))

/-- The `TYPE` is one of those the row lists. -/
def tyIn (w : WC) (l : List Ty) : Bool := l.any fun t => decide (t = w.type)

/-- The predicate a secondary destination writes: none for 7 (07 R79). -/
def pdList (p : Nat) : List Nat := if p < 7 then [p] else []

/-- The predicate a source field reads: m7 is no register. -/
def pList (p : Nat) : List Nat := if p < 7 then [p] else []

def tInt : List Ty := [.s32, .n32, .s64, .n64, .s16x2, .n16x2, .s8x4]
def tInt32 : List Ty := [.s32, .n32, .s64, .n64]
def tSigned : List Ty := [.s32, .s64, .s16x2, .s8x4]
def tRaw : List Ty := [.b32, .b64, .b128]
def tRaw2 : List Ty := [.b32, .b64]
def tFloat : List Ty := [.f32, .f16x2, .bf16x2]
def tFloat5 : List Ty := [.f32, .f16x2, .bf16x2, .e4m3x4, .e5m2x4]

/-- A destination of `n` registers of class 00 or 01. -/
def dVS (n : Nat) : DForm := .reg n true true false

/-- A destination of `n` lane registers. -/
def dV (n : Nat) : DForm := .reg n true false false

/-- The form `f` where the check holds; no legal encoding otherwise. -/
def formIf (ok : Bool) (f : Form) : Option Form := if ok then some f else none

/-- An integer or logic row of R110: types, fields read, sources, destination; `SUB` zero. -/
def intForm (x : Head) (w : WC) (ts : List Ty) (r : Reads) (a b c : Use) (n : Nat) : Option Form :=
  formIf (tyIn w ts && wcOk r w && decide (x.sub = 0))
    { layout := .c, long := false, a, b, c, d := dVS n, pds := if r.pd then pdList w.pd.toNat else [] }

/-- Rows of one type for every operand, with two sources. -/
def int2 (x : Head) (w : WC) (ts : List Ty) (r : Reads) : Option Form :=
  intForm x w ts r (.ty w.type) (.ty w.type) .unread (tyRegs w.type)

/-- Rows with one source A. -/
def int1 (x : Head) (w : WC) (ts : List Ty) (r : Reads) : Option Form :=
  intForm x w ts r (.ty w.type) .unread .unread (tyRegs w.type)

/-- Rows with three sources. -/
def int3 (x : Head) (w : WC) (ts : List Ty) (r : Reads) : Option Form :=
  intForm x w ts r (.ty w.type) (.ty w.type) (.ty w.type) (tyRegs w.type)

/-- The fields the saturating rows with an overflow predicate read. -/
def rSatPd : Reads := { sat := true, pd := true }

/-- A `cmp` or `fcmp` destination (09 R113, R128): a predicate, or lane registers with `SUB` 0 and `PD` 7. A destination of class 01, which R113
does not describe, is none (DEDUCED, notes/assumptions/42.md). -/
def cmpForm (x : Head) (w : WC) (ok : Bool) : Option Form :=
  match x.d with
  | .none _ =>
    formIf (ok && decide (x.sub.toNat < 2))
      { layout := .c, long := false, a := .ty w.type, b := .ty w.type, d := .pred, pds := pdList w.pd.toNat }
  | _ =>
    formIf (ok && decide (x.sub = 0) && decide (w.pd = 7))
      { layout := .c, long := false, a := .ty w.type, b := .ty w.type, d := dV (tyRegs w.type) }

/-- `pset` (09 R116). -/
def psetForm (x : Head) (w : WC) : Option Form :=
  let sub := x.sub.toNat
  let imm := w.imm.toNat
  let base := tyIn w [.b32] && wcOk {} w && decide (sub < 64)
  match sub % 4 with
  | 0 => formIf (base && decide (imm < 64))
      { layout := .c, long := false, d := .pred, preds := pList (imm % 8) ++ pList (imm / 8), field := true }
  | 1 => formIf (base && decide (sub < 4) && decide (imm < 32))
      { layout := .c, long := false, a := .vsi 1, d := .pred, field := true }
  | 2 => formIf (base && decide (sub < 4))
      { layout := .c, long := false, d := dV 1, preds := [0, 1, 2, 3, 4, 5, 6] }
  | _ => formIf (base && decide (sub < 4) && decide (imm = 0))
      { layout := .c, long := false, a := .vsi 1, pds := [0, 1, 2, 3, 4, 5, 6], field := true }

/-- `vote`, `ballot` and `mcnt` (09 R117): the predicate read is `IMM12`[2:0], and no source is read. The register count of a
`ballot` follows the warp width, so its alignment is checked at issue. -/
def voteForm (w : WC) (ok : Bool) (d : DForm) : Option Form :=
  formIf (ok && tyIn w [.b32] && wcOk {} w && decide (w.imm.toNat < 8))
    { layout := .c, long := false, d, preds := pList w.imm.toNat, field := true, reduce := true }

/-- `xlane` and `bcast` (09 R119): `TYPE` gives the width of A and D; B is one 32-bit value, for `bcast` of class 00, 01 or 11. -/
def xlaneForm (x : Head) (w : WC) (subs : Nat) (b : Use) : Option Form :=
  formIf (tyIn w tRaw2 && wcOk { pd := true } w && decide (x.sub.toNat < subs))
    { layout := .c, long := false, a := ⟨tyRegs w.type, true, false, false, false, .b32⟩, b,
      d := dVS (tyRegs w.type), pds := pdList w.pd.toNat }

/-- The operation code of `wred` and `wscan` accepts the type (09 R120). -/
def redTypeOk (op : Nat) (w : WC) : Bool :=
  match op with
  | 0 | 1 | 2 => tyIn w [.s32, .n32, .s64, .n64, .f32]
  | 3 | 4 | 5 => tyIn w tRaw2
  | _ => false

/-- The fields `wred` and `wscan` read (09 R120). -/
def redReads (op : Nat) (w : WC) : Reads :=
  if tyFloat w.type then { rnd := true, ftz := true } else { sat := decide (op = 0) }

/-- A floating-point row of R125: types, fields read, sources; `SUB` zero. -/
def fpForm (x : Head) (w : WC) (long : Bool) (ts : List Ty) (r : Reads) (a b c : Use) : Option Form :=
  formIf (tyIn w ts && wcOk r w && decide (x.sub = 0)) { layout := .c, long, a, b, c, d := dVS 1 }

/-- A row with one source A read as a float, long (09 R130). -/
def fpUnary (x : Head) (w : WC) : Option Form :=
  fpForm x w true tFloat { rnd := true, ftz := true, sign := 1 } (.ty w.type) .unread .unread

/-- A row with two float sources. -/
def fp2 (x : Head) (w : WC) (rnd : Bool) : Option Form :=
  fpForm x w false tFloat { rnd, ftz := true, sign := 2 } (.ty w.type) (.ty w.type) .unread

/-- The pairs of `cvt` and the element number (09 R132). -/
def cvtForm (x : Head) (w : WC) : Option Form :=
  match tyOf (x.sub.toNat % 16) with
  | none => none
  | some st =>
    let n := x.sub.toNat / 16
    let isI (t : Ty) : Bool := decide (1 ≤ tyCode t) && decide (tyCode t ≤ 4)
    let nOk := if tyFloat st then decide (n < tyElems st) else decide (n = 0)
    formIf ((isI st || tyFloat st) && (isI w.type || tyFloat w.type) && nOk && decide (x.sub.toNat < 64) &&
        wcOk { rnd := true, sat := true, ftz := true, sign := if tyFloat st then 1 else 0 } w)
      { layout := .c, long := false, a := .ty st, d := dVS (tyRegs w.type) }

/-- The type by which `pack` reads A and B (09 R133). -/
def packSrc (t : Ty) : Ty :=
  match t with
  | .s16x2 | .s8x4 => .s32
  | .n16x2 => .n32
  | _ => .f32

/-- `pack` (09 R133). -/
def packForm (x : Head) (w : WC) : Option Form :=
  let t := w.type
  let four := decide (tyElems t = 4)
  let r : Reads := if tyFloat t then { rnd := true, sat := true, ftz := true } else { sat := true }
  formIf (tyIn w [.s16x2, .n16x2, .s8x4, .f16x2, .bf16x2, .e4m3x4, .e5m2x4] && wcOk r w &&
      decide (x.sub.toNat < if four then 2 else 1))
    { layout := .c, long := false, a := .any 1 (packSrc t), b := .any 1 (packSrc t),
      c := if four then .ty t else .unread, d := dVS 1 }

/-- `cvtd` (09 R135). -/
def cvtdForm (x : Head) (w : WC) : Option Form :=
  let code := x.sub.toNat
  let scaled := decide (5 ≤ code) && decide (code ≤ 11)
  formIf (tyIn w [.f32, .bf16x2] && wcOk { rnd := true } w && decide (3 ≤ code) && decide (code ≤ 12))
    { layout := .c, long := true, a := .any 1 .b32, b := if scaled then .any 1 .b32 else .unread, d := dVS 1 }

/-! ### W-B and W-S control instructions (09 R137) -/

/-- A control instruction with a W-B word 2. -/
def branchForm (x : Head) (ok : Bool) (sub : Nat) (a : Use) (d : DForm) : Option Form :=
  formIf (ok && decide (x.sub.toNat = sub)) { layout := .b, long := false, a, d }

/-- Hints 0 to 3 (07 R87). -/
def hintOk (w : WB) : Bool := decide (w.hint.toNat < 4)

/-- A W-S instruction whose word 2 holds `mask` bits only. -/
def sForm (w : WS) (mask : Nat) (ok : Bool) (f : Form) : Option Form :=
  formIf (ok && decide (w.toNat &&& mask = w.toNat)) f

/-- A short W-S instruction without sources or destination. -/
def ctlForm (x : Head) (w : WS) (mask : Nat) : Option Form :=
  sForm w mask (decide (x.sub = 0)) { layout := .s, long := false }

/-- Registers of `mfsr`'s destination (07 R89); 0 stands for `%act`, whose width is the warp's. -/
def sregRegs (n : Nat) : Nat :=
  match n with
  | 8 => 0
  | 9 | 12 => 2
  | _ => 1

/-! ### W-M instructions (13 R182) -/

/-- Registers of a W-M data operand of `SIZE` (13 R185). -/
def sizeRegs (n : Nat) : Nat :=
  match n with
  | 3 => 2
  | 4 => 4
  | _ => 1

/-- The codes of R85 and the order and scope pairs of R86. -/
def wmOk (w : WM) : Bool :=
  decide (w.space.toNat ≤ 3) && decide (w.size.toNat ≤ 4) && decide (w.scope.toNat ≤ 4) && decide (w.cpol.toNat ≤ 5) &&
  (decide (w.order = 0) || decide (w.scope ≠ 0))

/-- The base operand of a space (11 R144). -/
def baseUse (w : WM) : Use := Use.vs (if w.space = 0 ∨ w.space = 2 then 2 else 1)

/-- `SPACE` is one of the listed codes. -/
def spaceIn (w : WM) (l : List Nat) : Bool := l.any fun k => decide (k = w.space.toNat)

/-- `ld` (13 R182, R185; 11 R144 for the const space). -/
def ldForm (x : Head) (w : WM) : Option Form :=
  let n := sizeRegs w.size.toNat
  let scalarBase := match x.a with
    | .s _ => true
    | _ => false
  formIf (wmOk w && decide (x.sub = 0) && (!w.sign || decide (w.size.toNat ≤ 1)) && decide (w.order.toNat ≤ 1) &&
      (decide (w.space ≠ 2) || decide (w.scope = 0)))
    { layout := .m, long := true, a := baseUse w, d := .reg n true scalarBase false, load := true }

/-- `st` (13 R182, R186). -/
def stForm (x : Head) (w : WM) : Option Form :=
  formIf (wmOk w && decide (x.sub = 0) && !w.sign && (decide (w.order = 0) || decide (w.order = 2)) &&
      spaceIn w [0, 1, 3])
    { layout := .m, long := true, a := baseUse w, b := Use.vsi (sizeRegs w.size.toNat) }

/-- `ldg4` (13 R182, R188). -/
def ldg4Form (x : Head) (w : WM) : Option Form :=
  let m := x.sub.toNat
  formIf (wmOk w && decide (m < 16) && decide (m % 4 < 3) && decide (m / 4 < 3) && !w.sign && decide (w.scope = 0) &&
      decide (w.order = 0) && spaceIn w [0, 2] && decide (w.size.toNat ≤ 2))
    { layout := .m, long := true, a := baseUse w, b := Use.vs 1, c := Use.vs 1, d := dV (2 ^ w.size.toNat), load := true }

/-- The operation and sizes of `atom` and `red` (13 R189). -/
def atomOpOk (x : Head) (w : WM) (red : Bool) : Bool :=
  let op := x.sub.toNat % 16
  let sz := w.size.toNat
  let sg := x.sub.toNat / 16
  decide (sg < 2) && (decide (sg = 0) || decide (op = 1) || decide (op = 2)) && decide (2 ≤ sz) &&
  (match op with
    | 0 | 1 | 2 | 3 | 4 | 5 => decide (sz ≤ 3)
    | 6 | 7 => !red && decide (sz ≤ 4)
    | 8 => decide (sz = 3)
    | _ => false)

/-- `atom` and `red` (13 R182, R189-R191). -/
def atomForm (x : Head) (w : WM) (red : Bool) : Option Form :=
  let n := sizeRegs w.size.toNat
  formIf (wmOk w && atomOpOk x w red && !w.sign && decide (w.scope ≠ 0) && spaceIn w [0, 1] &&
      (!red || decide (w.order = 0) || decide (w.order = 2)))
    { layout := .m, long := true, a := baseUse w, b := Use.vsi n,
      c := if x.sub.toNat % 16 = 7 then Use.vs n else Use.unread, d := if red then .none else dV n }

/-- `prefetch` (13 R182, R192). -/
def prefetchForm (x : Head) (w : WM) : Option Form :=
  formIf (wmOk w && decide (x.sub = 0) && !w.sign && decide (w.size = 0) && decide (w.scope = 0) &&
      decide (w.order = 0) && spaceIn w [0, 2])
    { layout := .m, long := true, a := baseUse w }

/-- `fence` (13 R182, R194). -/
def fenceForm (x : Head) (w : WM) : Option Form :=
  formIf (wmOk w && decide (x.sub = 0) && !w.sign && decide (w.size = 0) && decide (w.space = 0) &&
      decide (w.cpol = 0) && decide (w.off = 0) && decide (w.scope ≠ 0) && decide (w.order ≠ 0))
    { layout := .m, long := true, once := true }

/-- `waita` (13 R182, R195). -/
def waitaForm (x : Head) (w : WM) : Option Form :=
  let n := sizeRegs w.size.toNat
  let c := x.sub.toNat % 8
  let sg := x.sub.toNat / 8
  let noD := match x.d with
    | .none _ => true
    | _ => false
  formIf (wmOk w && decide (c < 6) && decide (sg < 2) && (decide (sg = 0) || decide (c = 2) || decide (c = 3)) &&
      !w.sign && (decide (w.size = 2) || decide (w.size = 3)) && decide (2 ≤ w.scope.toNat) &&
      decide (w.order.toNat ≤ 1) && decide (w.cpol = 0) && spaceIn w [0, 1])
    { layout := .m, long := true, a := baseUse w, b := Use.vsi n, d := if noD then .none else dV n }

/-- `smap`, `swb` and `cflush` (13 R182, R193, R196, R197); the fields they do not read are zero. -/
def windowForm (x : Head) (w : WM) (once off cpol : Bool) (a b c : Use) : Option Form :=
  formIf (wmOk w && decide (x.sub = 0) && !w.sign && decide (w.space = 0) && decide (w.size = 0) &&
      decide (w.scope = 0) && decide (w.order = 0) && (off || decide (w.off = 0)) &&
      (decide (w.cpol = 0) || (cpol && decide (w.cpol = 2))))
    { layout := .m, long := true, a, b, c, once }

/-! ### W-S instructions of 13, 15, 17 and 21 -/

/-- No destination is named. -/
def noDst (x : Head) : Bool :=
  match x.d with
  | .none _ => true
  | _ => false

/-- `SUB` is zero. -/
def sub0 (x : Head) : Bool := decide (x.sub = 0)

/-- `PD` of a W-S word 2 (07 R88). -/
def wsPd (w : WS) : Nat := bits w.toNat 19 17

/-- The address of a bell: an offset, or a pair at job scope (13 R198). -/
def bellUse (w : WS) : Use := Use.vs (if bit w.toNat 0 then 2 else 1)

/-- `bell.init`, `bell.arr`, `bell.wait` (13 R198). -/
def bellForm (x : Head) (w : WS) (dst omitB : Bool) : Option Form :=
  sForm w 1 (sub0 x)
    { layout := .s, long := true, a := bellUse w, b := Use.vsi 1, omitB, once := true,
      d := if dst && !noDst x then dVS 2 else .none }

/-- `tcfg` (17 R246, R247; 07 R88). -/
def tcfgForm (x : Head) (w : WS) : Option Form :=
  let n := w.toNat
  sForm w 0xFFFF (sub0 x && decide (bits n 1 0 < 3) && decide (bits n 3 2 < 3) && decide (bits n 13 4 ≠ 0) &&
      (!bit n 15 || bit n 14))
    { layout := .s, long := true, a := Use.vsi 1, d := .pred }

/-- `tdrain` and `tquant` (17 R246, R251; 07 R88; 05 R61 for reserved codes). -/
def drainForm (x : Head) (w : WS) (mask : Nat) (ok : Bool) : Option Form :=
  sForm w mask ok
    { layout := .s, long := true, a := Use.vs (if bit x.sub.toNat 0 then 1 else 2), b := Use.vsi 1, c := Use.vs 2 }

/-! ### Every instruction -/

/-- What the instruction reads and writes, or nothing where a field holds a value its description does not assign (07 R82). The
B32 forms are their X96 rows (07 R77), whose forms follow through the expansion of the decoder; events are no encodings. `cvtq` takes the
`IMM12` of word 2 as an A of class 11 (DEDUCED, notes/assumptions/45.md). -/
def form : Instr → Option Form
  | .nop x w =>
    formIf (decide (x.sub = 0) && decide (x.hold = 0) && decide (w = ⟨.b32, .ne, false, false, 0, 0, 0, 0, 0⟩))
      { layout := .c, long := false, d := .zero }
  | .mov x w => intForm x w tRaw {} .unread (.ty w.type) .unread (tyRegs w.type)
  | .add x w | .sub x w | .mul x w => int2 x w tInt rSatPd
  | .mulhi x w => int2 x w tInt32 {}
  | .mad x w => int3 x w tInt rSatPd
  | .madw x w =>
    let wide : Ty := if w.type = .s32 then .s64 else .n64
    intForm x w [.s32, .n32] rSatPd (.ty w.type) (.ty w.type) (.ty wide) 2
  | .lea x w =>
    formIf (tyIn w [.s32, .n32] && wcOk {} w && decide (x.sub.toNat < 8))
      { layout := .c, long := false, a := .any 2 w.type, b := .any 1 w.type, d := dVS 2 }
  | .add3 x w => int3 x w tInt32 rSatPd
  | .min x w | .max x w => int2 x w tInt {}
  | .abs x w | .neg x w => int1 x w tSigned rSatPd
  | .and x w | .or x w | .xor x w => int2 x w tRaw {}
  | .not x w => int1 x w tRaw {}
  | .bitf x w =>
    formIf (tyIn w tRaw && wcOk {} w && decide (x.sub = 0) && decide (w.imm.toNat < 256))
      { layout := .c, long := false, a := .ty w.type, b := .ty w.type, c := .ty w.type, d := dVS (tyRegs w.type),
        field := true }
  | .shl x w | .shr x w => intForm x w [.b32, .n16x2, .b64] {} (.ty w.type) (.any 1 w.type) .unread (tyRegs w.type)
  | .sar x w => intForm x w [.s32, .s64, .s16x2] {} (.ty w.type) (.any 1 w.type) .unread (tyRegs w.type)
  | .dsh x w =>
    formIf (tyIn w [.b32] && wcOk {} w && decide (x.sub.toNat < 4))
      { layout := .c, long := false, a := .ty .b32, b := .ty .b32, c := .ty .b32, d := dVS 1 }
  | .fext x w => int2 x w [.s32, .n32] {}
  | .fins x w => int3 x w [.b32] {}
  | .clz x w | .popc x w => intForm x w tRaw2 {} (.ty w.type) .unread .unread 1
  | .brev x w => int1 x w tRaw2 {}
  | .cmp x w => cmpForm x w (tyIn w tInt && wcOk { cond := true, pd := true } w && decide (w.cond.toNat < 6))
  | .sel x w =>
    formIf (tyIn w tRaw && wcOk {} w && decide (x.sub.toNat < 16))
      { layout := .c, long := false, a := .ty w.type, b := .ty w.type, d := dVS (tyRegs w.type),
        preds := pList (x.sub.toNat % 8) }
  | .acs x w =>
    let pd := w.pd.toNat
    formIf (tyIn w [.s32, .s16x2] && wcOk rSatPd w && decide (x.sub = 0))
      { layout := .c, long := false, a := .ty w.type, b := .ty w.type, c := .ty w.type, d := dVS 1,
        pds := if tyElems w.type = 2 then pdList pd ++ (if pd < 7 then pdList (pd + 1) else []) else pdList pd }
  | .sad x w =>
    formIf (tyIn w [.s32, .n32, .s16x2, .n16x2, .s8x4] && wcOk rSatPd w &&
        decide (x.sub.toNat < if w.type = .s8x4 then 2 else 1))
      { layout := .c, long := false, a := .ty w.type, b := .ty w.type, c := .ty .n32, d := dVS 1,
        pds := pdList w.pd.toNat }
  | .bsel x w => int3 x w [.b32] {}
  | .pset x w => psetForm x w
  | .vote x w => voteForm w (decide (x.sub.toNat < 3)) (if noDst x then .pred else .reg 1 false true false)
  | .ballot x w => voteForm w (sub0 x) (dVS 1)
  | .mcnt x w => voteForm w (decide (x.sub.toNat < 2)) (if x.sub = 0 then dVS 1 else dV 1)
  | .xlane x w => xlaneForm x w 5 (.any 1 .b32)
  | .bcast x w => xlaneForm x w 1 (.vsi 1)
  | .wred x w =>
    let op := x.sub.toNat
    formIf (decide (op < 8) && redTypeOk op w && wcOk (redReads op w) w)
      { layout := .c, long := false, a := .ty w.type, d := dVS (tyRegs w.type), reduce := true }
  | .wscan x w =>
    let op := x.sub.toNat % 8
    formIf (decide (x.sub.toNat < 16) && redTypeOk op w && wcOk (redReads op w) w)
      { layout := .c, long := false, a := .ty w.type, d := dV (tyRegs w.type) }
  | .vget x w =>
    formIf (tyIn w [.b32] && wcOk {} w && decide (x.sub.toNat < 4))
      { layout := .c, long := true, a := ⟨0, true, false, false, false, .b32⟩, d := dV 1
        index := match x.a with
          | .v n => some (x.sub.toNat, n.toNat)
          | _ => none }
  | .vput x w =>
    formIf (tyIn w [.b32] && wcOk {} w && decide (x.sub.toNat < 4))
      { layout := .c, long := true, a := Use.vsi 1, d := .base
        index := match x.d with
          | .v n => some (x.sub.toNat, n.toNat)
          | _ => none }
  | .xset x w =>
    formIf (tyIn w [.b32] && wcOk {} w && decide (x.sub.toNat < 8))
      { layout := .c, long := false, a := .any 1 .b32, b := if x.sub.toNat < 4 then .any 1 .b32 else .unread }
  | .bmov x w =>
    formIf (tyIn w tRaw2 && wcOk {} w && sub0 x)
      { layout := .c, long := false, a := Use.vsi (tyRegs w.type), d := .reg (tyRegs w.type) false false true }
  | .bpass x w =>
    let inRange := match x.a with
      | .b k => decide (k.toNat + x.sub.toNat + 1 ≤ 64)
      | _ => true
    formIf (tyIn w [.b32] && wcOk {} w && decide (x.sub.toNat < 64) && inRange)
      { layout := .c, long := false, a := ⟨1, false, false, true, false, .b32⟩, b := Use.vsi 1 }
  | .smov x w =>
    formIf (tyIn w tRaw2 && wcOk {} w && decide (x.sub.toNat < 2))
      { layout := .c, long := false, a := .any (tyRegs w.type) w.type,
        b := if x.sub = 1 then ⟨1, false, true, false, true, .b32⟩ else .unread,
        d := .reg (tyRegs w.type) false true false, reduce := true }
  | .fadd x w | .fsub x w | .fmul x w => fp2 x w true
  | .ffma x w =>
    fpForm x w false tFloat { rnd := true, ftz := true, sign := 3 } (.ty w.type) (.ty w.type) (.ty w.type)
  | .fmin x w | .fmax x w => fp2 x w false
  | .fcmp x w =>
    cmpForm x w (tyIn w tFloat5 && wcOk { ftz := decide (tyElems w.type < 4), sign := 2, cond := true, pd := true } w)
  | .frnd x w => fpForm x w false tFloat { rnd := true, ftz := true, sign := 1 } (.ty w.type) .unread .unread
  | .rcp x w | .rsqrt x w | .sqrt x w | .exp2 x w | .log2 x w | .sinpi x w | .cospi x w => fpUnary x w
  | .fdot2 x w =>
    fpForm x w true [.f16x2, .bf16x2] { rnd := true, ftz := true, sign := 3 } (.ty w.type) (.ty w.type) (.ty .f32)
  | .cvt x w => cvtForm x w
  | .cvtq x w =>
    formIf (tyIn w [.f32] && wcOk {} w && decide (5 ≤ x.sub.toNat) && decide (x.sub.toNat ≤ 10))
      { layout := .c, long := true, a := .ty .f32, d := dVS 1 }
  | .cvtd x w => cvtdForm x w
  | .pack x w => packForm x w
  | .unpack x w =>
    let r : Reads := { ftz := decide (w.type = .f16x2) || decide (w.type = .bf16x2) }
    formIf (tyIn w [.s16x2, .n16x2, .s8x4, .f16x2, .bf16x2, .e4m3x4, .e5m2x4] && wcOk r w &&
        decide (x.sub.toNat < tyElems w.type))
      { layout := .c, long := false, a := .ty w.type, d := dVS 1 }
  | .fclass x w =>
    formIf (tyIn w tFloat && wcOk {} w && decide (x.sub.toNat < tyElems w.type))
      { layout := .c, long := false, a := .ty w.type, d := dVS 1 }
  | .fscale x w => fpForm x w false tFloat { rnd := true, ftz := true, sign := 1 } (.ty w.type) (.any 1 .s32) .unread
  | .bra x w => branchForm x (hintOk w) 0 .unread .none
  | .brx x w => branchForm x (hintOk w && decide (w.off = 0)) 0 (Use.vs 2) .none
  | .call x w => branchForm x (hintOk w) 0 .unread (dV 2)
  | .callR x w => branchForm x (hintOk w && decide (w.off = 0)) 1 (Use.vs 2) (dV 2)
  | .ret x w => sForm w 0 (sub0 x) { layout := .s, long := false, a := Use.vsi 2 }
  | .exit x w => ctlForm x w 0
  | .meet x w => branchForm x (decide (w.hint = 0)) 0 .unread .none
  | .trap x w => ctlForm x w 0xFF
  | .tret x w => ctlForm x w 0
  | .yield x w => ctlForm x w 0
  | .brk x w => ctlForm x w 0xFF
  | .mfsr x w =>
    sForm w 0x1F (sub0 x && decide (w.toNat < 16))
      { layout := .s, long := false, d := .reg (Nat.max 1 (sregRegs w.toNat)) true (decide (w.toNat ≠ 0)) false }
  | .mtsr x w =>
    sForm w 0x1F (sub0 x && (decide (w.toNat = 10) || decide (w.toNat = 11) || decide (w.toNat = 12)))
      { layout := .s, long := false, a := Use.vsi (sregRegs w.toNat) }
  | .ld x w => ldForm x w
  | .st x w => stForm x w
  | .ldg4 x w => ldg4Form x w
  | .atom x w => atomForm x w false
  | .red x w => atomForm x w true
  | .prefetch x w => prefetchForm x w
  | .fence x w => fenceForm x w
  | .waita x w => waitaForm x w
  | .smap x w => windowForm x w true true false (Use.vs 2) (Use.vs 1) (Use.vs 1)
  | .swb x w => windowForm x w true false false .unread .unread .unread
  | .cflush x w => windowForm x w false true true (Use.vs 2) .unread .unread
  | .bellInit x w => bellForm x w false false
  | .bellArr x w => bellForm x w true true
  | .bellWait x w => bellForm x w true false
  | .fset x w =>
    sForm w 7 (sub0 x && decide (2 ≤ w.toNat) && decide (w.toNat ≤ 4))
      { layout := .s, long := true, a := Use.vs 2, b := Use.vsi 2 }
  | .fon x w => sForm w 0 (sub0 x) { layout := .s, long := true, a := Use.vs 2, b := Use.vs 2 }
  | .qres x w =>
    sForm w 0xE0001 (sub0 x && (bit w.toNat 0 || decide (wsPd w = 7)))
      { layout := .s, long := true, a := Use.vsi 2, b := Use.vsi 1, d := dVS 1, once := true,
        pds := if bit w.toNat 0 then pdList (wsPd w) else [] }
  | .qcom x w => sForm w 0 (sub0 x) { layout := .s, long := true, a := Use.vsi 2, b := Use.vsi 1, c := Use.vsi 1, once := true }
  | .qtake x w =>
    sForm w 0xE0000 (sub0 x)
      { layout := .s, long := true, a := Use.vsi 2, b := Use.vsi 1, d := dVS 2, pds := pdList (wsPd w), once := true }
  | .spawn x w =>
    sForm w 0xE0000 (sub0 x)
      { layout := .s, long := true, a := Use.vsi 2, b := Use.vsi 1, c := Use.vsi 1, pds := pdList (wsPd w), once := true }
  | .cpy x w =>
    sForm w 0x3F (sub0 x && decide (bits w.toNat 2 0 ≤ 4)) { layout := .s, long := true, a := Use.vsi 2, once := true }
  | .qfen x w => sForm w 0x3F (sub0 x && decide (w ≠ 0)) { layout := .s, long := true, once := true }
  | .tcfg x w => tcfgForm x w
  | .bres x w =>
    sForm w 0xF (decide (x.sub.toNat < 8) && decide (w.toNat ≤ 12)) { layout := .s, long := true, b := Use.vsi 2 }
  | .brel x w => sForm w 0 (decide (x.sub.toNat < 8)) { layout := .s, long := true }
  | .tload x w =>
    sForm w 3 (decide (x.sub.toNat < 16) && decide (w.toNat ≤ 2))
      { layout := .s, long := true, a := Use.vs (if w.toNat = 1 then 1 else 2), b := Use.vsi 1 }
  | .mma x w => sForm w 0xF (decide (x.sub.toNat < 64)) { layout := .s, long := true, a := Use.vs 2 }
  | .tdrain x w => drainForm x w 0x3FF (decide (x.sub.toNat < 4) && decide (bits w.toNat 6 3 ≤ 12))
  | .tzero x w => sForm w 7 (sub0 x) { layout := .s, long := true }
  | .tquant x w =>
    drainForm x w 0x7F (decide (x.sub.toNat < 2) && decide (5 ≤ bits w.toNat 6 3) && decide (bits w.toNat 6 3 ≤ 10))
  | .mstat x w => sForm w 0 (sub0 x) { layout := .s, long := true, d := dVS 2 }
  | .sopen x w =>
    sForm w 0xE0000 (sub0 x)
      { layout := .s, long := true, a := Use.vsi 2, b := Use.vsi 1, c := Use.vsi 1,
        d := if noDst x then .none else dVS 1, pds := pdList (wsPd w) }
  | .senter x w => sForm w 0 (sub0 x) { layout := .s, long := true, a := Use.vsi 2, b := Use.vsi 1 }
  | .sleave x w => sForm w 0 (sub0 x) { layout := .s, long := true, a := Use.vsi 2 }
  | .sskip x w => sForm w 0 (sub0 x) { layout := .s, long := true, a := Use.vsi 2, b := Use.vsi 1 }
  | .stake x w => sForm w 0 (sub0 x) { layout := .s, long := true, a := Use.vsi 2, d := dVS 2 }
  | .rast x w => sForm w 1 (sub0 x) { layout := .s, long := true, a := Use.vsi 2 }
  | .fdone x w | .fpois x w => sForm w 0 (sub0 x) { layout := .s, long := true }
  | .b32Nop _ | .b32Mov _ | .b32AddS32 _ | .b32SubS32 _ | .b32MulS32 _ | .b32And _ | .b32Or _ | .b32Xor _
  | .b32Shl _ | .b32Shr _ | .b32Sar _ | .b32MinS32 _ | .b32MaxS32 _ | .b32MinN32 _ | .b32MaxN32 _ | .b32FaddF32 _
  | .b32FsubF32 _ | .b32FmulF32 _ | .b32FminF32 _ | .b32FmaxF32 _ | .b32FaddF16x2 _ | .b32FmulF16x2 _
  | .b32FaddBf16x2 _ | .b32FmulBf16x2 _ | .b32AddS16x2 _ | .b32SubS16x2 _ | .b32MaxS16x2 _ | .b32MinS16x2 _
  | .b32XlaneFrom _ | .b32XlaneSwap _ | .b32Bcast _ | .issueArbitration _ _ | .maskPredictionRepair _ _ _
  | .resultReturn _ _ _ _ _ _ | .lineRequest _ _ _ _ | .fillRecordWaitServed _ _ | .fillTaskPlace _
  | .fillRelease _ _ _ | .copyExecute _ _ | .copyComplete _ _ | .continuationCommit _ | .hodTloadExecute _
  | .tcfgBarrier _ | .mmaExecute _ _ | .mmaComplete _ | .tdrainExecute _ | .tquantExecute _ | .tzeroExecute _
  | .mstatReport _ _ _ | .stallBudgetExpiry _ _ | .stallCount _ | .rasterBatch _ | .tileKeyOpen _
  | .rasterBatchComplete _ | .crewDispatch _ | .parkedEviction _ | .crewSave _ _ | .saveDeferLimit _ _
  | .crewRetire _ _ | .jobEnd _ _ | .completionRecordWrite _ | .doorbell _ _ | .launch _ | .jobBind _ | .config _
  | .coreMove _ | .tlbinv _ | .pageres _ | .genwr _ | .geninv _ | .bias _ | .counters _ | .rackrd _ | .retired _
  | .scrub _ | .settime _ | .layertest _ | .power _ | .attest _ | .q0hdr _ | .reset _ | .registerWriteIgnored _ _
  | .helper _ _ | .hwselHelperPart _ | .hwselRepairEntry _ | .hwselHelperComplete _ | .hwselEnrol _
  | .i3cDynamicAddress _ | .railsStable | .train _ | .march _ | .hostMemRead _ _ | .hostMemWrite _ _
  | .hbmCorrected _ | .hbmUncorrectable _ | .llcCorrected _ _ _ | .llcUeClean _ _ _ | .llcUeDirty _ _ _
  | .sramUncorrectable _ _ | .powerLoopEval _ _ _ | .thermalThrottle _ | .thermalTrip | .dieFallsBelow100c
  | .channelRefresh _ => none

/-! ### Checks of words 0 and 1 -/

/-- A source holds a class, a field and an alignment its use allows (07 R79-R81, 05 R54). -/
def srcOk (u : Use) (s : Src) : Bool :=
  if u.n = 0 then
    match s with
    | .v n => u.v || decide (n = 0)
    | _ => false
  else
    match s with
    | .v n => u.v && decide (n.toNat % u.n = 0)
    | .s n => u.s && decide (n.toNat % u.n = 0)
    | .b n => u.b && decide (n.toNat % u.n = 0)
    | .imm => u.imm

/-- The destination is what the form says (07 R79, 05 R54). -/
def dstOk (f : DForm) (d : Dst) : Bool :=
  match f, d with
  | .reg n v _ _, .v k => v && decide (k.toNat % n = 0)
  | .reg n _ s _, .s k => s && decide (k.toNat % n = 0)
  | .reg n _ _ b, .b k => b && decide (k.toNat % n = 0)
  | .pred, .none k => decide (k.toNat < 8)
  | .none, .none k => decide (k = 0)
  | .base, .v _ => true
  | .zero, .v k => decide (k = 0)
  | _, _ => false

/-- The source is of class 11. -/
def isImm : Src → Bool
  | .imm => true
  | _ => false

/-- The source is a lane register. -/
def isLane : Src → Bool
  | .v _ => true
  | _ => false

/-- The use of the class-11 source of an instruction, if there is one. -/
def immUse (f : Form) (x : Head) : Option Use :=
  if isImm x.a then some f.a else if isImm x.b then some f.b else if isImm x.c then some f.c else none

/-- `IMM12` holds a value that the operand type reads (07 R81). -/
def imm12Ok (t : Ty) (w : BitVec 12) : Bool :=
  match t with
  | .s8x4 => decide (-128 ≤ w.toInt) && decide (w.toInt ≤ 127)
  | .e4m3x4 | .e5m2x4 => decide (w.toNat < 256)
  | _ => true

/-- The `IMM12` field of an instruction's word 2; zero for other layouts. -/
def imm12Of : Instr → BitVec 12
  | .nop _ w | .mov _ w | .add _ w | .sub _ w | .mul _ w | .mulhi _ w | .mad _ w | .madw _ w | .lea _ w | .add3 _ w
  | .min _ w | .max _ w | .abs _ w | .neg _ w | .and _ w | .or _ w | .xor _ w | .not _ w | .bitf _ w | .shl _ w
  | .shr _ w | .sar _ w | .dsh _ w | .fext _ w | .fins _ w | .clz _ w | .popc _ w | .brev _ w | .cmp _ w | .sel _ w
  | .acs _ w | .sad _ w | .bsel _ w | .pset _ w | .vote _ w | .ballot _ w | .mcnt _ w | .xlane _ w | .bcast _ w
  | .wred _ w | .wscan _ w | .vget _ w | .vput _ w | .xset _ w | .bmov _ w | .bpass _ w | .smov _ w | .fadd _ w
  | .fsub _ w | .fmul _ w | .ffma _ w | .fmin _ w | .fmax _ w | .fcmp _ w | .frnd _ w | .rcp _ w | .rsqrt _ w
  | .sqrt _ w | .exp2 _ w | .log2 _ w | .sinpi _ w | .cospi _ w | .fdot2 _ w | .cvt _ w | .cvtq _ w | .cvtd _ w
  | .pack _ w | .unpack _ w | .fclass _ w | .fscale _ w => w.imm
  | .bra _ _ | .brx _ _ | .call _ _ | .callR _ _ | .ret _ _ | .exit _ _ | .meet _ _ | .trap _ _ | .tret _ _
  | .yield _ _ | .brk _ _ | .mfsr _ _ | .mtsr _ _ | .ld _ _ | .st _ _ | .ldg4 _ _ | .atom _ _ | .red _ _
  | .prefetch _ _ | .fence _ _ | .waita _ _ | .smap _ _ | .swb _ _ | .cflush _ _ | .bellInit _ _ | .bellArr _ _
  | .bellWait _ _ | .fset _ _ | .fon _ _ | .qres _ _ | .qcom _ _ | .qtake _ _ | .spawn _ _ | .cpy _ _ | .qfen _ _
  | .tcfg _ _ | .bres _ _ | .brel _ _ | .tload _ _ | .mma _ _ | .tdrain _ _ | .tzero _ _ | .tquant _ _ | .mstat _ _
  | .sopen _ _ | .senter _ _ | .sleave _ _ | .sskip _ _ | .stake _ _ | .rast _ _ | .fdone _ _ | .fpois _ _
  | .b32Nop _ | .b32Mov _ | .b32AddS32 _ | .b32SubS32 _ | .b32MulS32 _ | .b32And _ | .b32Or _ | .b32Xor _
  | .b32Shl _ | .b32Shr _ | .b32Sar _ | .b32MinS32 _ | .b32MaxS32 _ | .b32MinN32 _ | .b32MaxN32 _ | .b32FaddF32 _
  | .b32FsubF32 _ | .b32FmulF32 _ | .b32FminF32 _ | .b32FmaxF32 _ | .b32FaddF16x2 _ | .b32FmulF16x2 _
  | .b32FaddBf16x2 _ | .b32FmulBf16x2 _ | .b32AddS16x2 _ | .b32SubS16x2 _ | .b32MaxS16x2 _ | .b32MinS16x2 _
  | .b32XlaneFrom _ | .b32XlaneSwap _ | .b32Bcast _ | .issueArbitration _ _ | .maskPredictionRepair _ _ _
  | .resultReturn _ _ _ _ _ _ | .lineRequest _ _ _ _ | .fillRecordWaitServed _ _ | .fillTaskPlace _
  | .fillRelease _ _ _ | .copyExecute _ _ | .copyComplete _ _ | .continuationCommit _ | .hodTloadExecute _
  | .tcfgBarrier _ | .mmaExecute _ _ | .mmaComplete _ | .tdrainExecute _ | .tquantExecute _ | .tzeroExecute _
  | .mstatReport _ _ _ | .stallBudgetExpiry _ _ | .stallCount _ | .rasterBatch _ | .tileKeyOpen _
  | .rasterBatchComplete _ | .crewDispatch _ | .parkedEviction _ | .crewSave _ _ | .saveDeferLimit _ _
  | .crewRetire _ _ | .jobEnd _ _ | .completionRecordWrite _ | .doorbell _ _ | .launch _ | .jobBind _ | .config _
  | .coreMove _ | .tlbinv _ | .pageres _ | .genwr _ | .geninv _ | .bias _ | .counters _ | .rackrd _ | .retired _
  | .scrub _ | .settime _ | .layertest _ | .power _ | .attest _ | .q0hdr _ | .reset _ | .registerWriteIgnored _ _
  | .helper _ _ | .hwselHelperPart _ | .hwselRepairEntry _ | .hwselHelperComplete _ | .hwselEnrol _
  | .i3cDynamicAddress _ | .railsStable | .train _ | .march _ | .hostMemRead _ _ | .hostMemWrite _ _
  | .hbmCorrected _ | .hbmUncorrectable _ | .llcCorrected _ _ _ | .llcUeClean _ _ _ | .llcUeDirty _ _ _
  | .sramUncorrectable _ _ | .powerLoopEval _ _ _ | .thermalThrottle _ | .thermalTrip | .dieFallsBelow100c
  | .channelRefresh _ => 0

/-- Class 11, `IMM12` and the literal follow R81 and R198. -/
def immOk (f : Form) (x : Head) (imm : BitVec 12) : Bool :=
  match x.lit, immUse f x with
  | none, none => f.field || decide (imm = 0)
  | none, some u =>
    match f.layout with
    | .c => !f.field && imm12Ok u.ity imm
    | _ => f.omitB && isImm x.b
  | some l, some u =>
    decide (f.layout ≠ .b) && (f.field || decide (imm = 0)) && decide (u.n ≠ 4) && (decide (u.n = 2) || decide (l.toNat < 2 ^ 32))
  | some _, none => false

/-- At most one source is of class 11 (07 R81). -/
def oneImm (x : Head) : Bool :=
  !(isImm x.a && isImm x.b) && !(isImm x.a && isImm x.c) && !(isImm x.b && isImm x.c)

/-- `HOLD` names no source, or one that is read and of class 00 (07 R80). -/
def holdOk (f : Form) (x : Head) : Bool :=
  match x.hold.toNat with
  | 0 => true
  | 1 => decide (f.a.n ≠ 0) && isLane x.a
  | 2 => decide (f.b.n ≠ 0) && isLane x.b
  | _ => decide (f.c.n ≠ 0) && isLane x.c

/-- A W-C destination of class 01 takes no source of class 00, but where lanes are reduced (07 R80). -/
def scalarOk (f : Form) (x : Head) : Bool :=
  match f.layout, x.d with
  | .c, .s _ => f.reduce ||
    !((decide (f.a.n ≠ 0) && isLane x.a) || (decide (f.b.n ≠ 0) && isLane x.b) || (decide (f.c.n ≠ 0) && isLane x.c))
  | _, _ => true

/-- Words 0 and 1 are legal for the form (07 R78-R81). -/
def headOk (f : Form) (x : Head) (imm : BitVec 12) : Bool :=
  srcOk f.a x.a && srcOk f.b x.b && srcOk f.c x.c && dstOk f.d x.d && oneImm x && immOk f x imm && holdOk f x &&
  scalarOk f x && (!x.gn || decide (x.g ≠ 7))

end Sys2Proof.Machine
end

