-- ==== Sys2Proof/Machine/Views.lean ====
section
/-! DEFINITION. The views of an instruction that the decoder, the encoder and the issue logic share: its head, its opcode, its
expansion to X96 (07 R77) and its length (07 R74). -/

namespace Sys2Proof.Machine

/-- Word 2 of an X96 instruction, by layout (07 R83, R85, R87, R88). -/
inductive Word2 where
  | c (w : WC)
  | m (w : WM)
  | b (w : WB)
  | s (w : WS)
deriving DecidableEq, Repr

/-- The head of an X96 instruction with no field set. -/
def Head.zero : Head := ⟨false, 0, 7, false, .none 0, 0, .v 0, .v 0, .v 0, none⟩

/-- Words 0 and 1 of an X96 instruction. -/
def x96Head : Instr → Option Head
  | .nop x _ | .mov x _ | .add x _ | .sub x _ | .mul x _ | .mulhi x _ | .mad x _ | .madw x _ | .lea x _ | .add3 x _
  | .min x _ | .max x _ | .abs x _ | .neg x _ | .and x _ | .or x _ | .xor x _ | .not x _ | .bitf x _ | .shl x _
  | .shr x _ | .sar x _ | .dsh x _ | .fext x _ | .fins x _ | .clz x _ | .popc x _ | .brev x _ | .cmp x _ | .sel x _
  | .acs x _ | .sad x _ | .bsel x _ | .pset x _ | .vote x _ | .ballot x _ | .mcnt x _ | .xlane x _ | .bcast x _
  | .wred x _ | .wscan x _ | .vget x _ | .vput x _ | .xset x _ | .bmov x _ | .bpass x _ | .smov x _ | .fadd x _
  | .fsub x _ | .fmul x _ | .ffma x _ | .fmin x _ | .fmax x _ | .fcmp x _ | .frnd x _ | .rcp x _ | .rsqrt x _
  | .sqrt x _ | .exp2 x _ | .log2 x _ | .sinpi x _ | .cospi x _ | .fdot2 x _ | .cvt x _ | .cvtq x _ | .cvtd x _
  | .pack x _ | .unpack x _ | .fclass x _ | .fscale x _ | .bra x _ | .brx x _ | .call x _ | .callR x _ | .ret x _
  | .exit x _ | .meet x _ | .trap x _ | .tret x _ | .yield x _ | .brk x _ | .mfsr x _ | .mtsr x _ | .ld x _
  | .st x _ | .ldg4 x _ | .atom x _ | .red x _ | .prefetch x _ | .fence x _ | .waita x _ | .smap x _ | .swb x _
  | .cflush x _ | .bellInit x _ | .bellArr x _ | .bellWait x _ | .fset x _ | .fon x _ | .qres x _ | .qcom x _
  | .qtake x _ | .spawn x _ | .cpy x _ | .qfen x _ | .tcfg x _ | .bres x _ | .brel x _ | .tload x _ | .mma x _
  | .tdrain x _ | .tzero x _ | .tquant x _ | .mstat x _ | .sopen x _ | .senter x _ | .sleave x _ | .sskip x _
  | .stake x _ | .rast x _ | .fdone x _ | .fpois x _ => some x
  | .b32Nop _ | .b32Mov _ | .b32AddS32 _ | .b32SubS32 _ | .b32MulS32 _ | .b32And _ | .b32Or _ | .b32Xor _
  | .b32Shl _ | .b32Shr _ | .b32Sar _ | .b32MinS32 _ | .b32MaxS32 _ | .b32MinN32 _ | .b32MaxN32 _ | .b32FaddF32 _
  | .b32FsubF32 _ | .b32FmulF32 _ | .b32FminF32 _ | .b32FmaxF32 _ | .b32FaddF16x2 _ | .b32FmulF16x2 _
  | .b32FaddBf16x2 _ | .b32FmulBf16x2 _ | .b32AddS16x2 _ | .b32SubS16x2 _ | .b32MaxS16x2 _ | .b32MinS16x2 _
  | .b32XlaneFrom _ | .b32XlaneSwap _ | .b32Bcast _ | .issueArbitration _ _ | .maskPredictionRepair _ _ _
  | .resultReturn _ _ _ _ _ _ | .lineRequest _ _ _ _ | .fillRecordWaitServed _ _ | .fillTaskPlace _
  | .fillRelease _ _ _ | .copyExecute _ _ | .copyComplete _ _ | .continuationCommit _ | .hodTloadExecute _
  | .tcfgBarrier _ | .mmaExecute _ _ | .mmaComplete _ | .tdrainExecute _ | .tquantExecute _ | .tzeroExecute _
  | .mstatReport _ _ _ | .stallBudgetExpiry _ _ | .stallCount _ | .rasterBatch _ | .tileKeyOpen _
  | .rasterBatchComplete _ | .crewDispatch _ | .parkedEviction _ | .crewSave _ _ | .saveDeferLimit _ _
  | .crewRetire _ _ | .jobEnd _ _ | .completionRecordWrite _ | .doorbell _ _ | .launch _ | .jobBind _ | .config _
  | .coreMove _ | .tlbinv _ | .pageres _ | .genwr _ | .geninv _ | .bias _ | .counters _ | .rackrd _ | .retired _
  | .scrub _ | .settime _ | .layertest _ | .power _ | .attest _ | .q0hdr _ | .reset _ | .registerWriteIgnored _ _
  | .helper _ _ | .hwselHelperPart _ | .hwselRepairEntry _ | .hwselHelperComplete _ | .hwselEnrol _
  | .i3cDynamicAddress _ | .railsStable | .train _ | .march _ | .hostMemRead _ _ | .hostMemWrite _ _
  | .hbmCorrected _ | .hbmUncorrectable _ | .llcCorrected _ _ _ | .llcUeClean _ _ _ | .llcUeDirty _ _ _
  | .sramUncorrectable _ _ | .powerLoopEval _ _ _ | .thermalThrottle _ | .thermalTrip | .dieFallsBelow100c
  | .channelRefresh _ => none

/-- Word 2 of an X96 instruction. -/
def word2 : Instr → Option Word2
  | .nop _ w | .mov _ w | .add _ w | .sub _ w | .mul _ w | .mulhi _ w | .mad _ w | .madw _ w | .lea _ w | .add3 _ w
  | .min _ w | .max _ w | .abs _ w | .neg _ w | .and _ w | .or _ w | .xor _ w | .not _ w | .bitf _ w | .shl _ w
  | .shr _ w | .sar _ w | .dsh _ w | .fext _ w | .fins _ w | .clz _ w | .popc _ w | .brev _ w | .cmp _ w | .sel _ w
  | .acs _ w | .sad _ w | .bsel _ w | .pset _ w | .vote _ w | .ballot _ w | .mcnt _ w | .xlane _ w | .bcast _ w
  | .wred _ w | .wscan _ w | .vget _ w | .vput _ w | .xset _ w | .bmov _ w | .bpass _ w | .smov _ w | .fadd _ w
  | .fsub _ w | .fmul _ w | .ffma _ w | .fmin _ w | .fmax _ w | .fcmp _ w | .frnd _ w | .rcp _ w | .rsqrt _ w
  | .sqrt _ w | .exp2 _ w | .log2 _ w | .sinpi _ w | .cospi _ w | .fdot2 _ w | .cvt _ w | .cvtq _ w | .cvtd _ w
  | .pack _ w | .unpack _ w | .fclass _ w | .fscale _ w => some (.c w)
  | .ld _ w | .st _ w | .ldg4 _ w | .atom _ w | .red _ w | .prefetch _ w | .fence _ w | .waita _ w | .smap _ w
  | .swb _ w | .cflush _ w => some (.m w)
  | .bra _ w | .brx _ w | .call _ w | .callR _ w | .meet _ w => some (.b w)
  | .ret _ w | .exit _ w | .trap _ w | .tret _ w | .yield _ w | .brk _ w | .mfsr _ w | .mtsr _ w | .bellInit _ w
  | .bellArr _ w | .bellWait _ w | .fset _ w | .fon _ w | .qres _ w | .qcom _ w | .qtake _ w | .spawn _ w | .cpy _ w
  | .qfen _ w | .tcfg _ w | .bres _ w | .brel _ w | .tload _ w | .mma _ w | .tdrain _ w | .tzero _ w | .tquant _ w
  | .mstat _ w | .sopen _ w | .senter _ w | .sleave _ w | .sskip _ w | .stake _ w | .rast _ w | .fdone _ w
  | .fpois _ w => some (.s w)
  | .b32Nop _ | .b32Mov _ | .b32AddS32 _ | .b32SubS32 _ | .b32MulS32 _ | .b32And _ | .b32Or _ | .b32Xor _
  | .b32Shl _ | .b32Shr _ | .b32Sar _ | .b32MinS32 _ | .b32MaxS32 _ | .b32MinN32 _ | .b32MaxN32 _ | .b32FaddF32 _
  | .b32FsubF32 _ | .b32FmulF32 _ | .b32FminF32 _ | .b32FmaxF32 _ | .b32FaddF16x2 _ | .b32FmulF16x2 _
  | .b32FaddBf16x2 _ | .b32FmulBf16x2 _ | .b32AddS16x2 _ | .b32SubS16x2 _ | .b32MaxS16x2 _ | .b32MinS16x2 _
  | .b32XlaneFrom _ | .b32XlaneSwap _ | .b32Bcast _ | .issueArbitration _ _ | .maskPredictionRepair _ _ _
  | .resultReturn _ _ _ _ _ _ | .lineRequest _ _ _ _ | .fillRecordWaitServed _ _ | .fillTaskPlace _
  | .fillRelease _ _ _ | .copyExecute _ _ | .copyComplete _ _ | .continuationCommit _ | .hodTloadExecute _
  | .tcfgBarrier _ | .mmaExecute _ _ | .mmaComplete _ | .tdrainExecute _ | .tquantExecute _ | .tzeroExecute _
  | .mstatReport _ _ _ | .stallBudgetExpiry _ _ | .stallCount _ | .rasterBatch _ | .tileKeyOpen _
  | .rasterBatchComplete _ | .crewDispatch _ | .parkedEviction _ | .crewSave _ _ | .saveDeferLimit _ _
  | .crewRetire _ _ | .jobEnd _ _ | .completionRecordWrite _ | .doorbell _ _ | .launch _ | .jobBind _ | .config _
  | .coreMove _ | .tlbinv _ | .pageres _ | .genwr _ | .geninv _ | .bias _ | .counters _ | .rackrd _ | .retired _
  | .scrub _ | .settime _ | .layertest _ | .power _ | .attest _ | .q0hdr _ | .reset _ | .registerWriteIgnored _ _
  | .helper _ _ | .hwselHelperPart _ | .hwselRepairEntry _ | .hwselHelperComplete _ | .hwselEnrol _
  | .i3cDynamicAddress _ | .railsStable | .train _ | .march _ | .hostMemRead _ _ | .hostMemWrite _ _
  | .hbmCorrected _ | .hbmUncorrectable _ | .llcCorrected _ _ _ | .llcUeClean _ _ _ | .llcUeDirty _ _ _
  | .sramUncorrectable _ _ | .powerLoopEval _ _ _ | .thermalThrottle _ | .thermalTrip | .dieFallsBelow100c
  | .channelRefresh _ => none

/-- The extended opcode of an X96 instruction (07 R90). -/
def opcode : Instr → Option Nat
  | .nop _ _ => some 0x00 | .mov _ _ => some 0x01 | .add _ _ => some 0x02 | .sub _ _ => some 0x03
  | .mul _ _ => some 0x04 | .mulhi _ _ => some 0x05 | .mad _ _ => some 0x06 | .madw _ _ => some 0x07
  | .lea _ _ => some 0x08 | .add3 _ _ => some 0x09 | .min _ _ => some 0x0a | .max _ _ => some 0x0b
  | .abs _ _ => some 0x0c | .neg _ _ => some 0x0d | .and _ _ => some 0x0e | .or _ _ => some 0x0f
  | .xor _ _ => some 0x10 | .not _ _ => some 0x11 | .bitf _ _ => some 0x12 | .shl _ _ => some 0x13
  | .shr _ _ => some 0x14 | .sar _ _ => some 0x15 | .dsh _ _ => some 0x16 | .fext _ _ => some 0x17
  | .fins _ _ => some 0x18 | .clz _ _ => some 0x19 | .popc _ _ => some 0x1a | .brev _ _ => some 0x1b
  | .cmp _ _ => some 0x1c | .sel _ _ => some 0x1d | .acs _ _ => some 0x1e | .sad _ _ => some 0x1f
  | .bsel _ _ => some 0x20 | .pset _ _ => some 0x30 | .vote _ _ => some 0x31 | .ballot _ _ => some 0x32
  | .mcnt _ _ => some 0x33 | .xlane _ _ => some 0x34 | .bcast _ _ => some 0x35 | .wred _ _ => some 0x36
  | .wscan _ _ => some 0x37 | .vget _ _ => some 0x38 | .vput _ _ => some 0x39 | .xset _ _ => some 0x3a
  | .bmov _ _ => some 0x3b | .bpass _ _ => some 0x3c | .smov _ _ => some 0x3d | .fadd _ _ => some 0x40
  | .fsub _ _ => some 0x41 | .fmul _ _ => some 0x42 | .ffma _ _ => some 0x43 | .fmin _ _ => some 0x44
  | .fmax _ _ => some 0x45 | .fcmp _ _ => some 0x46 | .frnd _ _ => some 0x47 | .rcp _ _ => some 0x48
  | .rsqrt _ _ => some 0x49 | .sqrt _ _ => some 0x4a | .exp2 _ _ => some 0x4b | .log2 _ _ => some 0x4c
  | .sinpi _ _ => some 0x4d | .cospi _ _ => some 0x4e | .fdot2 _ _ => some 0x4f | .cvt _ _ => some 0x50
  | .cvtq _ _ => some 0x51 | .cvtd _ _ => some 0x52 | .pack _ _ => some 0x53 | .unpack _ _ => some 0x54
  | .fclass _ _ => some 0x55 | .fscale _ _ => some 0x56 | .bra _ _ => some 0x60 | .brx _ _ => some 0x61
  | .call _ _ => some 0x62 | .callR _ _ => some 0x62 | .ret _ _ => some 0x63 | .exit _ _ => some 0x64
  | .meet _ _ => some 0x65 | .trap _ _ => some 0x66 | .tret _ _ => some 0x67 | .yield _ _ => some 0x68
  | .brk _ _ => some 0x69 | .mfsr _ _ => some 0x6a | .mtsr _ _ => some 0x6b | .ld _ _ => some 0x80
  | .st _ _ => some 0x81 | .ldg4 _ _ => some 0x82 | .atom _ _ => some 0x83 | .red _ _ => some 0x84
  | .prefetch _ _ => some 0x85 | .fence _ _ => some 0x86 | .waita _ _ => some 0x87 | .smap _ _ => some 0x88
  | .swb _ _ => some 0x89 | .cflush _ _ => some 0x8a | .bellInit _ _ => some 0xa0 | .bellArr _ _ => some 0xa1
  | .bellWait _ _ => some 0xa2 | .fset _ _ => some 0xa3 | .fon _ _ => some 0xa4 | .qres _ _ => some 0xa5
  | .qcom _ _ => some 0xa6 | .qtake _ _ => some 0xa7 | .spawn _ _ => some 0xa8 | .cpy _ _ => some 0xa9
  | .qfen _ _ => some 0xaa | .tcfg _ _ => some 0xb0 | .bres _ _ => some 0xb1 | .brel _ _ => some 0xb2
  | .tload _ _ => some 0xb3 | .mma _ _ => some 0xb4 | .tdrain _ _ => some 0xb5 | .tzero _ _ => some 0xb6
  | .tquant _ _ => some 0xb7 | .mstat _ _ => some 0xb8 | .sopen _ _ => some 0xc0 | .senter _ _ => some 0xc1
  | .sleave _ _ => some 0xc2 | .sskip _ _ => some 0xc3 | .stake _ _ => some 0xc4 | .rast _ _ => some 0xc5
  | .fdone _ _ => some 0xc8 | .fpois _ _ => some 0xc9
  | .b32Nop _ | .b32Mov _ | .b32AddS32 _ | .b32SubS32 _ | .b32MulS32 _ | .b32And _ | .b32Or _ | .b32Xor _
  | .b32Shl _ | .b32Shr _ | .b32Sar _ | .b32MinS32 _ | .b32MaxS32 _ | .b32MinN32 _ | .b32MaxN32 _ | .b32FaddF32 _
  | .b32FsubF32 _ | .b32FmulF32 _ | .b32FminF32 _ | .b32FmaxF32 _ | .b32FaddF16x2 _ | .b32FmulF16x2 _
  | .b32FaddBf16x2 _ | .b32FmulBf16x2 _ | .b32AddS16x2 _ | .b32SubS16x2 _ | .b32MaxS16x2 _ | .b32MinS16x2 _
  | .b32XlaneFrom _ | .b32XlaneSwap _ | .b32Bcast _ | .issueArbitration _ _ | .maskPredictionRepair _ _ _
  | .resultReturn _ _ _ _ _ _ | .lineRequest _ _ _ _ | .fillRecordWaitServed _ _ | .fillTaskPlace _
  | .fillRelease _ _ _ | .copyExecute _ _ | .copyComplete _ _ | .continuationCommit _ | .hodTloadExecute _
  | .tcfgBarrier _ | .mmaExecute _ _ | .mmaComplete _ | .tdrainExecute _ | .tquantExecute _ | .tzeroExecute _
  | .mstatReport _ _ _ | .stallBudgetExpiry _ _ | .stallCount _ | .rasterBatch _ | .tileKeyOpen _
  | .rasterBatchComplete _ | .crewDispatch _ | .parkedEviction _ | .crewSave _ _ | .saveDeferLimit _ _
  | .crewRetire _ _ | .jobEnd _ _ | .completionRecordWrite _ | .doorbell _ _ | .launch _ | .jobBind _ | .config _
  | .coreMove _ | .tlbinv _ | .pageres _ | .genwr _ | .geninv _ | .bias _ | .counters _ | .rackrd _ | .retired _
  | .scrub _ | .settime _ | .layertest _ | .power _ | .attest _ | .q0hdr _ | .reset _ | .registerWriteIgnored _ _
  | .helper _ _ | .hwselHelperPart _ | .hwselRepairEntry _ | .hwselHelperComplete _ | .hwselEnrol _
  | .i3cDynamicAddress _ | .railsStable | .train _ | .march _ | .hostMemRead _ _ | .hostMemWrite _ _
  | .hbmCorrected _ | .hbmUncorrectable _ | .llcCorrected _ _ _ | .llcUeClean _ _ _ | .llcUeDirty _ _ _
  | .sramUncorrectable _ _ | .powerLoopEval _ _ _ | .thermalThrottle _ | .thermalTrip | .dieFallsBelow100c
  | .channelRefresh _ => none

/-- How a B32 base code reads imm6 (07 R77). -/
inductive Imm6 where
  /-- The form takes no immediate. -/
  | none
  /-- Sign-extended. -/
  | sign
  /-- Zero-extended. -/
  | zero
deriving DecidableEq, Repr

/-- The base code, the word and the imm6 reading of a B32 instruction (07 R77). -/
def b32Row : Instr → Option (Nat × B32 × Imm6)
  | .b32Nop w => some (0x00, w, .none)
  | .b32Mov w => some (0x01, w, .sign)
  | .b32AddS32 w => some (0x02, w, .sign)
  | .b32SubS32 w => some (0x03, w, .sign)
  | .b32MulS32 w => some (0x04, w, .sign)
  | .b32And w => some (0x05, w, .sign)
  | .b32Or w => some (0x06, w, .sign)
  | .b32Xor w => some (0x07, w, .sign)
  | .b32Shl w => some (0x08, w, .zero)
  | .b32Shr w => some (0x09, w, .zero)
  | .b32Sar w => some (0x0a, w, .zero)
  | .b32MinS32 w => some (0x0b, w, .sign)
  | .b32MaxS32 w => some (0x0c, w, .sign)
  | .b32MinN32 w => some (0x0d, w, .sign)
  | .b32MaxN32 w => some (0x0e, w, .sign)
  | .b32FaddF32 w => some (0x0f, w, .none)
  | .b32FsubF32 w => some (0x10, w, .none)
  | .b32FmulF32 w => some (0x11, w, .none)
  | .b32FminF32 w => some (0x12, w, .none)
  | .b32FmaxF32 w => some (0x13, w, .none)
  | .b32FaddF16x2 w => some (0x14, w, .none)
  | .b32FmulF16x2 w => some (0x15, w, .none)
  | .b32FaddBf16x2 w => some (0x16, w, .none)
  | .b32FmulBf16x2 w => some (0x17, w, .none)
  | .b32AddS16x2 w => some (0x18, w, .sign)
  | .b32SubS16x2 w => some (0x19, w, .sign)
  | .b32MaxS16x2 w => some (0x1a, w, .sign)
  | .b32MinS16x2 w => some (0x1b, w, .sign)
  | .b32XlaneFrom w => some (0x1c, w, .zero)
  | .b32XlaneSwap w => some (0x1d, w, .zero)
  | .b32Bcast w => some (0x1e, w, .zero)
  | .nop _ _ | .mov _ _ | .add _ _ | .sub _ _ | .mul _ _ | .mulhi _ _ | .mad _ _ | .madw _ _ | .lea _ _ | .add3 _ _
  | .min _ _ | .max _ _ | .abs _ _ | .neg _ _ | .and _ _ | .or _ _ | .xor _ _ | .not _ _ | .bitf _ _ | .shl _ _
  | .shr _ _ | .sar _ _ | .dsh _ _ | .fext _ _ | .fins _ _ | .clz _ _ | .popc _ _ | .brev _ _ | .cmp _ _ | .sel _ _
  | .acs _ _ | .sad _ _ | .bsel _ _ | .pset _ _ | .vote _ _ | .ballot _ _ | .mcnt _ _ | .xlane _ _ | .bcast _ _
  | .wred _ _ | .wscan _ _ | .vget _ _ | .vput _ _ | .xset _ _ | .bmov _ _ | .bpass _ _ | .smov _ _ | .fadd _ _
  | .fsub _ _ | .fmul _ _ | .ffma _ _ | .fmin _ _ | .fmax _ _ | .fcmp _ _ | .frnd _ _ | .rcp _ _ | .rsqrt _ _
  | .sqrt _ _ | .exp2 _ _ | .log2 _ _ | .sinpi _ _ | .cospi _ _ | .fdot2 _ _ | .cvt _ _ | .cvtq _ _ | .cvtd _ _
  | .pack _ _ | .unpack _ _ | .fclass _ _ | .fscale _ _ | .bra _ _ | .brx _ _ | .call _ _ | .callR _ _ | .ret _ _
  | .exit _ _ | .meet _ _ | .trap _ _ | .tret _ _ | .yield _ _ | .brk _ _ | .mfsr _ _ | .mtsr _ _ | .ld _ _
  | .st _ _ | .ldg4 _ _ | .atom _ _ | .red _ _ | .prefetch _ _ | .fence _ _ | .waita _ _ | .smap _ _ | .swb _ _
  | .cflush _ _ | .bellInit _ _ | .bellArr _ _ | .bellWait _ _ | .fset _ _ | .fon _ _ | .qres _ _ | .qcom _ _
  | .qtake _ _ | .spawn _ _ | .cpy _ _ | .qfen _ _ | .tcfg _ _ | .bres _ _ | .brel _ _ | .tload _ _ | .mma _ _
  | .tdrain _ _ | .tzero _ _ | .tquant _ _ | .mstat _ _ | .sopen _ _ | .senter _ _ | .sleave _ _ | .sskip _ _
  | .stake _ _ | .rast _ _ | .fdone _ _ | .fpois _ _ | .issueArbitration _ _ | .maskPredictionRepair _ _ _
  | .resultReturn _ _ _ _ _ _ | .lineRequest _ _ _ _ | .fillRecordWaitServed _ _ | .fillTaskPlace _
  | .fillRelease _ _ _ | .copyExecute _ _ | .copyComplete _ _ | .continuationCommit _ | .hodTloadExecute _
  | .tcfgBarrier _ | .mmaExecute _ _ | .mmaComplete _ | .tdrainExecute _ | .tquantExecute _ | .tzeroExecute _
  | .mstatReport _ _ _ | .stallBudgetExpiry _ _ | .stallCount _ | .rasterBatch _ | .tileKeyOpen _
  | .rasterBatchComplete _ | .crewDispatch _ | .parkedEviction _ | .crewSave _ _ | .saveDeferLimit _ _
  | .crewRetire _ _ | .jobEnd _ _ | .completionRecordWrite _ | .doorbell _ _ | .launch _ | .jobBind _ | .config _
  | .coreMove _ | .tlbinv _ | .pageres _ | .genwr _ | .geninv _ | .bias _ | .counters _ | .rackrd _ | .retired _
  | .scrub _ | .settime _ | .layertest _ | .power _ | .attest _ | .q0hdr _ | .reset _ | .registerWriteIgnored _ _
  | .helper _ _ | .hwselHelperPart _ | .hwselRepairEntry _ | .hwselHelperComplete _ | .hwselEnrol _
  | .i3cDynamicAddress _ | .railsStable | .train _ | .march _ | .hostMemRead _ _ | .hostMemWrite _ _
  | .hbmCorrected _ | .hbmUncorrectable _ | .llcCorrected _ _ _ | .llcUeClean _ _ _ | .llcUeDirty _ _ _
  | .sramUncorrectable _ _ | .powerLoopEval _ _ _ | .thermalThrottle _ | .thermalTrip | .dieFallsBelow100c
  | .channelRefresh _ => none

/-- The `IMM12` that reads as imm6 does (07 R77). -/
def imm6To12 (k : Imm6) (b : BitVec 6) : BitVec 12 :=
  match k with
  | .sign => BitVec.signExtend 12 b
  | _ => BitVec.zeroExtend 12 b

/-- The head of the X96 twin of a B32 word (07 R77). -/
def b32Head (w : B32) (sub : BitVec 7) : Head :=
  { stop := w.stop, hold := if w.hold then 1 else 0, g := w.g, gn := false, d := .v (BitVec.zeroExtend 8 w.d), sub,
    a := .v (BitVec.zeroExtend 8 w.a),
    b := if w.imm || w.lit.isSome then .imm else .v (BitVec.zeroExtend 8 w.b),
    c := .v 0, lit := w.lit.map fun l => BitVec.zeroExtend 64 l }

/-- Word 2 of the X96 twin of a B32 word (07 R77). -/
def b32WC (w : B32) (t : Ty) (k : Imm6) : WC :=
  { type := t, rnd := .ne, sat := false, ftz := false, neg := 0, abs := 0, cond := 0, pd := 7,
    imm := if w.imm then imm6To12 k w.b else 0 }

/-- The X96 instruction whose effect a B32 instruction has (07 R77); any other instruction itself. -/
def expand : Instr → Instr
  | .b32Nop w => .nop { b32Head w 0 with a := .v 0, b := .v 0, d := .v 0 } ⟨.b32, .ne, false, false, 0, 0, 0, 0, 0⟩
  | .b32Mov w => .mov (b32Head w 0) (b32WC w .b32 .sign)
  | .b32AddS32 w => .add (b32Head w 0) (b32WC w .s32 .sign)
  | .b32SubS32 w => .sub (b32Head w 0) (b32WC w .s32 .sign)
  | .b32MulS32 w => .mul (b32Head w 0) (b32WC w .s32 .sign)
  | .b32And w => .and (b32Head w 0) (b32WC w .b32 .sign)
  | .b32Or w => .or (b32Head w 0) (b32WC w .b32 .sign)
  | .b32Xor w => .xor (b32Head w 0) (b32WC w .b32 .sign)
  | .b32Shl w => .shl (b32Head w 0) (b32WC w .b32 .zero)
  | .b32Shr w => .shr (b32Head w 0) (b32WC w .b32 .zero)
  | .b32Sar w => .sar (b32Head w 0) (b32WC w .s32 .zero)
  | .b32MinS32 w => .min (b32Head w 0) (b32WC w .s32 .sign)
  | .b32MaxS32 w => .max (b32Head w 0) (b32WC w .s32 .sign)
  | .b32MinN32 w => .min (b32Head w 0) (b32WC w .n32 .sign)
  | .b32MaxN32 w => .max (b32Head w 0) (b32WC w .n32 .sign)
  | .b32FaddF32 w => .fadd (b32Head w 0) (b32WC w .f32 .none)
  | .b32FsubF32 w => .fsub (b32Head w 0) (b32WC w .f32 .none)
  | .b32FmulF32 w => .fmul (b32Head w 0) (b32WC w .f32 .none)
  | .b32FminF32 w => .fmin (b32Head w 0) (b32WC w .f32 .none)
  | .b32FmaxF32 w => .fmax (b32Head w 0) (b32WC w .f32 .none)
  | .b32FaddF16x2 w => .fadd (b32Head w 0) (b32WC w .f16x2 .none)
  | .b32FmulF16x2 w => .fmul (b32Head w 0) (b32WC w .f16x2 .none)
  | .b32FaddBf16x2 w => .fadd (b32Head w 0) (b32WC w .bf16x2 .none)
  | .b32FmulBf16x2 w => .fmul (b32Head w 0) (b32WC w .bf16x2 .none)
  | .b32AddS16x2 w => .add (b32Head w 0) (b32WC w .s16x2 .sign)
  | .b32SubS16x2 w => .sub (b32Head w 0) (b32WC w .s16x2 .sign)
  | .b32MaxS16x2 w => .max (b32Head w 0) (b32WC w .s16x2 .sign)
  | .b32MinS16x2 w => .min (b32Head w 0) (b32WC w .s16x2 .sign)
  | .b32XlaneFrom w => .xlane (b32Head w 0) (b32WC w .b32 .zero)
  | .b32XlaneSwap w => .xlane (b32Head w 1) (b32WC w .b32 .zero)
  | .b32Bcast w => .bcast (b32Head w 0) (b32WC w .b32 .zero)
  | .nop x w => .nop x w | .mov x w => .mov x w | .add x w => .add x w | .sub x w => .sub x w
  | .mul x w => .mul x w | .mulhi x w => .mulhi x w | .mad x w => .mad x w | .madw x w => .madw x w
  | .lea x w => .lea x w | .add3 x w => .add3 x w | .min x w => .min x w | .max x w => .max x w
  | .abs x w => .abs x w | .neg x w => .neg x w | .and x w => .and x w | .or x w => .or x w
  | .xor x w => .xor x w | .not x w => .not x w | .bitf x w => .bitf x w | .shl x w => .shl x w
  | .shr x w => .shr x w | .sar x w => .sar x w | .dsh x w => .dsh x w | .fext x w => .fext x w
  | .fins x w => .fins x w | .clz x w => .clz x w | .popc x w => .popc x w | .brev x w => .brev x w
  | .cmp x w => .cmp x w | .sel x w => .sel x w | .acs x w => .acs x w | .sad x w => .sad x w
  | .bsel x w => .bsel x w | .pset x w => .pset x w | .vote x w => .vote x w | .ballot x w => .ballot x w
  | .mcnt x w => .mcnt x w | .xlane x w => .xlane x w | .bcast x w => .bcast x w | .wred x w => .wred x w
  | .wscan x w => .wscan x w | .vget x w => .vget x w | .vput x w => .vput x w | .xset x w => .xset x w
  | .bmov x w => .bmov x w | .bpass x w => .bpass x w | .smov x w => .smov x w | .fadd x w => .fadd x w
  | .fsub x w => .fsub x w | .fmul x w => .fmul x w | .ffma x w => .ffma x w | .fmin x w => .fmin x w
  | .fmax x w => .fmax x w | .fcmp x w => .fcmp x w | .frnd x w => .frnd x w | .rcp x w => .rcp x w
  | .rsqrt x w => .rsqrt x w | .sqrt x w => .sqrt x w | .exp2 x w => .exp2 x w | .log2 x w => .log2 x w
  | .sinpi x w => .sinpi x w | .cospi x w => .cospi x w | .fdot2 x w => .fdot2 x w | .cvt x w => .cvt x w
  | .cvtq x w => .cvtq x w | .cvtd x w => .cvtd x w | .pack x w => .pack x w | .unpack x w => .unpack x w
  | .fclass x w => .fclass x w | .fscale x w => .fscale x w | .bra x w => .bra x w | .brx x w => .brx x w
  | .call x w => .call x w | .callR x w => .callR x w | .ret x w => .ret x w | .exit x w => .exit x w
  | .meet x w => .meet x w | .trap x w => .trap x w | .tret x w => .tret x w | .yield x w => .yield x w
  | .brk x w => .brk x w | .mfsr x w => .mfsr x w | .mtsr x w => .mtsr x w | .ld x w => .ld x w
  | .st x w => .st x w | .ldg4 x w => .ldg4 x w | .atom x w => .atom x w | .red x w => .red x w
  | .prefetch x w => .prefetch x w | .fence x w => .fence x w | .waita x w => .waita x w | .smap x w => .smap x w
  | .swb x w => .swb x w | .cflush x w => .cflush x w | .bellInit x w => .bellInit x w | .bellArr x w => .bellArr x w
  | .bellWait x w => .bellWait x w | .fset x w => .fset x w | .fon x w => .fon x w | .qres x w => .qres x w
  | .qcom x w => .qcom x w | .qtake x w => .qtake x w | .spawn x w => .spawn x w | .cpy x w => .cpy x w
  | .qfen x w => .qfen x w | .tcfg x w => .tcfg x w | .bres x w => .bres x w | .brel x w => .brel x w
  | .tload x w => .tload x w | .mma x w => .mma x w | .tdrain x w => .tdrain x w | .tzero x w => .tzero x w
  | .tquant x w => .tquant x w | .mstat x w => .mstat x w | .sopen x w => .sopen x w | .senter x w => .senter x w
  | .sleave x w => .sleave x w | .sskip x w => .sskip x w | .stake x w => .stake x w | .rast x w => .rast x w
  | .fdone x w => .fdone x w | .fpois x w => .fpois x w
  | .issueArbitration a b => .issueArbitration a b
  | .maskPredictionRepair a b c => .maskPredictionRepair a b c
  | .resultReturn a b c d e f => .resultReturn a b c d e f
  | .lineRequest a b c d => .lineRequest a b c d
  | .fillRecordWaitServed a b => .fillRecordWaitServed a b
  | .fillTaskPlace a => .fillTaskPlace a
  | .fillRelease a b c => .fillRelease a b c
  | .copyExecute a b => .copyExecute a b
  | .copyComplete a b => .copyComplete a b
  | .continuationCommit a => .continuationCommit a
  | .hodTloadExecute a => .hodTloadExecute a
  | .tcfgBarrier a => .tcfgBarrier a
  | .mmaExecute a b => .mmaExecute a b
  | .mmaComplete a => .mmaComplete a
  | .tdrainExecute a => .tdrainExecute a
  | .tquantExecute a => .tquantExecute a
  | .tzeroExecute a => .tzeroExecute a
  | .mstatReport a b c => .mstatReport a b c
  | .stallBudgetExpiry a b => .stallBudgetExpiry a b
  | .stallCount a => .stallCount a
  | .rasterBatch a => .rasterBatch a
  | .tileKeyOpen a => .tileKeyOpen a
  | .rasterBatchComplete a => .rasterBatchComplete a
  | .crewDispatch a => .crewDispatch a
  | .parkedEviction a => .parkedEviction a
  | .crewSave a b => .crewSave a b
  | .saveDeferLimit a b => .saveDeferLimit a b
  | .crewRetire a b => .crewRetire a b
  | .jobEnd a b => .jobEnd a b
  | .completionRecordWrite a => .completionRecordWrite a
  | .doorbell a b => .doorbell a b
  | .launch a => .launch a
  | .jobBind a => .jobBind a
  | .config a => .config a
  | .coreMove a => .coreMove a
  | .tlbinv a => .tlbinv a
  | .pageres a => .pageres a
  | .genwr a => .genwr a
  | .geninv a => .geninv a
  | .bias a => .bias a
  | .counters a => .counters a
  | .rackrd a => .rackrd a
  | .retired a => .retired a
  | .scrub a => .scrub a
  | .settime a => .settime a
  | .layertest a => .layertest a
  | .power a => .power a
  | .attest a => .attest a
  | .q0hdr a => .q0hdr a
  | .reset a => .reset a
  | .registerWriteIgnored a b => .registerWriteIgnored a b
  | .helper a b => .helper a b
  | .hwselHelperPart a => .hwselHelperPart a
  | .hwselRepairEntry a => .hwselRepairEntry a
  | .hwselHelperComplete a => .hwselHelperComplete a
  | .hwselEnrol a => .hwselEnrol a
  | .i3cDynamicAddress a => .i3cDynamicAddress a
  | .railsStable => .railsStable
  | .train a => .train a
  | .march a => .march a
  | .hostMemRead a b => .hostMemRead a b
  | .hostMemWrite a b => .hostMemWrite a b
  | .hbmCorrected a => .hbmCorrected a
  | .hbmUncorrectable a => .hbmUncorrectable a
  | .llcCorrected a b c => .llcCorrected a b c
  | .llcUeClean a b c => .llcUeClean a b c
  | .llcUeDirty a b c => .llcUeDirty a b c
  | .sramUncorrectable a b => .sramUncorrectable a b
  | .powerLoopEval a b c => .powerLoopEval a b c
  | .thermalThrottle a => .thermalThrottle a
  | .thermalTrip => .thermalTrip
  | .dieFallsBelow100c => .dieFallsBelow100c
  | .channelRefresh a => .channelRefresh a

/-- The length of a warp instruction in bytes (07 R74); an event has none. -/
def lenBytes (i : Instr) : Nat :=
  match b32Row i with
  | some (_, w, _) => if w.lit.isSome then 12 else 4
  | none =>
    match x96Head i with
    | some x => if x.lit.isSome then 20 else 12
    | none => 0

/-- The B32 rules of R76 about `IMM`, the literal and unread fields. -/
def b32Ok (base : Nat) (w : B32) (k : Imm6) : Bool :=
  (!w.imm || (decide (k ≠ .none) && w.lit.isNone)) && (w.lit.isNone || (decide (w.b = 0) && decide (base ≠ 0))) &&
  (decide (base ≠ 1) || decide (w.a = 0)) &&
  (decide (base ≠ 0) || (!w.hold && !w.imm && decide (w.d = 0) && decide (w.a = 0) && decide (w.b = 0)))

/-- The encoding faults of R82 that an instruction's own words decide. -/
def encOk (i : Instr) : Bool :=
  (match b32Row i with
    | some (base, w, k) => b32Ok base w k
    | none => true) &&
  match form (expand i), x96Head (expand i) with
  | some f, some x => headOk f x (imm12Of (expand i))
  | _, _ => false

end Sys2Proof.Machine
end

