-- ==== Sys2Proof/Decode.lean ====
section
/-! DEFINITION. The decoder: bytes in memory order to an instruction, or a named rejection, which the device answers with fault
0x01 (07 R74-R91); and the encoder, written from the same field tables. -/

namespace Sys2Proof

open Sys2Proof.Machine

/-- Why bytes are no instruction. Each is fault 0x01 (07 R82). -/
inductive Reject where
  /-- Fewer bytes than the length that `LEN` gives (07 R74). -/
  | short
  /-- An extended or base opcode of R91. -/
  | opcode
  /-- A scalar or block field above 63, or a class-11 field that is not zero (07 R80, R81). -/
  | register
  /-- A destination field of class 11 above 7 (07 R79). -/
  | dest
  /-- `TYPE` 15 (05 R53). -/
  | type
  /-- A bit that the layout of word 2 leaves zero is set, or a literal's high half is not zero in a B32 word. -/
  | reserved
  /-- A field holds a value that the instruction's description does not assign, or breaks a class rule. -/
  | field
deriving DecidableEq, Repr

/-! ### Fields -/

/-- The fields of `x`, lowest first, of the widths given. -/
def unpack : List Nat → Nat → List Nat
  | [], _ => []
  | w :: ws, x => x % 2 ^ w :: unpack ws (x / 2 ^ w)

/-- The number whose fields, lowest first, are the pairs of width and value given. -/
def pack : List (Nat × Nat) → Nat
  | [] => 0
  | (w, v) :: r => v % 2 ^ w + 2 ^ w * pack r

/-- The 32-bit word at the front of some bytes, little-endian (00 R3). -/
def wordOf : List Byte → Option (Nat × List Byte)
  | a :: b :: c :: d :: r => some (pack [(8, a.toNat), (8, b.toNat), (8, c.toNat), (8, d.toNat)], r)
  | _ => none

/-- A word as four bytes, little-endian. -/
def bytesOf (x : Nat) : List Byte := (unpack [8, 8, 8, 8] x).map fun n => BitVec.ofNat 8 n

/-- Widths of X96 word 0 (07 R78): `LEN`, `STOP`, `HOLD`, `OP`, `G`, `GN`, `D`, `SUB`. -/
def word0Widths : List Nat := [2, 1, 2, 8, 3, 1, 8, 7]

/-- Widths of X96 word 1 (07 R79): A, B, C, their classes and `DC`. -/
def word1Widths : List Nat := [8, 8, 8, 2, 2, 2, 2]

/-- Widths of a B32 word (07 R75): `LEN`, `STOP`, `HOLD`, `OP`, `IMM`, `G`, `D`, `A`, `B`. -/
def b32Widths : List Nat := [2, 1, 1, 6, 1, 3, 6, 6, 6]

/-- Widths of W-C (07 R83): `TYPE`, `RND`, `SAT`, `FTZ`, `NEG`, `ABS`, `COND`, `PD`, `IMM12`. -/
def wcWidths : List Nat := [4, 2, 1, 1, 3, 3, 3, 3, 12]

/-- Widths of W-M (07 R85): `SPACE`, `SIZE`, `SIGN`, `SCOPE`, `ORDER`, `CPOL`, a zero bit, `OFF16`. -/
def wmWidths : List Nat := [3, 3, 1, 3, 2, 3, 1, 16]

/-- Widths of W-B (07 R87): zero, `HINT`, `OFF24`. -/
def wbWidths : List Nat := [4, 4, 24]

/-- A source of class `c` and field `n` (07 R79-R81). -/
def decodeSrc (n c : Nat) : Option Src :=
  match c with
  | 0 => some (.v (BitVec.ofNat 8 n))
  | 1 => if n < 64 then some (.s (BitVec.ofNat 6 n)) else none
  | 2 => if n < 64 then some (.b (BitVec.ofNat 6 n)) else none
  | _ => if n = 0 then some .imm else none

/-- Field and class of a source. -/
def encodeSrc : Src → Nat × Nat
  | .v n => (n.toNat, 0)
  | .s n => (n.toNat, 1)
  | .b n => (n.toNat, 2)
  | .imm => (0, 3)

/-- A destination of class `c` and field `n` (07 R79). -/
def decodeDst (n c : Nat) : Option Dst :=
  match c with
  | 0 => some (.v (BitVec.ofNat 8 n))
  | 1 => if n < 64 then some (.s (BitVec.ofNat 6 n)) else none
  | 2 => if n < 64 then some (.b (BitVec.ofNat 6 n)) else none
  | _ => some (.none (BitVec.ofNat 8 n))

/-- Field and class of a destination. -/
def encodeDst : Dst → Nat × Nat
  | .v n => (n.toNat, 0)
  | .s n => (n.toNat, 1)
  | .b n => (n.toNat, 2)
  | .none n => (n.toNat, 3)

/-- The rounding mode of an `RND` field (05 R62). -/
def decodeRnd (n : Nat) : Rnd :=
  match n with
  | 0 => .ne
  | 1 => .tz
  | 2 => .dn
  | _ => .up

/-- The `RND` field of a rounding mode. -/
def encodeRnd : Rnd → Nat
  | .ne => 0
  | .tz => 1
  | .dn => 2
  | .up => 3

/-- One bit of a field. -/
def ofBool (b : Bool) : Nat := if b then 1 else 0

/-- The W-C word 2 (07 R83). -/
def decodeWC (x : Nat) : Except Reject WC :=
  match unpack wcWidths x with
  | [t, r, sat, ftz, neg, abs, cond, pd, imm] =>
    match tyOf t with
    | some type => .ok ⟨type, decodeRnd r, decide (sat = 1), decide (ftz = 1), BitVec.ofNat 3 neg, BitVec.ofNat 3 abs,
        BitVec.ofNat 3 cond, BitVec.ofNat 3 pd, BitVec.ofNat 12 imm⟩
    | none => .error .type
  | _ => .error .field

/-- The W-C word 2 of its fields. -/
def encodeWC (w : WC) : Nat :=
  pack [(4, tyCode w.type), (2, encodeRnd w.rnd), (1, ofBool w.sat), (1, ofBool w.ftz), (3, w.neg.toNat),
    (3, w.abs.toNat), (3, w.cond.toNat), (3, w.pd.toNat), (12, w.imm.toNat)]

/-- The W-M word 2 (07 R85). -/
def decodeWM (x : Nat) : Except Reject WM :=
  match unpack wmWidths x with
  | [sp, sz, sg, sc, ord, cp, z, off] =>
    if z = 0 then .ok ⟨BitVec.ofNat 3 sp, BitVec.ofNat 3 sz, decide (sg = 1), BitVec.ofNat 3 sc, BitVec.ofNat 2 ord,
      BitVec.ofNat 3 cp, BitVec.ofNat 16 off⟩
    else .error .reserved
  | _ => .error .field

/-- The W-M word 2 of its fields. -/
def encodeWM (w : WM) : Nat :=
  pack [(3, w.space.toNat), (3, w.size.toNat), (1, ofBool w.sign), (3, w.scope.toNat), (2, w.order.toNat),
    (3, w.cpol.toNat), (1, 0), (16, w.off.toNat)]

/-- The W-B word 2 (07 R87). -/
def decodeWB (x : Nat) : Except Reject WB :=
  match unpack wbWidths x with
  | [z, h, off] => if z = 0 then .ok ⟨BitVec.ofNat 4 h, BitVec.ofNat 24 off⟩ else .error .reserved
  | _ => .error .field

/-- The W-B word 2 of its fields. -/
def encodeWB (w : WB) : Nat := pack [(4, 0), (4, w.hint.toNat), (24, w.off.toNat)]

/-! ### Opcode maps -/

/-- The instruction of an extended opcode with a head and a word 2 (07 R90, R91). `call` and `call.r` share 0x62 and differ in
`SUB` (09 R137). -/
def mkX96 (op : Nat) (x : Head) (w2 : Nat) : Except Reject Instr :=
  match op with
  | 0x00 => (decodeWC w2).map (.nop x)
  | 0x01 => (decodeWC w2).map (.mov x)
  | 0x02 => (decodeWC w2).map (.add x)
  | 0x03 => (decodeWC w2).map (.sub x)
  | 0x04 => (decodeWC w2).map (.mul x)
  | 0x05 => (decodeWC w2).map (.mulhi x)
  | 0x06 => (decodeWC w2).map (.mad x)
  | 0x07 => (decodeWC w2).map (.madw x)
  | 0x08 => (decodeWC w2).map (.lea x)
  | 0x09 => (decodeWC w2).map (.add3 x)
  | 0x0a => (decodeWC w2).map (.min x)
  | 0x0b => (decodeWC w2).map (.max x)
  | 0x0c => (decodeWC w2).map (.abs x)
  | 0x0d => (decodeWC w2).map (.neg x)
  | 0x0e => (decodeWC w2).map (.and x)
  | 0x0f => (decodeWC w2).map (.or x)
  | 0x10 => (decodeWC w2).map (.xor x)
  | 0x11 => (decodeWC w2).map (.not x)
  | 0x12 => (decodeWC w2).map (.bitf x)
  | 0x13 => (decodeWC w2).map (.shl x)
  | 0x14 => (decodeWC w2).map (.shr x)
  | 0x15 => (decodeWC w2).map (.sar x)
  | 0x16 => (decodeWC w2).map (.dsh x)
  | 0x17 => (decodeWC w2).map (.fext x)
  | 0x18 => (decodeWC w2).map (.fins x)
  | 0x19 => (decodeWC w2).map (.clz x)
  | 0x1a => (decodeWC w2).map (.popc x)
  | 0x1b => (decodeWC w2).map (.brev x)
  | 0x1c => (decodeWC w2).map (.cmp x)
  | 0x1d => (decodeWC w2).map (.sel x)
  | 0x1e => (decodeWC w2).map (.acs x)
  | 0x1f => (decodeWC w2).map (.sad x)
  | 0x20 => (decodeWC w2).map (.bsel x)
  | 0x30 => (decodeWC w2).map (.pset x)
  | 0x31 => (decodeWC w2).map (.vote x)
  | 0x32 => (decodeWC w2).map (.ballot x)
  | 0x33 => (decodeWC w2).map (.mcnt x)
  | 0x34 => (decodeWC w2).map (.xlane x)
  | 0x35 => (decodeWC w2).map (.bcast x)
  | 0x36 => (decodeWC w2).map (.wred x)
  | 0x37 => (decodeWC w2).map (.wscan x)
  | 0x38 => (decodeWC w2).map (.vget x)
  | 0x39 => (decodeWC w2).map (.vput x)
  | 0x3a => (decodeWC w2).map (.xset x)
  | 0x3b => (decodeWC w2).map (.bmov x)
  | 0x3c => (decodeWC w2).map (.bpass x)
  | 0x3d => (decodeWC w2).map (.smov x)
  | 0x40 => (decodeWC w2).map (.fadd x)
  | 0x41 => (decodeWC w2).map (.fsub x)
  | 0x42 => (decodeWC w2).map (.fmul x)
  | 0x43 => (decodeWC w2).map (.ffma x)
  | 0x44 => (decodeWC w2).map (.fmin x)
  | 0x45 => (decodeWC w2).map (.fmax x)
  | 0x46 => (decodeWC w2).map (.fcmp x)
  | 0x47 => (decodeWC w2).map (.frnd x)
  | 0x48 => (decodeWC w2).map (.rcp x)
  | 0x49 => (decodeWC w2).map (.rsqrt x)
  | 0x4a => (decodeWC w2).map (.sqrt x)
  | 0x4b => (decodeWC w2).map (.exp2 x)
  | 0x4c => (decodeWC w2).map (.log2 x)
  | 0x4d => (decodeWC w2).map (.sinpi x)
  | 0x4e => (decodeWC w2).map (.cospi x)
  | 0x4f => (decodeWC w2).map (.fdot2 x)
  | 0x50 => (decodeWC w2).map (.cvt x)
  | 0x51 => (decodeWC w2).map (.cvtq x)
  | 0x52 => (decodeWC w2).map (.cvtd x)
  | 0x53 => (decodeWC w2).map (.pack x)
  | 0x54 => (decodeWC w2).map (.unpack x)
  | 0x55 => (decodeWC w2).map (.fclass x)
  | 0x56 => (decodeWC w2).map (.fscale x)
  | 0x60 => (decodeWB w2).map (.bra x)
  | 0x61 => (decodeWB w2).map (.brx x)
  | 0x62 => (decodeWB w2).map fun w => if x.sub = 1 then .callR x w else .call x w
  | 0x63 => .ok (.ret x (BitVec.ofNat 32 w2))
  | 0x64 => .ok (.exit x (BitVec.ofNat 32 w2))
  | 0x65 => (decodeWB w2).map (.meet x)
  | 0x66 => .ok (.trap x (BitVec.ofNat 32 w2))
  | 0x67 => .ok (.tret x (BitVec.ofNat 32 w2))
  | 0x68 => .ok (.yield x (BitVec.ofNat 32 w2))
  | 0x69 => .ok (.brk x (BitVec.ofNat 32 w2))
  | 0x6a => .ok (.mfsr x (BitVec.ofNat 32 w2))
  | 0x6b => .ok (.mtsr x (BitVec.ofNat 32 w2))
  | 0x80 => (decodeWM w2).map (.ld x)
  | 0x81 => (decodeWM w2).map (.st x)
  | 0x82 => (decodeWM w2).map (.ldg4 x)
  | 0x83 => (decodeWM w2).map (.atom x)
  | 0x84 => (decodeWM w2).map (.red x)
  | 0x85 => (decodeWM w2).map (.prefetch x)
  | 0x86 => (decodeWM w2).map (.fence x)
  | 0x87 => (decodeWM w2).map (.waita x)
  | 0x88 => (decodeWM w2).map (.smap x)
  | 0x89 => (decodeWM w2).map (.swb x)
  | 0x8a => (decodeWM w2).map (.cflush x)
  | 0xa0 => .ok (.bellInit x (BitVec.ofNat 32 w2))
  | 0xa1 => .ok (.bellArr x (BitVec.ofNat 32 w2))
  | 0xa2 => .ok (.bellWait x (BitVec.ofNat 32 w2))
  | 0xa3 => .ok (.fset x (BitVec.ofNat 32 w2))
  | 0xa4 => .ok (.fon x (BitVec.ofNat 32 w2))
  | 0xa5 => .ok (.qres x (BitVec.ofNat 32 w2))
  | 0xa6 => .ok (.qcom x (BitVec.ofNat 32 w2))
  | 0xa7 => .ok (.qtake x (BitVec.ofNat 32 w2))
  | 0xa8 => .ok (.spawn x (BitVec.ofNat 32 w2))
  | 0xa9 => .ok (.cpy x (BitVec.ofNat 32 w2))
  | 0xaa => .ok (.qfen x (BitVec.ofNat 32 w2))
  | 0xb0 => .ok (.tcfg x (BitVec.ofNat 32 w2))
  | 0xb1 => .ok (.bres x (BitVec.ofNat 32 w2))
  | 0xb2 => .ok (.brel x (BitVec.ofNat 32 w2))
  | 0xb3 => .ok (.tload x (BitVec.ofNat 32 w2))
  | 0xb4 => .ok (.mma x (BitVec.ofNat 32 w2))
  | 0xb5 => .ok (.tdrain x (BitVec.ofNat 32 w2))
  | 0xb6 => .ok (.tzero x (BitVec.ofNat 32 w2))
  | 0xb7 => .ok (.tquant x (BitVec.ofNat 32 w2))
  | 0xb8 => .ok (.mstat x (BitVec.ofNat 32 w2))
  | 0xc0 => .ok (.sopen x (BitVec.ofNat 32 w2))
  | 0xc1 => .ok (.senter x (BitVec.ofNat 32 w2))
  | 0xc2 => .ok (.sleave x (BitVec.ofNat 32 w2))
  | 0xc3 => .ok (.sskip x (BitVec.ofNat 32 w2))
  | 0xc4 => .ok (.stake x (BitVec.ofNat 32 w2))
  | 0xc5 => .ok (.rast x (BitVec.ofNat 32 w2))
  | 0xc8 => .ok (.fdone x (BitVec.ofNat 32 w2))
  | 0xc9 => .ok (.fpois x (BitVec.ofNat 32 w2))
  | _ => .error .opcode

/-- The instruction of a B32 base code (07 R77, R91). -/
def mkB32 (base : Nat) (w : B32) : Except Reject Instr :=
  match base with
  | 0x00 => .ok (.b32Nop w)
  | 0x01 => .ok (.b32Mov w)
  | 0x02 => .ok (.b32AddS32 w)
  | 0x03 => .ok (.b32SubS32 w)
  | 0x04 => .ok (.b32MulS32 w)
  | 0x05 => .ok (.b32And w)
  | 0x06 => .ok (.b32Or w)
  | 0x07 => .ok (.b32Xor w)
  | 0x08 => .ok (.b32Shl w)
  | 0x09 => .ok (.b32Shr w)
  | 0x0a => .ok (.b32Sar w)
  | 0x0b => .ok (.b32MinS32 w)
  | 0x0c => .ok (.b32MaxS32 w)
  | 0x0d => .ok (.b32MinN32 w)
  | 0x0e => .ok (.b32MaxN32 w)
  | 0x0f => .ok (.b32FaddF32 w)
  | 0x10 => .ok (.b32FsubF32 w)
  | 0x11 => .ok (.b32FmulF32 w)
  | 0x12 => .ok (.b32FminF32 w)
  | 0x13 => .ok (.b32FmaxF32 w)
  | 0x14 => .ok (.b32FaddF16x2 w)
  | 0x15 => .ok (.b32FmulF16x2 w)
  | 0x16 => .ok (.b32FaddBf16x2 w)
  | 0x17 => .ok (.b32FmulBf16x2 w)
  | 0x18 => .ok (.b32AddS16x2 w)
  | 0x19 => .ok (.b32SubS16x2 w)
  | 0x1a => .ok (.b32MaxS16x2 w)
  | 0x1b => .ok (.b32MinS16x2 w)
  | 0x1c => .ok (.b32XlaneFrom w)
  | 0x1d => .ok (.b32XlaneSwap w)
  | 0x1e => .ok (.b32Bcast w)
  | _ => .error .opcode

/-! ### The decoder -/

/-- The fields of an X96 instruction's words 0 and 1, with its literal. -/
def decodeHead (w0 w1 : Nat) (lit : Option (BitVec 64)) : Except Reject (Nat × Head) :=
  match unpack word0Widths w0, unpack word1Widths w1 with
  | [_, stop, hold, op, g, gn, d, sub], [a, b, c, ac, bc, cc, dc] =>
    match decodeSrc a ac, decodeSrc b bc, decodeSrc c cc, decodeDst d dc with
    | some a, some b, some c, some d =>
      .ok (op, ⟨decide (stop = 1), BitVec.ofNat 2 hold, BitVec.ofNat 3 g, decide (gn = 1), d, BitVec.ofNat 7 sub, a, b, c, lit⟩)
    | _, _, _, _ => .error .register
  | _, _ => .error .field

/-- The instruction if its fields are legal (07 R82). -/
def checked (r : Except Reject Instr) : Except Reject Instr :=
  match r with
  | .ok i => if encOk i then .ok i else .error .field
  | .error e => .error e

/-- An X96 instruction from its words. -/
def decodeX96 (w0 w1 w2 : Nat) (lit : Option (BitVec 64)) : Except Reject Instr :=
  match decodeHead w0 w1 lit with
  | .ok (op, x) => checked (mkX96 op x w2)
  | .error e => .error e

/-- A B32 instruction from its word and the literal, if `LEN` is 01 (07 R76). -/
def decodeB32 (w0 : Nat) (lit : Option Nat) : Except Reject Instr :=
  match unpack b32Widths w0 with
  | [_, stop, hold, op, imm, g, d, a, b] =>
    if (lit.getD 0) < 2 ^ 32 then
      checked (mkB32 op ⟨decide (stop = 1), decide (hold = 1), decide (imm = 1), BitVec.ofNat 3 g, BitVec.ofNat 6 d,
        BitVec.ofNat 6 a, BitVec.ofNat 6 b, lit.map fun l => BitVec.ofNat 32 l⟩)
    else .error .reserved
  | _ => .error .field

/-- The 64-bit literal at the front of some bytes, low word first (07 R74). -/
def litOf (bs : List Byte) : Option (Nat × List Byte) :=
  match wordOf bs with
  | some (lo, r) =>
    match wordOf r with
    | some (hi, r) => some (lo + 2 ^ 32 * hi, r)
    | none => none
  | none => none

/-- How many words an instruction has whose first word is `w0` (07 R74). -/
def wordCount (w0 : Nat) : Nat :=
  match w0 % 4 with
  | 0 => 1
  | 3 => 5
  | _ => 3

/-- The instruction at the front of some bytes, and the bytes after it (07 R74). -/
def decode (bs : List Byte) : Except Reject (Instr × List Byte) :=
  match wordOf bs with
  | none => .error .short
  | some (w0, r) =>
    match w0 % 4 with
    | 0 => (decodeB32 w0 none).map fun i => (i, r)
    | 1 =>
      match litOf r with
      | some (l, r) => (decodeB32 w0 (some l)).map fun i => (i, r)
      | none => .error .short
    | n =>
      match wordOf r with
      | none => .error .short
      | some (w1, r) =>
        match wordOf r with
        | none => .error .short
        | some (w2, r) =>
          if n = 2 then (decodeX96 w0 w1 w2 none).map fun i => (i, r)
          else
            match litOf r with
            | some (l, r) => (decodeX96 w0 w1 w2 (some (BitVec.ofNat 64 l))).map fun i => (i, r)
            | none => .error .short

/-! ### The encoder -/

/-- A literal's two words. -/
def encodeLit (l : Nat) : List Byte := bytesOf (l % 2 ^ 32) ++ bytesOf (l / 2 ^ 32)

/-- Word 0 of an X96 instruction (07 R78). -/
def encodeWord0 (op : Nat) (x : Head) : Nat :=
  pack [(2, if x.lit.isSome then 3 else 2), (1, ofBool x.stop), (2, x.hold.toNat), (8, op), (3, x.g.toNat),
    (1, ofBool x.gn), (8, (encodeDst x.d).1), (7, x.sub.toNat)]

/-- Word 1 of an X96 instruction (07 R79). -/
def encodeWord1 (x : Head) : Nat :=
  pack [(8, (encodeSrc x.a).1), (8, (encodeSrc x.b).1), (8, (encodeSrc x.c).1), (2, (encodeSrc x.a).2),
    (2, (encodeSrc x.b).2), (2, (encodeSrc x.c).2), (2, (encodeDst x.d).2)]

/-- Word 2 of an X96 instruction. -/
def encodeWord2 : Word2 → Nat
  | .c w => encodeWC w
  | .m w => encodeWM w
  | .b w => encodeWB w
  | .s w => w.toNat

/-- The word of a B32 instruction (07 R75). -/
def encodeB32 (base : Nat) (w : B32) : Nat :=
  pack [(2, if w.lit.isSome then 1 else 0), (1, ofBool w.stop), (1, ofBool w.hold), (6, base), (1, ofBool w.imm),
    (3, w.g.toNat), (6, w.d.toNat), (6, w.a.toNat), (6, w.b.toNat)]

/-- The bytes of an instruction in memory order; an event has none. -/
def encode (i : Instr) : List Byte :=
  match b32Row i with
  | some (base, w, _) =>
    bytesOf (encodeB32 base w) ++
      (match w.lit with
        | some l => encodeLit l.toNat
        | none => [])
  | none =>
    match opcode i, x96Head i, word2 i with
    | some op, some x, some w2 =>
      bytesOf (encodeWord0 op x) ++ (bytesOf (encodeWord1 x) ++ (bytesOf (encodeWord2 w2) ++
        (match x.lit with
          | some l => encodeLit l.toNat
          | none => [])))
    | _, _, _ => []

/-! ### Words as the opcode table numbers them -/

/-- The bytes of `w`, lowest first, at least `n` of them. -/
def bytesOfNat : Nat → Nat → List Byte
  | 0, _ => []
  | n + 1, w => BitVec.ofNat 8 (w % 256) :: bytesOfNat n (w / 256)

/-- The instruction the decoder reads from an instruction whose bits are `w`, bit 0 the least significant bit of its first word;
bits above `nbits` are zero. -/
def decodeTableWord (nbits w : Nat) : Option Instr :=
  match decode (bytesOfNat 20 (w % 2 ^ nbits)) with
  | .ok (i, _) => some i
  | .error _ => none

end Sys2Proof
end

