-- ==== Sys2Proof/Config.lean ====
section
/-! DEFINITION. The values the specification leaves open: constants without a body, so that no proof can see what they are.
Each is applied to a number that identifies the draw (State.freeCtr, or the epoch of a store), never to anything a program chooses. -/

namespace Sys2Proof.Config

/-- Byte `off` of unspecified bytes drawn as number `n` (00 R7 undefined bytes; 03 R34 stash at crew start; 17 R235 bin bytes).
Free value: notes/assumptions/4.md. -/
opaque freeByte : Nat → Nat → Byte

/-- Word `i` of the undefined values drawn as number `n` (09 R107: destinations of an instruction whose fault is found late).
Free value: notes/assumptions/4.md. -/
opaque freeWord : Nat → Nat → Word

/-- Whether the front end issues past divergent branch number `n` under a prediction (03 R43). Free value:
notes/assumptions/5.md. -/
opaque predicted : Nat → Bool

/-- Whether the prediction resolved as number `n` had a wrong mask and is repaired (03 R43). Free value: notes/assumptions/5.md. -/
opaque mispredicted : Nat → Bool

/-- Whether the host keeps in its caches the lines that its read number `n` receives, as its software allows or not (23 R318). Free value:
notes/assumptions/43.md. -/
opaque hostKeeps : Nat → Bool

/-- The seed that Zhevvo's fuzzy extractor gives for helper data less their stored hash (23 R326). Free value:
notes/assumptions/11.md. -/
opaque extract : List Byte → List Byte

/-- The fresh helper data, less their stored hash, of enrolment number `n` (23 R326). Free value: notes/assumptions/11.md. -/
opaque enrolHelper : Nat → List Byte

/-- The Falcon-1024 public key, 1,793 bytes, of a seed (23 R326). Free value: notes/assumptions/11.md. -/
opaque publicKey : List Byte → List Byte

/-- The padded Falcon-1024 signature, 1,280 bytes, under the key of a seed, over a hash; its random part is draw `n`
(23 R327). Free value: notes/assumptions/11.md. -/
opaque signature : List Byte → List Byte → Nat → List Byte

/-- SHAKE256 of some bytes, with an output length in bytes (23 R326, R327). Free value: notes/assumptions/11.md. -/
opaque shake256 : List Byte → Nat → List Byte

/-- The 64-byte SHAKE256 hash of the ROM image (23 R327). Free value: notes/assumptions/11.md. -/
opaque romHash : List Byte

/-- Which of a core's layers pass Zhevvo's own self-test number `n` (23 R321 LAYERTEST): bit ℓ for layer ℓ. Free value:
notes/assumptions/10.md. -/
opaque layerTest : Nat → Nat → BitVec 4

/-- The physical address of Zhevvo's copy of a job descriptor, which no rule gives (19 R262). Free value: notes/assumptions/4.md. -/
opaque descCopy : Nat → BitVec 48

end Sys2Proof.Config
end

