-- ==== Sys2Proof/Machine/Store.lean ====
section
/-! DEFINITION. Sparse data by number: a list of keys and values sorted by key. Register files, memory and the tables of the
device are all kept so. -/

namespace Sys2Proof.Machine

/-- Numbered entries, sorted by number. -/
abbrev Store (α : Type) := List (Nat × α)

/-- The entry numbered `n`, if one is listed. -/
def Store.look {α : Type} : Store α → Nat → Option α
  | [], _ => none
  | (k, v) :: r, n => if k = n then some v else Store.look r n

/-- The entry numbered `n`, or `d` where none is listed. -/
def Store.get {α : Type} (m : Store α) (d : α) (n : Nat) : α := (Store.look m n).getD d

/-- `m` with `v` at number `n`. -/
def Store.put {α : Type} : Store α → Nat → α → Store α
  | [], n, v => [(n, v)]
  | (k, x) :: r, n, v =>
    if k = n then (n, v) :: r
    else if n < k then (n, v) :: (k, x) :: r
    else (k, x) :: Store.put r n v

/-- `m` with nothing at number `n`. -/
def Store.del {α : Type} : Store α → Nat → Store α
  | [], _ => []
  | (k, x) :: r, n => if k = n then Store.del r n else (k, x) :: Store.del r n

/-- `m` with `v` at `n`, in the form that lists no value equal to `d`, the value of an unlisted entry. -/
def Store.set {α : Type} [DecidableEq α] (m : Store α) (d : α) (n : Nat) (v : α) : Store α :=
  if v = d then Store.del m n else Store.put m n v

/-- The numbers rise strictly. -/
def Store.sorted {α : Type} : Store α → Bool
  | [] => true
  | [_] => true
  | (k, _) :: (l, y) :: r => decide (k < l) && Store.sorted ((l, y) :: r)

/-- The canonical form of data whose unlisted entries hold `d`: numbers rise strictly and no entry holds `d`. -/
def Store.wf {α : Type} [DecidableEq α] (m : Store α) (d : α) : Bool :=
  Store.sorted m && m.all fun e => decide (e.2 ≠ d)

/-- Every entry of `m` replaced by `f` of its number and value. -/
def Store.mapV {α : Type} (m : Store α) (f : Nat → α → α) : Store α := List.map (fun e => (e.1, f e.1 e.2)) m

/-- The lowest number in `lo .. lo + n - 1` that `m` does not list. -/
def Store.free {α : Type} (m : Store α) : Nat → Nat → Option Nat
  | _, 0 => none
  | lo, n + 1 => match Store.look m lo with
    | none => some lo
    | some _ => Store.free m (lo + 1) n

end Sys2Proof.Machine
end

