-- ==== Sys2Proof/Machine/State.lean ====
section
/-! DEFINITION. The state of the P96: every register, queue, table and mode the specification names, as plain data, and the
state after reset. Each field cites the rule that names it. -/

namespace Sys2Proof.Machine

/-! ### Stops of the machine -/

/-- Why the machine stops. -/
inductive Fault where
  /-- A warp instruction was executed with no warp picked to issue it (19 R274). `step` never does this; raised by
  `issue` alone. Safe. -/
  | noIssuer
deriving DecidableEq, Repr

/-- What the model refuses. -/
inductive Refusal where
  /-- An instruction without a meaning yet, by its mnemonic. Safe. -/
  | notModelled (mnemonic : String)
deriving DecidableEq, Repr

/-! ### Warps -/

/-- A lane's fault: its code, the `DETAIL` of `%fault`, and the faulting virtual address, zero for none (07 R103, 09 R106). -/
structure LaneFault where
  lane   : Nat
  code   : Nat
  detail : Nat := 0
  va     : Nat := 0
deriving DecidableEq, Repr

/-- The register kinds that can be sealed (07 R92). -/
inductive RegKind where
  | v | s | m
deriving DecidableEq, Repr

/-- A sealed register of one lane (of the warp for a scalar: lane 0) and the operation that sealed it (07 R92). -/
structure Seal where
  kind : RegKind
  num  : Nat
  lane : Nat
  op   : Nat
deriving DecidableEq, Repr

/-- A long operation whose result has not returned in `lanes`; `mask` is its `Mask()`, `late` the faults found when its
answers came, `load` that it is a load, `parked` that its split is parked on it (07 R93, 09 R107, 03 R44). -/
structure Pend where
  id    : Nat
  load  : Bool
  parked : Bool := false
  pc    : Addr
  lanes : List Nat
  mask  : List Nat
  late  : List LaneFault
  regs  : List (RegKind × Nat)
deriving DecidableEq, Repr

/-- One lane of a `waita`: the address of its access, zero outside global memory, where it watches, and the condition it waits for (13
R195). -/
structure Watch where
  lane   : Nat
  va     : Nat
  stash  : Bool
  addr   : Nat
  size   : Nat
  cond   : Nat
  signed : Bool
  value  : Nat
deriving DecidableEq, Repr

/-- The kind of access of a page fault (19 R259). -/
inductive Access where
  | read | write | fetch
deriving DecidableEq, Repr

/-- A virtual page of an address space, as a page fault names it (19 R280). -/
structure PageRef where
  part  : Nat
  asn   : Nat
  page  : Nat
  large : Bool
  acc   : Access
deriving DecidableEq, Repr

/-- What a parked or held split waits for. -/
inductive Wait where
  /-- Zhevvo's answer about pages, each with the lane that found it and its virtual address, 0 for a fetch (11 R153). -/
  | page (ps : List (Nat × Nat × PageRef))
  /-- Fill records: block home, level and block of each (15 R219). -/
  | fill (recs : List (Nat × Nat × Nat))
  /-- The end of a bell's phase: a crew bell at a stash offset, or a job-scope bell at a physical address (13 R199). -/
  | bell (job : Bool) (addr : Nat)
  /-- The watched locations of the lanes that have not met their condition (13 R195). -/
  | watch (ws : List Watch)
  /-- A place in the arrival order of the queue whose header lies at this physical address (13 R204). -/
  | queue (hdr : Nat)
  /-- The grant of a sequence: slice, rack entry, sequence, the lane that a fault of the wait names, and whether the crew held the
  sequence's ticket, which it holds again where the wait ends with no grant (21 R295, R299). -/
  | grant (slice entry seq lane : Nat) (own : Bool)
  /-- A free entry of an engine queue: 0 to 3 copy, 4 matrix, 5 hod, 6 the raster unit (13 R207, 17 R246, 21 R307). -/
  | engine (queue : Nat)
  /-- A register of a lane outside `Mask()` to be unsealed (09 R118). -/
  | seal
  /-- Results of long operations of the split's lanes that have not returned (13 R194, 15 R223). -/
  | results
  /-- The warp's `mma` operations (17 R253). -/
  | mma
  /-- A page of HBM whose bias is flipping, and the wait's place in the order of arrival (23 R319). -/
  | flip (page order : Nat)
deriving DecidableEq, Repr

/-- What a split is doing (03 R37, R41; 07 R93; 09 R105). -/
inductive SplitSt where
  | run
  /-- Held at its meeting address. -/
  | held
  /-- Waiting at a stop for the results of these operations. -/
  | stopWait (ops : List Nat)
  /-- Waiting to deliver a fault found at issue. -/
  | entryWait (fs : List LaneFault)
  /-- Parked, or held at an instruction that it will perform again. -/
  | parked (w : Wait)
deriving DecidableEq, Repr

/-- A generated block as the waiters of its record were served it: its address and size, and each of its lines as it stood when they
were released, or as the record placed it where it was not retained; none for a poisoned line (15 R219). -/
structure Served where
  block : Nat
  size  : Nat
  lines : List (Option (List Byte))
deriving DecidableEq, Repr

/-- A line that a pass of a parked instruction has been given, none for a poisoned one: it asks for it no more (11 R157). -/
structure Got where
  pass : Nat
  line : Nat
  data : Option (List Byte)
deriving DecidableEq, Repr

/-- A block register: its value, its owner warp, and the last write's earlier value, clock and quarter (09 R123). -/
structure BReg where
  val   : Word := 0
  owner : Nat := 0
  old   : Word := 0
  clk   : Nat := 0
  q     : Nat := 4
deriving DecidableEq, Repr

/-- An instruction that has issued and parked its split: the scalar and block registers as it read them, the operation that seals its
destinations meanwhile, and the operations that had sealed a register for its lanes when it issued, which a stop marks (07 R92, R93, 11 R153,
R181). -/
structure Again where
  instr : Instr
  s     : Store Word
  b     : Store BReg
  op    : Nat
  marks : List Nat := []
deriving DecidableEq, Repr

/-- A split: its lanes in increasing order, their program counter, what it does, the answers its parked instruction has
received (by lane), the generated blocks it was served on release (03 R37, 15 R219), the instruction it performs again, the lines
that instruction has been given (11 R157), and the registers of other lanes that were returned while it waited for one of them, by register
and lane (09 R118). -/
structure Split where
  lanes : List Nat
  pc    : Addr
  st    : SplitSt
  ans   : Store Nat := []
  served : List Served := []
  again : Option Again := none
  got   : List Got := []
  crossed : Store Word := []
deriving DecidableEq, Repr

/-- The handler save area of a warp, its handler lanes, the splits suspended, the program's meeting stacks, and how many
handler instructions issued since a save was decided (09 R105, R106, 19 R270). -/
structure Save where
  v      : Store Word
  m      : Store Bool
  x      : Store (BitVec 16)
  fpf    : Word
  lanes  : List Nat
  splits : List Split
  meets  : Store (List Addr)
  issued : Nat
deriving DecidableEq, Repr

/-- A section held by a warp: key, sequence, home slice and rack entry (21 R299). -/
structure Section where
  key   : Nat
  seq   : Nat
  slice : Nat
  entry : Nat
deriving DecidableEq, Repr

/-- A warp: its registers by number and lane (`lane * 512 + n`), its splits and everything 03, 07 and 09 keep per warp. -/
structure Warp where
  /-- v0 to v255 in every lane (03 R32, R34). -/
  v      : Store Word := []
  /-- s0 to s63 (03 R34). -/
  s      : Store Word := []
  /-- m0 to m6 in every lane (03 R34). -/
  m      : Store Bool := []
  /-- x0 to x3 in every lane: index [7:0], limit [15:8] (09 R121). -/
  x      : Store (BitVec 16) := []
  /-- Splits of the non-exited lanes (03 R37). -/
  splits : List Split := []
  /-- First lane of the current split and the instructions it has issued in a row (03 R41). -/
  cur    : Option Nat := none
  run    : Nat := 0
  /-- Meeting stacks by lane, top first; the handler's own while a handler runs (03 R38, 09 R106). -/
  meets  : Store (List Addr) := []
  /-- `%fpf` (05 R66), `%conv` (03 R42), `%mpred` (03 R43), `%mmrep` (17 R253), `%fault` (07 R103). -/
  fpf    : Word := 0
  conv   : Word := 0
  mpred  : BitVec 64 := 0
  mmrep  : Word := 0
  fault  : Word := 0
  seals  : List Seal := []
  pends  : List Pend := []
  /-- The hold, oldest entry first: first register, number of registers, and how many more instructions it serves (07 R96;
  notes/assumptions/16.md). -/
  hold   : List (Nat × Nat × Nat) := []
  /-- The handler save area while the warp is in its handler (09 R105). -/
  save   : Option Save := none
  /-- Lanes whose poison mark is set (15 R227). -/
  pmark  : List Nat := []
  /-- Sections held (21 R299). -/
  secs   : List Section := []
  /-- Report of the last-issued `mma`, and how many are outstanding (17 R253). -/
  report : Word := 0
  mmas   : Nat := 0
  /-- The last-issued `mma`, by operation number (17 R253). -/
  lastMma : Option Nat := none
  /-- Predicted branches not yet resolved (03 R43). -/
  unres  : Nat := 0
  /-- Its quarter, the clock at which it was bound to it, losses in a row, and whether it is starved (19 R273, R274). -/
  quarter : Nat := 0
  age    : Nat := 0
  losses : Nat := 0
  starved : Bool := false
  retired : Bool := false
deriving DecidableEq, Repr

/-! ### Crews -/

/-- The kind of a crew (03 R35). -/
inductive CrewKind where
  | ordinary | spawned | consumer | pixel | fill
deriving DecidableEq, Repr

/-- One line of a stash window: its bytes are valid, and which of them are dirty (11 R165). -/
structure WLine where
  valid : Bool
  dirty : List Nat
deriving DecidableEq, Repr

/-- A stash window: global address, stash offset, length, and its lines by number (11 R165, 13 R196). -/
structure Window where
  va    : Nat
  off   : Nat
  len   : Nat
  lines : Store WLine
deriving DecidableEq, Repr

/-- A reservation (`take` false) or a take of a queue: header, physical and virtual, first index, count (13 R204). -/
structure QRes where
  hdr   : Nat
  hva   : Nat
  first : Nat
  count : Nat
  take  : Bool
deriving DecidableEq, Repr

/-- A ticket: key, sequence, home slice (21 R295). -/
structure Ticket where
  key   : Nat
  seq   : Nat
  slice : Nat
deriving DecidableEq, Repr

/-- A failure mark of a bin area: the code and the failing row (17 R239). -/
structure AreaFail where
  code : Nat
  row  : Nat
deriving DecidableEq, Repr

/-- A live bin record: format, element offset, rows, scale offset, K (17 R234, R235), and a number that tells one life of the
record from another. -/
structure BinRec where
  fmt  : Nat
  eoff : Nat
  rows : Nat
  soff : Nat
  k    : Nat
  life : Nat
deriving DecidableEq, Repr

/-- The configuration of a crew's matrix state (17 R232). -/
structure MatCfg where
  m    : Nat
  n    : Nat
  k    : Nat
  int  : Bool
  sati : Bool
deriving DecidableEq, Repr

/-- The matrix state of a crew (17 R232): configuration, bin claim in bytes, records, bin bytes (unlisted bytes are the
unspecified bytes of draw `epoch`), tiles (`tile * 4096 + i * N + j`, unlisted 0), and failure marks (`record * 2 + scales`). -/
structure MatState where
  cfg   : Option MatCfg := none
  bin   : Nat := 0
  recs  : Store BinRec := []
  bytes : Store Byte := []
  epoch : Nat := 0
  tiles : Store Word := []
  fails : Store AreaFail := []
deriving DecidableEq, Repr

/-- The shape of a crew, from its job descriptor, raster descriptor or generator descriptor (03 R25, 15 R213, 21 R312). -/
structure Shape where
  width   : Nat
  warps   : Nat
  vregs   : Nat
  sregs   : Nat
  stash   : Nat
  entry   : Addr
  handler : Addr
  param   : Addr
  cor     : Bool
  strict  : Bool
deriving DecidableEq, Repr

/-- A fill task's own data: level, chain of blocks, record's home slice, descriptor index, block address and size, and whether
`fdone` or `fpois` has issued, and whether its window is poisoned (15 R220-R227). -/
structure FillInfo where
  level : Nat
  chain : List Nat
  home  : Nat
  gen   : Nat
  block : Nat
  size  : Nat
  done  : Bool
  dirty : Bool
deriving DecidableEq, Repr

/-- The first crew status (19 R281): warp index and `%fault`. -/
structure CrewStatus where
  warp  : Nat
  fault : Word
deriving DecidableEq, Repr

/-- A crew: resident, saved, or created by the device and not yet dispatched. -/
structure Crew where
  /-- A number that names the crew for its whole life (the model's own). -/
  uid    : Nat
  kind   : CrewKind
  shape  : Shape
  part   : Nat
  /-- Job handle; meaningless for a fill task (19 R261). -/
  job    : Nat
  asn    : Nat
  root   : Nat
  /-- `%crewx`, `%crewy`, `%crewz` and the report index (03 R35). -/
  cx     : Word
  cy     : Word
  cz     : Word
  report : BitVec 64
  /-- The class of its job or record, and its class with inheritance (19 R266, 21 R303). -/
  prio   : Nat
  cls    : Nat
  warps  : Store Warp
  /-- Initial scalars and lane registers of a device-created crew (13 R205, 21 R312). -/
  s0     : Store Word := []
  v0     : Store Word := []
  lanes0 : Option (List Nat) := none
  /-- b0 to b63 (03 R34). -/
  b      : Store BReg := []
  /-- Stash bytes; an unlisted byte is an unspecified byte of draw `epoch` (03 R34). -/
  stash  : Store Byte := []
  /-- Private frames: `(warp * 128 + lane) * 4096 + offset`; an unlisted byte is an unspecified byte of draw `epoch` (11 R144). -/
  frames : Store Byte := []
  epoch  : Nat := 0
  windows : List Window := []
  qres   : List QRes := []
  tickets : List Ticket := []
  mat    : MatState := {}
  /-- Engine and raster operations issued and not completed (03 R45). -/
  engines : Nat := 0
  status : Option CrewStatus := none
  fill   : Option FillInfo := none
  /-- Core clocks of dispatch or restore, of parking, of the save (19 R264, R267, 03 R50). -/
  since  : Nat := 0
  parked : Option Nat := none
  savedAt : Nat := 0
  /-- A save has been decided (19 R269, R270), and its deferral by a handler has been counted (R270). -/
  saving : Bool := false
  deferred : Bool := false
  /-- The core and the slot that the crew was saved from: a rack entry that it owns goes on naming them (21 R291, R303). -/
  seat : Option (Nat × Nat) := none
  /-- The header, first index and count of a consumer crew's batch (13 R205). -/
  batch  : Option QRes := none
  /-- The raster unit and the primitive of a pixel crew (21 R312). -/
  raster : Option Nat := none
deriving DecidableEq, Repr

/-! ### Cores -/

/-- A bind record (19 R262). -/
structure Bind where
  cls    : Nat
  cor    : Bool
  job    : Nat
  stride : Nat
  lseq   : Nat
  next   : Nat
  last   : Nat
  /-- The physical address of Zhevvo's copy of the descriptor. -/
  descpa : BitVec 48
deriving DecidableEq, Repr

/-- A TLB entry (11 R156) with the leaf it holds (R151). -/
structure TlbEnt where
  part  : Nat
  asn   : Nat
  root  : Nat
  vpage : Nat
  large : Bool
  leaf  : BitVec 64
  leafPa : Nat
deriving DecidableEq, Repr

/-- One line of the L1: set, way, line number, used bit (11 R162), and for a generated line its bytes, which have no other copy once the
line has left the LLC (R147); the bytes of any other line are those at its home (notes/assumptions/2.md). -/
structure L1Line where
  set  : Nat
  way  : Nat
  line : Nat
  used : Bool
  data : List Byte
deriving DecidableEq, Repr

/-- One line of the instruction cache, with the bytes of a generated one (07 R97, 01 R18). -/
structure ILine where
  line : Nat
  data : List Byte
deriving DecidableEq, Repr

/-- One line of the register cache: the register that it holds for the 32 lanes of a pass, and whether it has been written since it was
read from its frame (03 R32, 01 R18). -/
structure RLine where
  uid   : Nat
  warp  : Nat
  reg   : Nat
  pass  : Nat
  dirty : Bool
deriving DecidableEq, Repr

/-! ### The order of memory events (11 R166-R177; notes/assumptions/40.md) -/

/-- A thread whose accesses are memory events: a lane of a warp of a crew, an operation of a core's engines by its issue number, a raster
unit, the host, or Zhevvo (11 R166, R169). -/
inductive Thr where
  | lane (uid warp lane : Nat)
  | op (core seq : Nat)
  | unit (n : Nat)
  | host
  | zhevvo
deriving DecidableEq, Repr

/-- What happens before a point: every event up to the number `floor`, and of each thread listed its events up to a number (11 R171). -/
structure Clock where
  floor : Nat := 0
  marks : List (Thr × Nat) := []
deriving DecidableEq, Repr

/-- A release that a write carries: what happens before it, its scope, the crew and the warp that made it if one did, and whether every read of its value
acquires, as of a resolved future's (11 R170, R177). -/
structure Rel where
  clk   : Clock
  scope : Nat
  uid   : Option Nat
  warp  : Option Nat
  any   : Bool
deriving DecidableEq, Repr

/-- A write as one of its bytes keeps it: its thread and number, the address and size of its access, what happens before it, the releases that
it carries, and the byte that it replaced. -/
structure Ev where
  thr  : Thr
  num  : Nat
  addr : Nat
  size : Nat
  clk  : Clock
  rels : List Rel
  old  : Byte
deriving DecidableEq, Repr

/-- The writes of a byte: the number of the last, whether they leave the byte undefined, and those that no later one comes after, newest first
(11 R175, R176). -/
structure Hist where
  last : Nat
  race : Bool
  evs  : List Ev
deriving DecidableEq, Repr

/-- What a thread has come to: what happens before its next event, what it has read besides, which happens before its next release, the releases
that its reads have met, for a fence, and what its own release fences let its writes carry, by scope (11 R170, R171). -/
structure ThrSt where
  clk    : Clock
  obs    : Clock := {}
  seen   : List Rel := []
  fences : List (Nat × Clock) := []
deriving DecidableEq, Repr

/-- A point at which what happens before is handed on without a load or a store (11 R177): the start of a crew, the issue of an engine operation,
the end of those of a queue, a phase of a bell, a committed slot of a work queue by its state byte, a continuation, the sections of one opening of
a key and a sequence of it that is skipped, the `mma` operations of a warp, and a block of generated memory. -/
inductive Point where
  | start (uid : Nat)
  | op (core seq : Nat)
  | queue (core q : Nat)
  | bell (place phase : Nat)
  | slot (pa : Nat)
  | cont (id : Nat)
  | sect (slice life : Nat)
  | skip (slice life seq : Nat)
  | mma (uid warp : Nat)
  | block (addr : Nat)
deriving DecidableEq, Repr

/-- The memory events of the threads while some job runs: their count, the writes of each byte by its key, the threads that have synchronised,
and what is handed on at points. The model's own. -/
structure Ledger where
  count   : Nat := 0
  hist    : Store Hist := []
  threads : List (Thr × ThrSt) := []
  points  : List (Point × Clock) := []
deriving DecidableEq, Repr

/-- Where an engine operation stands (13 R209, R210). -/
inductive OpSt where
  /-- Not begun, or to go on. -/
  | queued
  | waiting (w : Wait)
  /-- Performed, with the value of its future, `bad` for an error; not yet completed. -/
  | performed (value : BitVec 64) (bad : Bool)
  /-- Performed, its completion waiting for its future's page. -/
  | closing (value : BitVec 64) (bad : Bool) (w : Wait)
  /-- Performed, its future's page unresolvable. -/
  | unresolved (value : BitVec 64) (bad : Bool)
  /-- Its descriptor could not be read, or its bell could not be reached. -/
  | lost
  /-- A copy whose future is resolved and whose bell's page is awaited; with no wait left the bell is to be rung (13 R210). -/
  | ring (err : Bool) (w : Option Wait)
deriving DecidableEq, Repr

/-- A copy in its queue (13 R207): who issued it, the descriptor's address, mode and `.bell`, its issue number, the
descriptor once read, the elements produced, and the block status of R210. -/
structure CopyOp where
  uid  : Nat
  seq  : Nat
  addr : Nat
  mode : Nat
  bell : Bool
  desc : Option (List Byte)
  done : Nat
  quant : Option Nat
  st   : OpSt
  served : List Served
deriving DecidableEq, Repr

/-- A `tload` in the hod queue, with the row it has reached and that row's bytes read so far, or the barrier of a `tcfg` (17 R237, R247). -/
structure HodOp where
  uid    : Nat
  seq    : Nat
  barrier : Bool
  num    : Nat
  area   : BinRec
  scales : Bool
  fromSrc : Nat
  base   : Nat
  stride : Nat
  row    : Nat
  got    : List Byte := []
  st     : OpSt
  served : List Served
deriving DecidableEq, Repr

/-- The kinds of operation of the matrix queue (17 R246). -/
inductive MatKind where
  | barrier
  | mma (ra rb : Nat) (a b : BinRec) (tile : Nat) (zeroc : Bool) (fut : Nat)
  | tdrain (tile fmt : Nat) (rnd : Rnd) (sat stash clr : Bool) (base stride fut : Nat)
  | tquant (tile fmt : Nat) (stash : Bool) (base stride fut : Nat)
  | tzero (tile : Nat)
deriving DecidableEq, Repr

/-- An operation of the matrix queue: issuer, the configuration it was issued under, elements written, status, and whether it has begun (17
R230). -/
structure MatOp where
  uid  : Nat
  warp : Nat
  seq  : Nat
  cfg  : MatCfg
  kind : MatKind
  done : Nat
  quant : Option Nat
  st   : OpSt
  begun : Bool := false
deriving DecidableEq, Repr

/-- A join of `qfen`: operations issued after number `seq` to the queues of `mask` wait for those issued before (11 R178). -/
structure Join where
  seq  : Nat
  mask : BitVec 6
deriving DecidableEq, Repr

/-- An issue quarter: the window, the queue behind it (both name a warp by slot and index), the clock at which the pipe is
free, the clock after its last turn, and clocks suspended by the core loop (19 R273, R274, 23 R330; notes/assumptions/9.md). -/
structure Quarter where
  window : List (Nat × Nat) := []
  queue  : List (Nat × Nat) := []
  free   : Nat := 0
  turn   : Nat := 0
  suspended : Nat := 0
deriving DecidableEq, Repr

/-- A core (01 R12). -/
structure Core where
  /-- The core-clock count (01 R17). -/
  clk    : Nat := 0
  part   : Option Nat := none
  /-- The partition it is to move to (01 R23); `some 8` stands for none. -/
  moving : Option Nat := none
  unusable : Bool := false
  /-- Resident crews by slot: general 0 to 27, fill 28 to 31 (03 R29). -/
  crews  : Store Crew := []
  binds  : List Bind := []
  /-- Device-created crews not yet dispatched, in order of creation (19 R264). -/
  created : List Crew := []
  saved  : List Crew := []
  quarters : Store Quarter := []
  tlb    : List TlbEnt := []
  l1     : List L1Line := []
  l1ptr  : Store Nat := []
  /-- The instruction cache and the register cache, the most recently used line first (01 R12, R18; notes/assumptions/16.md). -/
  icache : List ILine := []
  rcache : List RLine := []
  /-- Copy queues 0 to 3 (13 R207). -/
  copyQ  : Store (List CopyOp) := []
  hodQ   : List HodOp := []
  matQ   : List MatOp := []
  joins  : List Join := []
  /-- Number of the next engine operation issued. -/
  seq    : Nat := 0
  /-- Layers throttled, and out after a residue failure (17 R230). -/
  thr    : BitVec 4 := 0
  resOut : BitVec 4 := 0
  /-- The layers that the adaptive loops throttle, and whether heat throttles the attic layers: what `thr` becomes between operations of the
  matrix queue (17 R230, 23 R330). -/
  loop   : BitVec 4 := 0
  heat   : Bool := false
  /-- Counters 0x00 to 0x0F (19 R287). -/
  counters : Store Word := []
deriving DecidableEq, Repr

/-! ### Slices -/

/-- A resident line: number, dirty, keep mark, partition tag, last writer's `ASN`, victim policy of a generated line
(true: keep), and pins (crew, record, scales) (11 R160, 01 R24, 19 R283, 15 R214, 17 R238). -/
structure LLine where
  line   : Nat
  dirty  : Bool
  keep   : Bool
  tag    : Nat
  writer : Option Nat
  larder : Option Bool
  pins   : List (Nat × Nat × Bool)
  /-- To leave the cache when its last pin is released (13 R193, 23 R323). -/
  leave  : Bool
deriving DecidableEq, Repr

/-- A set: the tree bits and the ways (11 R160). -/
structure LSet where
  tree : BitVec 16 := 0
  ways : Store LLine := []
deriving DecidableEq, Repr

/-- The state of a fill record (15 R219); `placing` carries the block's bytes, none for a poisoned block. -/
inductive FillSt where
  | queued
  | running (uid : Nat)
  | placing (data : Option (List Byte))
deriving DecidableEq, Repr

/-- A generator descriptor (15 R213) with the root recorded beside it. -/
structure GenDesc where
  bytes : List Byte
  root  : Nat
deriving DecidableEq, Repr

/-- A fill record (15 R217-R222), with its descriptor as it stood when the record was created (15 R213). -/
structure FillRec where
  level : Nat
  block : Nat
  size  : Nat
  gen   : Nat
  desc  : GenDesc
  part  : Nat
  cls   : Nat
  chain : List Nat
  order : Nat
  st    : FillSt
deriving DecidableEq, Repr

/-- An access that waits at a block home for a record of its level (15 R217), its class, and the descriptor as it read it. -/
structure FillWait where
  level : Nat
  block : Nat
  size  : Nat
  gen   : Nat
  desc  : GenDesc
  part  : Nat
  cls   : Nat
  chain : List Nat
deriving DecidableEq, Repr

/-- The head owner of a rack entry (21 R291). -/
inductive Owner where
  | none
  | warp (core slot warp : Nat)
  | ticket (core slot : Nat)
deriving DecidableEq, Repr

/-- An entry of the key rack (21 R291). -/
structure RackEnt where
  key     : Nat
  next    : Nat
  stop    : Nat
  ticket  : Nat
  first   : Nat
  held    : Bool := false
  broken  : Bool := false
  askip   : Bool := false
  stalled : Bool := false
  raster  : Bool := false
  part    : Nat
  cls     : Nat := 0
  job     : Nat
  waiters : Nat := 0
  owner   : Owner := .none
  stallcnt : Nat := 0
  rlo     : Nat := 0
  rhi     : Nat := 0
  skip    : BitVec 64 := 0
  /-- The stall exponent in force when the entry was opened (21 R305, 23 R322). -/
  stallB  : Nat := 8
  /-- A number that tells one opening of a key from another (the model's own). -/
  life    : Nat := 0
deriving DecidableEq, Repr

/-- A cellar slice (01 R12). -/
structure Slice where
  /-- Its own core-clock count (01 R17). -/
  clk    : Nat := 0
  sets   : Store LSet := []
  /-- The last strong access of a line in mixed-size debug mode: address and size, by line number (11 R176). -/
  mixed  : Store (Nat × Nat) := []
  /-- Corrections in each way since reset, and the quarantined ways (19 R283, R286). -/
  corr   : Store Nat := []
  quarantine : BitVec 16 := 0
  rack   : Store RackEnt := []
  /-- How many keys have been opened here (the model's own: the number of the next opening). -/
  opened : Nat := 0
  fills  : List FillRec := []
  fwaits : List FillWait := []
  /-- Number of the next fill record. -/
  order  : Nat := 0
  /-- Counters 0x20 to 0x34 (19 R287, 21 R314). -/
  counters : Store Word := []
deriving DecidableEq, Repr

/-! ### Partitions and jobs -/

/-- A job descriptor's fields (03 R25). -/
structure JobDesc where
  shape : Shape
  dimx  : Nat
  dimy  : Nat
  dimz  : Nat
  prio  : Nat
  done  : Nat
  tag   : BitVec 64
deriving DecidableEq, Repr

/-- A job's first fault: code, report index, `%fault` word (19 R281, R331). -/
structure JobFault where
  code  : Nat
  info1 : BitVec 64
  info2 : Word
deriving DecidableEq, Repr

/-- An active job (19 R261). -/
structure Job where
  desc  : JobDesc
  cseq  : Word
  asn   : Nat
  root  : Nat
  lseq  : Nat
  /-- The number of the memory events before its launch (11 R175, R177). -/
  stamp : Nat := 0
  /-- Crews bound and not yet retired, device-created and spawned crews not yet retired. -/
  crews : Nat
  fault : Option JobFault
  /-- Crews ended by a fault (19 R259). -/
  bad   : Nat
  /-- The termination code (19 R282). -/
  term  : Option Nat
deriving DecidableEq, Repr

/-- A launch whose checks have passed, waiting for a handle and for bind records (19 R261, R263). -/
structure Launch where
  desc : JobDesc
  cseq : Word
  asn  : Nat
  root : Nat
deriving DecidableEq, Repr

/-- A completion record (19 R259) with the `DONE` future it must resolve afterwards: physical address and value (03 R46). -/
structure Record where
  cseq  : Word
  kind  : Nat
  code  : Nat
  flags : Nat
  tag   : BitVec 64
  info1 : BitVec 64
  info2 : Word
  info3 : Word
  done  : Option (Nat × Nat) := none
deriving DecidableEq, Repr

/-- A command queue as Zhevvo keeps it (19 R255). -/
structure CmdQueue where
  hdr    : Nat
  cqbase : Nat
  rqbase : Nat
  cqsize : Nat
  rqsize : Nat
deriving DecidableEq, Repr

/-- A command as it was read: its index, its 64 bytes, and whether it has begun to take effect (19 R257, R258). -/
structure Cmd where
  index : Nat
  bytes : List Byte
  begun : Bool := false
deriving DecidableEq, Repr

/-- An area of a save pool: the crew it belongs to, which of the crew's areas it is (a warp's register frame by the warp's index, 1000
for the frame memory and handler save areas, 1001 for the save area), and its pieces, each an address and a size (03 R32, 19 R271). -/
structure Area where
  uid    : Nat
  what   : Nat
  pieces : List (Nat × Nat)
deriving DecidableEq, Repr

/-- A partition (01 R21). -/
structure Part where
  configured : Bool := false
  weight : Nat := 0
  /-- The stall exponent b (21 R305). -/
  stallB : Nat := 8
  msdbg  : Bool := false
  /-- log2 of the larder's slots, 0 for none, and its base (15 R224). -/
  lnl    : Nat := 0
  lbase  : Nat := 0
  ways   : BitVec 16 := 0
  queue  : Option CmdQueue := none
  /-- The last accepted doorbell value (19 R256). -/
  dbell  : Word := 0
  pool   : Nat := 0
  poolsz : Nat := 0
  poolUsed : Nat := 0
  /-- Where the areas taken from the pool lie (03 R32, 19 R271). -/
  areas  : List Area := []
  /-- The `CONFIG` payload in force (23 R327). -/
  payload : List Byte := []
  gens   : Store GenDesc := []
  /-- A `GENINV` is in progress (23 R323). -/
  geninv : Bool := false
  jobs   : Store Job := []
  launches : Nat := 0
  pending : Option Launch := none
  /-- The command that has been read and neither refused nor completed (19 R258). -/
  cmd    : Option Cmd := none
  records : List Record := []
  reports : List PageRef := []
  retired : List Nat := []
  /-- Records and crews held while the partition has no core (19 R268). -/
  heldBinds : List Bind := []
  heldCrews : List Crew := []
  heldCreated : List Crew := []
deriving DecidableEq, Repr

/-! ### The rest of the device -/

/-- A tile of a pixel-ordered batch: its coordinates, key home, rack entry and the number of its opening, and the first sequence that is neither
launched nor skipped (21 R311). -/
structure Tile where
  tx    : Nat
  ty    : Nat
  slice : Nat
  entry : Nat
  life  : Nat
  next  : Nat
deriving DecidableEq, Repr

/-- A tile that the primitive in progress covers: the lanes of its drawn pixels with their depths (21 R312). -/
structure TileWork where
  tx    : Nat
  ty    : Nat
  px    : List (Nat × Word)
deriving DecidableEq, Repr

/-- A batch at a raster unit (21 R307-R313): issuer, address, mode, the descriptor once read, the primitive in progress, primitives
discarded, the tiles that it still covers, whether its crews are being launched, the tiles opened, pixel crews not retired, status, and the
error met in pixel-ordered mode. -/
structure Batch where
  uid   : Nat
  core  : Nat
  part  : Nat
  job   : Nat
  addr  : Nat
  ord   : Bool
  desc  : Option (List Byte)
  prim  : Nat
  drop  : Nat
  work  : Option (List TileWork)
  going : Bool := false
  tiles : List Tile
  live  : Nat
  st    : OpSt
  err   : Option (BitVec 64)
  served : List Served
  /-- What happens before the unit's read of the descriptor (21 R307). -/
  clk   : Clock := {}
deriving DecidableEq, Repr

/-- A raster unit: its batches in arrival order, and how many launches are not yet dispatched (21 R307, R312). -/
structure RasterUnit where
  batches : List Batch := []
  launches : Nat := 0
deriving DecidableEq, Repr

/-- A continuation of a job: its node (13 R202), the pending future it is linked to, or the queue header at which it waits, with
its place in the order of arrival; `page` while it waits for Zhevvo's answer about a page, or for a page whose bias is changing (13 R203,
23 R319). Addresses are physical; `id` tells one continuation from another. -/
structure Cont where
  id      : Nat
  part    : Nat
  job     : Nat
  asn     : Nat
  root    : Nat
  fut     : Option Nat
  node    : Nat
  hdr     : Option Nat
  order   : Nat
  page    : Option Wait
  /-- The number of the events before its `fon`: a write of the node after them leaves its record undefined (13 R202). -/
  since   : Nat := 0
deriving DecidableEq, Repr

/-- A `qres` request that waits at a queue (13 R204): header, crew, warp, first lane of the split, count, order of arrival. -/
structure QWait where
  hdr   : Nat
  uid   : Nat
  warp  : Nat
  lane  : Nat
  count : Nat
  order : Nat
deriving DecidableEq, Repr

/-- A commit to a bound queue, until its records are launched (13 R205): header (physical and virtual), first index, count, order of
arrival, and the job it belongs to with that job's launch number. -/
structure QCommit where
  hdr   : Nat
  hva   : Nat
  first : Nat
  count : Nat
  order : Nat
  part  : Nat
  job   : Nat
  lseq  : Nat
deriving DecidableEq, Repr

/-- What a device step on a queue does (13 R203, R205). -/
inductive QAct where
  /-- Deliver from `HEAD`. -/
  | deliver
  /-- Make a retired crew's reserved slots void. -/
  | void
  /-- Free the slots of a retired crew's take or batch. -/
  | free
deriving DecidableEq, Repr

/-- A device step on a queue that waits for Zhevvo's answer about a page, or for a page whose bias is changing (13 R203, 23 R319). -/
structure QStep where
  act   : QAct
  hva   : Nat
  hdr   : Nat
  first : Nat
  count : Nat
  part  : Nat
  job   : Nat
  asn   : Nat
  root  : Nat
  page  : Wait
deriving DecidableEq, Repr

/-- An HBM channel: the partition the round has reached, the grants it has used, a refresh due, the queue of requests of each partition, by
line, and the partition served last (19 R277, R278). -/
structure Channel where
  part    : Nat := 0
  used    : Nat := 0
  refresh : Bool := false
  queues  : Store (List Nat) := []
  served  : Nat := 0
deriving DecidableEq, Repr

/-- The management core, the board port and the host registers (23). -/
structure Mgmt where
  /-- `BOOTST` (R328). -/
  boot    : Nat := 0
  err     : Nat := 0
  q0hdr   : BitVec 64 := 0
  q0used  : Bool := false
  hwsel   : BitVec 64 := 0
  helper  : List Byte := List.replicate 4096 0
  repair  : List (BitVec 64) := []
  /-- The seed that the helper data extracted (R326). -/
  seed    : Option (List Byte) := none
  enrols  : Nat := 0
  i3c     : Option (BitVec 7) := none
  temp    : List (BitVec 16) := List.replicate 8 0
  rails   : List (BitVec 16) := List.replicate 8 0
  pwr     : BitVec 32 := 0
  limit   : Nat := 350
  /-- The partition that Zhevvo visits next (19 R258). -/
  visit   : Nat := 0
  /-- The base of the host's decoder window (R316; notes/assumptions/38.md). -/
  base    : Nat := 0
  /-- Columns whose attic layers are throttled for heat (R330). -/
  thermal : List Nat := []
deriving DecidableEq, Repr

/-- The warp, and the split of it, that a quarter has picked to issue: core, slot, warp index, first lane (19 R274). -/
structure Pick where
  core : Nat
  slot : Nat
  warp : Nat
  lane : Nat
deriving DecidableEq, Repr

/-- The state of the module. -/
structure State where
  cores   : Store Core := []
  slices  : Store Slice := []
  parts   : Store Part := []
  /-- Bytes of the 48-bit physical space (11 R147) in canonical form; an unlisted byte reads 0 (notes/assumptions/3.md). -/
  mem     : List Host.Cell := []
  /-- Poisoned 128-byte lines, by line number (19 R283). -/
  poison  : List Nat := []
  /-- 64 KiB pages of HBM in host bias (23 R318), and the page that is flipping (R319). -/
  bias    : List Nat := []
  /-- Lines of HBM that host caches hold, by line number (23 R318). -/
  hostLines : List Nat := []
  flipping : Option Nat := none
  raster  : Store RasterUnit := []
  conts   : List Cont := []
  qwaits  : List QWait := []
  /-- Commits not yet launched, waiting device steps, and the number of the next arrival at a queue (13 R202-R205). -/
  qcommits : List QCommit := []
  qsteps  : List QStep := []
  arrivals : Nat := 0
  /-- Queues whose delivery has stopped: header and index (13 R203). -/
  qstopped : List (Nat × Nat) := []
  channels : Store Channel := []
  mgmt    : Mgmt := {}
  /-- The memory events and what happens before what (11 R166-R177). -/
  ledger  : Ledger := {}
  /-- The futures resolved, by physical address, with whether an `fset` of device or system scope did it (11 R165, R177). -/
  resolved : Store Bool := []
  /-- The bytes the host's last CXL.mem read returned (23 R316). -/
  hostData : List Byte := []
  /-- Moves of the device's agents and of the outside world still to be made, next first: the model's own field
  (notes/assumptions/1.md). -/
  agenda  : List Instr := []
  /-- The number from which the device's agents take their next turn (the model's own field, notes/assumptions/1.md). -/
  turn    : Nat := 0
  /-- The split picked to issue (the model's own field, notes/assumptions/1.md). -/
  picked  : Option Pick := none
  /-- Free values drawn so far, and crews created so far (the model's own fields, notes/assumptions/4.md). -/
  freeCtr : Nat := 0
  crewCtr : Nat := 0
deriving DecidableEq, Repr

/-- The module right after reset: boot state `RESET`, cores 0, 24, 48 and 72 and ways 14 and 15 reserved to partition 0
(01 R22, 23 R328); nothing resident, every counter zero. -/
def State.reset : State :=
  { cores := [(0, { part := some 0 }), (24, { part := some 0 }), (48, { part := some 0 }), (72, { part := some 0 })]
    parts := [(0, { configured := true, weight := 1, ways := 0xC000 })] }

end Sys2Proof.Machine
end

