-- ==== Sys2Proof/Machine/Access.lean ====
section
/-! DEFINITION. The named reads and writes of the state's parts, counters, and free values. -/

namespace Sys2Proof.Machine

/-! ### Cores, crews, warps -/

/-- Core `n` (01 R12). -/
def State.core (s : State) (n : Nat) : Core := Store.get s.cores {} n

/-- `s` with core `n` replaced. -/
def State.setCore (s : State) (n : Nat) (c : Core) : State := { s with cores := Store.put s.cores n c }

/-- Slice `n` (01 R12). -/
def State.slice (s : State) (n : Nat) : Slice := Store.get s.slices {} n

/-- `s` with slice `n` replaced. -/
def State.setSlice (s : State) (n : Nat) (x : Slice) : State := { s with slices := Store.put s.slices n x }

/-- Partition `n` (01 R21). -/
def State.part (s : State) (n : Nat) : Part := Store.get s.parts {} n

/-- `s` with partition `n` replaced. -/
def State.setPart (s : State) (n : Nat) (x : Part) : State := { s with parts := Store.put s.parts n x }

/-- Raster unit `n` (01 R12). -/
def State.unit (s : State) (n : Nat) : RasterUnit := Store.get s.raster {} n

/-- `s` with raster unit `n` replaced. -/
def State.setUnit (s : State) (n : Nat) (x : RasterUnit) : State := { s with raster := Store.put s.raster n x }

/-- The crew resident in a slot (03 R29). -/
def State.crew (s : State) (c k : Nat) : Option Crew := Store.look (s.core c).crews k

/-- `s` with the crew of a slot replaced. -/
def State.setCrew (s : State) (c k : Nat) (cr : Crew) : State :=
  s.setCore c { s.core c with crews := Store.put (s.core c).crews k cr }

/-- Warp `w` of a crew. -/
def Crew.warp (cr : Crew) (w : Nat) : Warp := Store.get cr.warps {} w

/-- A crew with warp `w` replaced. -/
def Crew.setWarp (cr : Crew) (w : Nat) (x : Warp) : Crew := { cr with warps := Store.put cr.warps w x }

/-- `s` with warp `w` of the crew in a slot replaced; unchanged where the slot is empty. -/
def State.setWarp (s : State) (c k w : Nat) (x : Warp) : State :=
  match s.crew c k with
  | some cr => s.setCrew c k (cr.setWarp w x)
  | none => s

/-- Every crew of a core: resident, created and saved. -/
def Core.mapCrews (c : Core) (f : Crew → Crew) : Core :=
  { c with crews := Store.mapV c.crews fun _ cr => f cr, created := c.created.map f, saved := c.saved.map f }

/-- Every crew of the device, wherever it is held. -/
def State.mapCrews (s : State) (f : Crew → Crew) : State :=
  { s with
    cores := Store.mapV s.cores fun _ c => c.mapCrews f
    parts := Store.mapV s.parts fun _ p => { p with heldCrews := p.heldCrews.map f, heldCreated := p.heldCreated.map f } }

/-- Every warp of a crew. -/
def Crew.mapWarps (cr : Crew) (f : Warp → Warp) : Crew := { cr with warps := Store.mapV cr.warps fun _ w => f w }

/-- The crews of a core, wherever it holds them. -/
def Core.allCrews (c : Core) : List Crew := c.crews.map (fun e => e.2) ++ (c.created ++ c.saved)

/-- Every crew of the device. -/
def State.allCrews (s : State) : List Crew :=
  (s.cores.map fun e => e.2.allCrews).flatten ++ (s.parts.map fun e => e.2.heldCrews ++ e.2.heldCreated).flatten

/-- The crew named by a number. -/
def State.crewOf (s : State) (uid : Nat) : Option Crew := s.allCrews.find? fun cr => cr.uid = uid

/-- `f` applied to the crew named by a number. -/
def State.updCrew (s : State) (uid : Nat) (f : Crew → Crew) : State :=
  s.mapCrews fun cr => if cr.uid = uid then f cr else cr

/-- Core and slot of a resident crew. -/
def State.whereIs (s : State) (uid : Nat) : Option (Nat × Nat) :=
  (s.cores.map fun e => e.2.crews.filterMap fun k => if k.2.uid = uid then some (e.1, k.1) else none).flatten.head?

/-- The cores of a partition in increasing number (19 R262). -/
def State.coresOf (s : State) (p : Nat) : List Nat :=
  s.cores.filterMap fun e => if e.2.part = some p then some e.1 else none

/-- A record produced for a partition: it waits to enter the ring, or is dropped where the partition has no queue and it has no future to resolve
(19 R260). -/
def Part.addRecord (t : Part) (r : Record) : Part :=
  { t with records := if t.queue.isNone && r.done.isNone then t.records else t.records ++ [r] }

/-- Boot has ended and nothing has stopped the device (23 R328, R330). -/
def State.ready (s : State) : Bool := decide (s.mgmt.boot = 5)

/-- What the cores and Zhevvo do: `t`, while the device is in state `READY` (23 R328, R330). -/
def State.whenReady (s t : State) : State := if s.ready then t else s

/-! ### Counters and free values -/

/-- `k` added to counter `i` of core `c`, modulo 2^32 (19 R287). -/
def State.countCore (s : State) (c i k : Nat) : State :=
  let x := s.core c
  s.setCore c { x with counters := Store.set x.counters 0 i (Store.get x.counters 0 i + BitVec.ofNat 32 k) }

/-- `k` added to counter `i` of slice `n`, modulo 2^32 (19 R287, 21 R314). -/
def State.countSlice (s : State) (n i k : Nat) : State :=
  let x := s.slice n
  s.setSlice n { x with counters := Store.set x.counters 0 i (Store.get x.counters 0 i + BitVec.ofNat 32 k) }

/-- `n` free words, and the state that has drawn them (notes/assumptions/4.md). -/
def State.freeWords (s : State) (n : Nat) : List Word × State :=
  ((List.range n).map (Config.freeWord s.freeCtr), { s with freeCtr := s.freeCtr + 1 })

/-! ### Bytes and numbers -/

/-- A number of some bytes, little-endian (00 R3). -/
def natOf : List Byte → Nat
  | [] => 0
  | b :: r => b.toNat + 256 * natOf r

/-- `n` bytes of a number, little-endian (00 R3). -/
def bytesLE : Nat → Nat → List Byte
  | 0, _ => []
  | n + 1, x => BitVec.ofNat 8 x :: bytesLE n (x / 256)

/-- The field of `n` bytes at offset `o` of a descriptor, little-endian. -/
def fieldAt (l : List Byte) (o n : Nat) : Nat := natOf ((l.drop o).take n)

/-- Bytes cut or filled with zeros to a length. -/
def fit (n : Nat) (l : List Byte) : List Byte := (l ++ List.replicate n 0).take n

/-! ### Registers (05 R54, 03 R32, 09 R121) -/

/-- Key of register n of a lane in a register file by lane: apart for every two pairs of a lane and a number below 512. -/
def laneKey (n lane : Nat) : Nat := lane * 512 + n

/-- vn in a lane. -/
def Warp.vreg (w : Warp) (n lane : Nat) : Word := Store.get w.v 0 (laneKey n lane)

/-- `x` written to vn in a lane. -/
def Warp.setV (w : Warp) (n lane : Nat) (x : Word) : Warp := { w with v := Store.set w.v 0 (laneKey n lane) x }

/-- sn. -/
def Warp.sreg (w : Warp) (n : Nat) : Word := Store.get w.s 0 n

/-- `x` written to sn. -/
def Warp.setS (w : Warp) (n : Nat) (x : Word) : Warp := { w with s := Store.set w.s 0 n x }

/-- mk in a lane; m7 reads 1 (07 R79). -/
def Warp.pred (w : Warp) (k lane : Nat) : Bool := if k = 7 then true else Store.get w.m false (laneKey k lane)

/-- `b` written to mk in a lane; m7 keeps no written value (07 R79). -/
def Warp.setPred (w : Warp) (k lane : Nat) (b : Bool) : Warp :=
  if k = 7 then w else { w with m := Store.set w.m false (laneKey k lane) b }

/-- xk in a lane: index in [7:0], limit in [15:8]. -/
def Warp.xreg (w : Warp) (k lane : Nat) : BitVec 16 := Store.get w.x 0 (laneKey k lane)

/-- `v` written to xk in a lane. -/
def Warp.setX (w : Warp) (k lane : Nat) (v : BitVec 16) : Warp := { w with x := Store.set w.x 0 (laneKey k lane) v }

/-- The value of `n` lane registers from vd up in a lane, lowest register in the low bits (05 R54). -/
def Warp.vval (w : Warp) : Nat → Nat → Nat → Nat
  | _, 0, _ => 0
  | d, n + 1, lane => (w.vreg d lane).toNat + 2 ^ 32 * Warp.vval w (d + 1) n lane

/-- The value of `n` scalar registers from sd up. -/
def Warp.sval (w : Warp) : Nat → Nat → Nat
  | _, 0 => 0
  | d, n + 1 => (w.sreg d).toNat + 2 ^ 32 * Warp.sval w (d + 1) n

/-- `x` written to `n` lane registers from vd up in a lane. -/
def Warp.setVval : Warp → Nat → Nat → Nat → Nat → Warp
  | w, _, 0, _, _ => w
  | w, d, n + 1, lane, x => Warp.setVval (w.setV d lane (BitVec.ofNat 32 x)) (d + 1) n lane (x / 2 ^ 32)

/-- `x` written to `n` scalar registers from sd up. -/
def Warp.setSval : Warp → Nat → Nat → Nat → Warp
  | w, _, 0, _ => w
  | w, d, n + 1, x => Warp.setSval (w.setS d (BitVec.ofNat 32 x)) (d + 1) n (x / 2 ^ 32)

/-- Flags ORed into `%fpf` (00 R10, SetFpf). -/
def Warp.orFpf (w : Warp) (f : Word) : Warp := { w with fpf := w.fpf ||| f }

/-! ### Block registers (09 R123) -/

/-- Block register n. -/
def Crew.breg (cr : Crew) (n : Nat) : BReg := Store.get cr.b {} n

/-- The value of bn that an instruction of a quarter reads at a core clock: in the clock of the last write, another quarter still
reads the value before it (09 R123). -/
def Crew.bval1 (cr : Crew) (clk q n : Nat) : Word :=
  let r := cr.breg n
  if r.clk = clk ∧ r.q < 4 ∧ r.q ≠ q then r.old else r.val

/-- The block registers as an instruction of a quarter reads them at a core clock. -/
def Crew.frozen (cr : Crew) (clk q : Nat) : Store BReg := Store.mapV cr.b fun n r => { r with val := cr.bval1 clk q n, q := 4 }

/-- The value of `n` block registers from bd up. -/
def Crew.bval (cr : Crew) (clk q : Nat) : Nat → Nat → Nat
  | _, 0 => 0
  | d, n + 1 => (cr.bval1 clk q d).toNat + 2 ^ 32 * Crew.bval cr clk q (d + 1) n

end Sys2Proof.Machine
end

