-- ==== Sys2Proof/Machine/Order.lean ====
section
/-! DEFINITION. What happens before what: clocks, releases and acquires, the writes of a byte, and which bytes they leave undefined (11
R166-R177; notes/assumptions/40.md). -/

namespace Sys2Proof.Machine

/-! ### Clocks (11 R171) -/

/-- Event `n` of a thread happens before the point. -/
def Clock.knows (k : Clock) (t : Thr) (n : Nat) : Bool := decide (n ≤ k.floor) || k.marks.any fun m => decide (m.1 = t) && decide (n ≤ m.2)

/-- The events of a thread up to `n` happen before the point too. -/
def Clock.mark (k : Clock) (t : Thr) (n : Nat) : Clock :=
  if k.knows t n then k else { k with marks := (t, n) :: k.marks.filter fun m => !decide (m.1 = t) }

/-- What happens before either of two points. -/
def Clock.join (a b : Clock) : Clock := b.marks.foldl (fun k m => k.mark m.1 m.2) { a with floor := Nat.max a.floor b.floor }

/-! ### Threads and points -/

/-- What is handed on at a point. -/
def Ledger.point (g : Ledger) (p : Point) : Clock := ((g.points.find? fun x => decide (x.1 = p)).map fun x => x.2).getD {}

/-- What is handed on at a point from now on. -/
def Ledger.setPoint (g : Ledger) (p : Point) (k : Clock) : Ledger :=
  { g with points := (p, k) :: g.points.filter fun x => !decide (x.1 = p) }

/-- More handed on at a point. -/
def Ledger.give (g : Ledger) (p : Point) (k : Clock) : Ledger := g.setPoint p ((g.point p).join k)

/-- What a thread has come to: it starts with what its crew's start acquired, or with what was handed to its operation. -/
def Ledger.thread (g : Ledger) (t : Thr) : ThrSt :=
  ((g.threads.find? fun x => decide (x.1 = t)).map fun x => x.2).getD
    { clk := match t with
        | .lane uid _ _ => g.point (.start uid)
        | .op core seq => g.point (.op core seq)
        | _ => {} }

/-- A thread that has come to something else. -/
def Ledger.setThread (g : Ledger) (t : Thr) (x : ThrSt) : Ledger :=
  { g with threads := (t, x) :: g.threads.filter fun y => !decide (y.1 = t) }

/-- The threads of a crew and its start forgotten, as it has left the device. -/
def Ledger.forget (g : Ledger) (uid : Nat) : Ledger :=
  { g with
    threads := g.threads.filter fun x => match x.1 with
      | .lane u _ _ => decide (u ≠ uid)
      | _ => true
    points := g.points.filter fun x => !decide (x.1 = .start uid) }

/-- What happens before a release that a thread makes now: what it knows and has read, and all its own events (11 R171, cumulativity). -/
def Ledger.before (g : Ledger) (t : Thr) : Clock := ((g.thread t).clk.join (g.thread t).obs).mark t g.count

/-- A release by a thread: what it has read happens before all that it does from now on (11 R171). -/
def Ledger.release (g : Ledger) (t : Thr) : Ledger :=
  let x := g.thread t
  g.setThread t { x with clk := x.clk.join x.obs, obs := {} }

/-- An acquire by a thread. -/
def Ledger.acquire (g : Ledger) (t : Thr) (k : Clock) : Ledger :=
  let x := g.thread t
  g.setThread t { x with clk := x.clk.join k }

/-- What happens before a release that threads make together. -/
def Ledger.beforeAll (g : Ledger) (ts : List Thr) : Clock := ts.foldl (fun k t => k.join (g.before t)) {}

/-- Threads release to a point (11 R177). -/
def Ledger.send (g : Ledger) (ts : List Thr) (p : Point) : Ledger := (ts.foldl Ledger.release g).give p (g.beforeAll ts)

/-- Threads acquire from a point (11 R177). -/
def Ledger.meet (g : Ledger) (ts : List Thr) (p : Point) : Ledger := ts.foldl (fun g t => g.acquire t (g.point p)) g

/-! ### Scopes (11 R169, R170) -/

/-- A scope of a thread of crew `uid` and warp `warp` includes one of crew `uid'` and warp `warp'`. -/
def scopeHas (scope : Nat) (uid warp uid' warp' : Option Nat) : Bool :=
  match scope with
  | 0 => false
  | 1 => decide (uid = uid') && decide (warp = warp')
  | 2 => decide (uid = uid')
  | _ => true

/-- A release that a lane's read met synchronises with it: both scopes include the other's thread; no scope of the read is asked for where every
read of the value acquires (11 R170, R177). -/
def Rel.meets (r : Rel) (t : Thr) (scope : Nat) : Bool :=
  match t with
  | .lane uid warp _ =>
    scopeHas r.scope r.uid r.warp (some uid) (some warp) && (r.any || scopeHas scope (some uid) (some warp) r.uid r.warp)
  | _ => false

/-! ### Writes and reads of bytes (11 R168, R176) -/

/-- The key of a stash byte of a crew among the keys of bytes; a physical address is its own. -/
def stashKey (uid off : Nat) : Nat := 2 ^ 48 + uid * 2 ^ 18 + off

/-- A write is known to a thread: its own, or one that happens before what it does now. -/
def Ledger.knows (g : Ledger) (t : Thr) (e : Ev) : Bool := decide (e.thr = t) || (g.thread t).clk.knows e.thr e.num

/-- An access of `n` bytes at `a` is of another address or size than a write. -/
def Ev.mixed (e : Ev) (a n : Nat) : Bool := decide (e.addr ≠ a) || decide (e.size ≠ n)

/-- The byte at a key is undefined for an access of `n` bytes at `a` by a thread: it was left so, or a write of it at another address or size is not
ordered before (11 R176). -/
def Ledger.races (g : Ledger) (t : Thr) (a n key : Nat) : Bool :=
  match Store.look g.hist key with
  | some h => h.race || h.evs.any fun e => e.mixed a n && !g.knows t e
  | none => false

/-- The byte at a key of a future is undefined for a thread that completes or names it: it was left so, or a store, which is no resolution, is not
ordered before (13 R200). -/
def Ledger.unready (g : Ledger) (t : Thr) (key : Nat) : Bool :=
  match Store.look g.hist key with
  | some h => h.race || h.evs.any fun e => !g.knows t e && e.rels.all fun r => !r.any
  | none => false

/-- The byte at a key has a write by a thread since its history was last cleared. -/
def Ledger.written (g : Ledger) (key : Nat) : Bool :=
  match Store.look g.hist key with
  | some h => !h.evs.isEmpty
  | none => false

/-- The number of the last write of the byte at a key. -/
def Ledger.lastOf (g : Ledger) (key : Nat) : Nat :=
  match Store.look g.hist key with
  | some h => h.last
  | none => 0

/-- A byte's writes with one more: those that it comes after are dropped, but for a write by an engine, which keeps them for `fdone` (15 R223).
The byte is undefined while two of its writes, at different addresses or sizes, are not ordered (11 R176). -/
def Hist.add (h : Hist) (g : Ledger) (e : Ev) : Hist :=
  let rest := h.evs.filter fun x => !g.knows e.thr x
  { last := e.num
    race := (h.race && !rest.isEmpty) || rest.any fun x => x.mixed e.addr e.size
    evs := e :: match e.thr with
      | .op _ _ => h.evs
      | _ => rest }

/-- A write of `n` bytes at key `a` by a thread, with the releases that it carries and the bytes that it replaces. -/
def Ledger.write (g : Ledger) (t : Thr) (a n : Nat) (rels : List Rel) (old : Nat → Byte) : Ledger :=
  let e (key : Nat) : Ev := { thr := t, num := g.count + 1, addr := a, size := n, clk := (g.thread t).clk, rels, old := old key }
  { g with
    count := g.count + 1
    hist := (List.range n).foldl (fun m k =>
      Store.put m (a + k) (Hist.add ((Store.look g.hist (a + k)).getD { last := 0, race := false, evs := [] }) g (e (a + k)))) g.hist }

/-- A write of `n` bytes at key `a` by a step of the device, which races with nothing: their history is cleared. -/
def Ledger.clear (g : Ledger) (a n : Nat) : Ledger :=
  { g with
    count := g.count + 1
    hist := (List.range n).foldl (fun m k => Store.put m (a + k) { last := g.count + 1, race := false, evs := [] }) g.hist }

/-- The last write of the byte at a key, which a read of it reads. -/
def Ledger.head (g : Ledger) (key : Nat) : Option Ev := (Store.look g.hist key).bind fun h => h.evs.head?

/-- A read by a thread, at a scope where it acquires and else 0, of the value that a write wrote (11 R170, R171). -/
def ThrSt.reads (x : ThrSt) (t : Thr) (scope : Nat) (e : Ev) : ThrSt :=
  { x with
    clk := e.rels.foldl (fun k r => if r.meets t scope then k.join r.clk else k) x.clk
    obs := if e.thr = t then x.obs else x.obs.join (e.clk.mark e.thr e.num)
    seen := e.rels.foldl (fun l r => if l.any fun y => decide (y = r) then l else r :: l) x.seen }

/-- A read of `n` bytes at key `a` by a thread, at a scope where it acquires and else 0. -/
def Ledger.read (g : Ledger) (t : Thr) (scope a n : Nat) : Ledger :=
  match (List.range n).filterMap fun k => g.head (a + k) with
  | [] => g
  | es => g.setThread t (es.foldl (fun x e => x.reads t scope e) (g.thread t))

/-- A fence of a thread at a scope: as an acquire it takes up the releases that the thread's reads have met, as a release it lets the thread's writes
from now on carry what happens before it (11 R170). -/
def Ledger.fence (g : Ledger) (t : Thr) (scope : Nat) (acq rel : Bool) : Ledger :=
  let x := g.thread t
  let clk := if acq then x.seen.foldl (fun k r => if r.meets t scope then k.join r.clk else k) x.clk else x.clk
  if rel then
    let clk := clk.join x.obs
    g.setThread t { x with clk, obs := {}, fences := (scope, clk.mark t g.count) :: x.fences.filter fun f => !decide (f.1 = scope) }
  else g.setThread t { x with clk }

/-- The releases that a write by a lane carries: its own at a scope, 0 for none, and those of the lane's fences (11 R170). -/
def Ledger.rels (g : Ledger) (uid warp lane scope : Nat) : List Rel :=
  let t : Thr := .lane uid warp lane
  let rel (scope : Nat) (clk : Clock) : Rel := { clk, scope, uid := some uid, warp := some warp, any := false }
  (if scope = 0 then [] else [rel scope ((g.before t).mark t (g.count + 1))]) ++ (g.thread t).fences.map fun f => rel f.1 f.2

/-- A store by a lane, which releases at a scope, 0 for none (11 R170). -/
def Ledger.store (g : Ledger) (uid warp lane scope a n : Nat) (old : Nat → Byte) : Ledger :=
  let t : Thr := .lane uid warp lane
  (if scope = 0 then g else g.release t).write t a n (g.rels uid warp lane scope) old

/-- A read-modify-write by a lane, which acquires and releases at scopes, 0 for none; where it writes, its write carries the releases of the write of
the location that it reads besides (11 R170). -/
def Ledger.rmw (g : Ledger) (uid warp lane acq rel a n : Nat) (writes : Bool) : Ledger :=
  let t : Thr := .lane uid warp lane
  let chain := match g.head a with
    | some e => if e.mixed a n then [] else e.rels
    | none => []
  let g := g.read t acq a n
  if writes then (if rel = 0 then g else g.release t).write t a n (g.rels uid warp lane rel ++ chain) fun _ => 0 else g

end Sys2Proof.Machine
end

