-- ==== Sys2Proof/Machine/Cache.lean ====
section
/-! DEFINITION. Physical memory: its ranges (11 R147), bytes, poison (19 R283), the homes, sets and replacement of the LLC (11
R159-R164), HBM channels (19 R277, R278), the L1 (11 R162), and the watches of `waita` (13 R195). The one copy of every byte is
at its home (notes/assumptions/2.md): caches are kept as what they hold, not as second copies. -/

namespace Sys2Proof.Machine

/-! ### Ranges (11 R147) -/

/-- The line number of a physical address (00 R5). -/
def lineOf (pa : Nat) : Nat := pa / 128

/-- In the HBM range. -/
def inHbm (pa : Nat) : Bool := decide (pa < 0x1800000000)

/-- In generated space. -/
def inGen (pa : Nat) : Bool := decide (0x400000000000 ≤ pa) && decide (pa < 0x500000000000)

/-- In host memory. -/
def inHost (pa : Nat) : Bool := decide (0x800000000000 ≤ pa) && decide (pa < 0x1000000000000)

/-- The partition of a generated address (15 R212). -/
def genPart (pa : Nat) : Nat := bits pa 43 41

/-- The home slice of a physical address (11 R159). -/
def homeOf (pa : Nat) : Nat :=
  let c := bits pa 11 7 ^^^ bits pa 16 12 ^^^ bits pa 21 17 ^^^ bits pa 26 22 ^^^ bits pa 31 27 ^^^ bits pa 36 32 ^^^
    bits pa 40 37
  32 * (bits pa 40 7 % 3) + c

/-- The set of a physical address in its home slice (11 R159). -/
def setOf (pa : Nat) : Nat :=
  1024 * (bits pa 47 12 % 3) + (bits pa 21 12 ^^^ bits pa 31 22 ^^^ bits pa 41 32)

/-! ### Bytes -/

/-- The byte at a physical address; one that nothing has written reads 0 (notes/assumptions/3.md). -/
def State.byteAt (s : State) (pa : Nat) : Byte := Store.get s.mem 0 pa

/-- The byte lies in a page of HBM in device bias of which a host cache holds a line, which leaves the page's bytes undefined (23 R318). -/
def State.hostStale (s : State) (a : Nat) : Bool :=
  s.hostLines.any (fun l => decide (l / 512 = a / 65536)) && !s.bias.any fun n => decide (n = a / 65536)

/-- The byte that an agent of the device finds at a physical address: a free value where a host cache leaves it undefined (23 R318;
notes/assumptions/4.md). -/
def State.seenByte (s : State) (pa : Nat) : Byte := if s.hostStale pa then Config.freeByte s.freeCtr pa else s.byteAt pa

/-- `n` bytes from a physical address up, as an agent of the device finds them. -/
def State.bytesAt (s : State) : Nat → Nat → List Byte
  | _, 0 => []
  | pa, n + 1 => s.seenByte pa :: State.bytesAt s (pa + 1) n

/-- The number of `n` bytes at a physical address, as an agent of the device finds them. -/
def State.natAt (s : State) (pa n : Nat) : Nat := natOf (s.bytesAt pa n)

/-- Bytes written into memory data, in its canonical form. -/
def memPut : Store Byte → Nat → List Byte → Store Byte
  | m, _, [] => m
  | m, a, b :: r => memPut (Store.set m 0 a b) (a + 1) r

/-- The line of a physical address is poisoned. -/
def State.poisoned (s : State) (pa : Nat) : Bool := s.poison.any fun l => decide (l = lineOf pa)

/-- The line of a physical address poisoned. -/
def State.addPoison (s : State) (pa : Nat) : State :=
  if s.poisoned pa then s else { s with poison := lineOf pa :: s.poison }

/-- The line of a physical address no longer poisoned. -/
def State.clearPoison (s : State) (pa : Nat) : State :=
  { s with poison := s.poison.filter fun l => decide (l ≠ lineOf pa) }

/-! ### Watches (13 R195) -/

/-- The value `m` of a watched location meets the condition against `b` (13 R195). -/
def condMet (cond : Nat) (sg : Bool) (width m b : Nat) : Bool :=
  match cond with
  | 0 => decide (m = b)
  | 1 => decide (m ≠ b)
  | 2 => if sg then decide (signExt m width < signExt b width) else decide (m < b)
  | 3 => if sg then decide (signExt b width ≤ signExt m width) else decide (b ≤ m)
  | 4 => decide (m &&& b ≠ 0)
  | _ => decide (m &&& b = 0)

/-- The watches among `ws` that a write of `n` bytes at `a` reaches. -/
def Watch.hit (w : Watch) (stash : Bool) (a n : Nat) : Bool :=
  decide (w.stash = stash) && decide (w.addr < a + n) && decide (a < w.addr + w.size)

/-- The watches that a write of `n` bytes at `a` reaches and whose location then meets its condition. -/
def Watch.met (w : Watch) (stash : Bool) (a n : Nat) (rd : Nat → Nat → Nat) : Bool :=
  w.hit stash a n && condMet w.cond w.signed (8 * w.size) (rd w.addr w.size) w.value

/-- A split parked on watches after a write of `n` bytes at `a`: each lane that watches them reads its location again, and the
split goes on when every lane has met its condition. A poisoned read is fault 0x09 of the lane (13 R195), but a fill task goes on and reads
it as its loads do (15 R227). -/
def Split.recheck (sp : Split) (fill stash : Bool) (a n : Nat) (rd : Nat → Nat → Nat) (bad : Nat → Bool) : Split :=
  match sp.st with
  | .parked (.watch ws) =>
    let faults := ws.filterMap fun w =>
      if w.hit stash a n && bad w.addr then some { lane := w.lane, code := 0x09, va := w.va : LaneFault } else none
    let rest := ws.filter fun w => !w.met stash a n rd
    let ans := (ws.filter fun w => w.met stash a n rd).foldl (fun m w => Store.put m w.lane (rd w.addr w.size)) sp.ans
    if !faults.isEmpty then (if fill then { sp with st := .run } else { sp with st := .entryWait faults, ans := [] })
    else if rest.isEmpty then { sp with st := .run, ans }
    else { sp with st := .parked (.watch rest), ans }
  | _ => sp

/-- Bytes overlap a future in the list of those resolved; with `dev`, by an `fset` of device scope (11 R177). -/
def futureIn (l : Store Bool) (dev : Bool) (a n : Nat) : Bool :=
  l.any fun p => decide (p.1 < a + n) && decide (a < p.1 + 8) && (!dev || p.2)

/-- Some lane of a split reads, after a write of `n` bytes at `a`, the value for which it waits in a future that an `fset` of device scope
has resolved. -/
def Split.reads (sp : Split) (l : Store Bool) (a n : Nat) (rd : Nat → Nat → Nat) : Bool :=
  match sp.st with
  | .parked (.watch ws) => ws.any fun w => w.met false a n rd && futureIn l true w.addr w.size
  | _ => false

/-- All splits of a warp, suspended ones too. -/
def Warp.allSplits (w : Warp) : List Split :=
  w.splits ++ (match w.save with
    | some v => v.splits
    | none => [])

/-- `f` applied to every split of a warp, suspended ones too. -/
def Warp.mapSplits (w : Warp) (f : Split → Split) : Warp :=
  { w with
    splits := w.splits.map f
    save := w.save.map fun v => { v with splits := v.splits.map f } }

/-- `f` applied to every split of the device (13 R195, 19 R269: registrations hold while a crew is saved). -/
def State.mapSplits (s : State) (f : Split → Split) : State :=
  s.mapCrews fun cr => cr.mapWarps fun w => w.mapSplits f

/-- The clean lines of every window invalidated (11 R165, Refresh). -/
def Crew.refresh (cr : Crew) : Crew :=
  { cr with windows := cr.windows.map fun w =>
      { w with lines := Store.mapV w.lines fun _ l => if l.dirty.isEmpty then { l with valid := false } else l } }

/-- Every lane that watches bytes reads its location again after a write of `n` bytes at `a`; one that reads a future that an `fset` of
device scope has resolved acquires at that scope (13 R195, 11 R165, R177). -/
def State.recheck (s : State) (a n : Nat) : State :=
  let rd (p k : Nat) : Nat := s.natAt p k
  s.mapCrews fun cr =>
    let acq := cr.warps.any fun w => w.2.allSplits.any fun sp => sp.reads s.resolved a n rd
    let cr := cr.mapWarps fun w => w.mapSplits fun sp => sp.recheck cr.fill.isSome false a n rd s.poisoned
    if acq then cr.refresh else cr

/-! ### Writes of memory (11 R175-R177) -/

/-- Some job or fill task runs. -/
def State.running (s : State) : Bool :=
  (s.parts.any fun p => !p.2.jobs.isEmpty) || s.cores.any fun c => c.2.crews.any fun e => e.2.fill.isSome

/-- The memory events after a write of `n` bytes at `pa`: by a thread, with the releases that it carries, or by a step of the device (`none`);
while nothing runs the bytes have no history. -/
def State.noted (s : State) (who : Option (Thr × List Rel)) (pa n : Nat) : Ledger :=
  if s.running then
    match who with
    | some w => s.ledger.write w.1 pa n w.2 s.byteAt
    | none => s.ledger.clear pa n
  else { s.ledger with hist := (List.range n).foldl (fun m k => Store.del m (pa + k)) s.ledger.hist }

/-- Bytes put in memory, as no event; a future that they overwrite is no longer resolved. -/
def State.putRaw (s : State) (pa : Nat) (bs : List Byte) : State :=
  { s with
    mem := memPut s.mem pa bs
    resolved := s.resolved.filter fun p => !(decide (p.1 < pa + bs.length) && decide (pa < p.1 + 8)) }

/-- Bytes put in memory by a thread, or by a step of the device. -/
def State.putBy (s : State) (who : Option (Thr × List Rel)) (pa : Nat) (bs : List Byte) : State :=
  { s.putRaw pa bs with ledger := s.noted who pa bs.length }

/-- Bytes put in memory, as no event, with the rereads of the lanes that watch them. -/
def State.storeRaw (s : State) (pa : Nat) (bs : List Byte) : State := (s.putRaw pa bs).recheck pa bs.length

/-- Bytes of a generated line placed at its home, which is no store of an agent: those that watch them read them again (15 R215, R226). -/
def State.placeAt (s : State) (pa : Nat) (bs : List Byte) : State :=
  ({ s with mem := memPut s.mem pa bs } : State).recheck pa bs.length

/-- Bytes stored at a physical address by a thread, or by a step of the device, with the rereads of the lanes that watch them. -/
def State.storeBy (s : State) (who : Option (Thr × List Rel)) (pa : Nat) (bs : List Byte) : State :=
  (s.putBy who pa bs).recheck pa bs.length

/-- Bytes stored at a physical address by a step of the device. -/
def State.storeAt (s : State) (pa : Nat) (bs : List Byte) : State := s.storeBy none pa bs

/-- A future resolved, by an `fset` of device or system scope where `dev` says so (11 R177). -/
def State.storeFuture (s : State) (dev : Bool) (who : Option (Thr × List Rel)) (pa : Nat) (bs : List Byte) : State :=
  let s := s.putBy who pa bs
  ({ s with resolved := Store.put s.resolved pa dev } : State).recheck pa bs.length

/-! ### Channels (19 R277, R278) -/

/-- The weight of a partition; partition 0's is 1 (19 R278). -/
def State.weight (s : State) (p : Nat) : Nat := if p = 0 then 1 else Nat.max 1 (s.part p).weight

/-- A request for a line put in a partition's queue at the channel of the line (19 R277). An address outside HBM has no channel. -/
def State.grant (s : State) (pa p : Nat) : State :=
  let c : Channel := Store.get s.channels {} (homeOf pa)
  if inHbm pa then
    { s with channels := Store.put s.channels (homeOf pa) { c with queues := Store.put c.queues p (Store.get c.queues [] p ++ [lineOf pa]) } }
  else s

/-- The partition that a channel grants next: the one that its round has reached while it holds requests and its weight is not used up, else
the next in order that holds requests, from partition 0 again after partition 7 (19 R278). -/
def Channel.next (c : Channel) (weight : Nat → Nat) : Option Nat :=
  let holds (p : Nat) : Bool := !(Store.get c.queues [] p).isEmpty
  if holds c.part && decide (c.used < weight c.part) then some c.part
  else ((List.range 8).map fun k => (c.part + 1 + k) % 8).find? holds

/-- One turn of a channel: a refresh that is due is done, or a request is granted (19 R278). -/
def Channel.turn (c : Channel) (weight : Nat → Nat) : Channel :=
  if c.refresh then { c with refresh := false }
  else
    match c.next weight with
    | none => c
    | some p =>
      { c with
        part := p, used := if p = c.part ∧ c.used < weight p then c.used + 1 else 1, served := p
        queues := Store.put c.queues p ((Store.get c.queues [] p).drop 1) }

/-- A turn of channel `h`. -/
def State.channelTurn (s : State) (h : Nat) : State :=
  match Store.look s.channels h with
  | none => s
  | some c => { s with channels := Store.put s.channels h (c.turn s.weight) }

/-- A channel has a refresh or a request to serve. -/
def State.channelBusy (s : State) (h : Nat) : Bool :=
  match Store.look s.channels h with
  | none => false
  | some c => c.refresh || (c.next s.weight).isSome

/-! ### The LLC (11 R160, R161) -/

/-- Bit `k` of the tree set to `b`. -/
def setTree (t : BitVec 16) (k : Nat) (b : Bool) : BitVec 16 :=
  if b then t ||| BitVec.ofNat 16 (2 ^ k) else t &&& ~~~ BitVec.ofNat 16 (2 ^ k)

/-- The path of node `n` pointed away from it (`away`) or at it, up to the root (11 R160). -/
def treePath (away : Bool) : Nat → BitVec 16 → Nat → BitVec 16
  | 0, t, _ => t
  | f + 1, t, n =>
    if n ≤ 1 then t else treePath away f (setTree t (n / 2) (if away then decide (n % 2 = 0) else decide (n % 2 = 1))) (n / 2)

/-- `Touch` (11 R160). -/
def touch (t : BitVec 16) (w : Nat) : BitVec 16 := treePath true 5 t (w + 16)

/-- `Aim` (11 R160). -/
def aim (t : BitVec 16) (w : Nat) : BitVec 16 := treePath false 5 t (w + 16)

/-- The ways below node `n` of the tree. -/
def underNode (n w : Nat) : Bool :=
  decide (w + 16 = n) || decide ((w + 16) / 2 = n) || decide ((w + 16) / 4 = n) || decide ((w + 16) / 8 = n) ||
    decide ((w + 16) / 16 = n)

/-- The way that the tree leads to among the ways `k` (11 R160). -/
def treeVictim (t : BitVec 16) (k : List Nat) : Nat → Nat → Nat
  | 0, n => n - 16
  | f + 1, n =>
    if 16 ≤ n then n - 16
    else
      let d := if t.getLsbD n then 1 else 0
      let d := if k.any (underNode (2 * n + d)) then d else 1 - d
      treeVictim t k f (2 * n + d)

/-- The ways of a set that a partition may allocate into (11 R160). -/
def State.eligible (s : State) (h n p : Nat) : List Nat :=
  let sl := s.slice h
  let set := Store.get sl.sets {} n
  (List.range 16).filter fun w =>
    (s.part p).ways.getLsbD w && !sl.quarantine.getLsbD w &&
      (match Store.look set.ways w with
        | some l => l.pins.isEmpty
        | none => true)

/-- `Victim` (11 R160). -/
def State.victim (s : State) (h n p : Nat) : Option Nat :=
  let set := Store.get (s.slice h).sets {} n
  match s.eligible h n p with
  | [] => none
  | e =>
    match e.find? fun w => (Store.look set.ways w).isNone with
    | some w => some w
    | none =>
      let k := e.filter fun w =>
        match Store.look set.ways w with
        | some l => !l.keep
        | none => true
      let k := if k.isEmpty then e else k
      some (treeVictim set.tree k 5 1)

/-- The way that holds a line, if it is resident (11 R161: a hit is by address alone). -/
def State.wayOf (s : State) (pa : Nat) : Option Nat :=
  let set := Store.get (s.slice (homeOf pa)).sets {} (setOf pa)
  (set.ways.find? fun e => decide (e.2.line = lineOf pa)).map fun e => e.1

/-- The resident line at a physical address. -/
def State.lineAt (s : State) (pa : Nat) : Option LLine :=
  let set := Store.get (s.slice (homeOf pa)).sets {} (setOf pa)
  (set.ways.find? fun e => decide (e.2.line = lineOf pa)).map fun e => e.2

/-- `s` with set `n` of slice `h` replaced. -/
def State.setSet (s : State) (h n : Nat) (x : LSet) : State :=
  let sl := s.slice h
  s.setSlice h { sl with sets := Store.put sl.sets n x }

/-- The larder slot of a generated line, and its tag's address (15 R224). -/
def larderSlot (p : Part) (pa : Nat) : Nat × Nat :=
  let k := lineOf pa % 2 ^ p.lnl
  (p.lbase + 128 * k, p.lbase + 128 * 2 ^ p.lnl + 8 * k)

/-- A tag of the larder: `V` and pa[47:7] (15 R224). -/
def larderTag (pa : Nat) : Nat := 1 + 128 * lineOf pa

/-- The partition's larder holds the line; a tag whose line is poisoned holds none (15 R224, 19 R283). -/
def State.larderHit (s : State) (pa : Nat) : Bool :=
  let p := s.part (genPart pa)
  decide (p.lnl ≠ 0) && !s.poisoned (larderSlot p pa).2 && decide (s.natAt (larderSlot p pa).2 8 = larderTag pa)

/-- The probe of a larder's tag, which is an access to HBM (15 R224). -/
def State.larderProbe (s : State) (pa : Nat) : Bool × State :=
  let p := s.part (genPart pa)
  (s.larderHit pa, if p.lnl = 0 then s else s.grant (larderSlot p pa).2 (genPart pa))

/-- A generated line written to its larder slot, and its tag (15 R224). -/
def State.larderPut (s : State) (pa : Nat) : State :=
  let p := s.part (genPart pa)
  let base := 128 * lineOf pa
  let slot := larderSlot p pa
  let s' := (s.grant slot.1 (genPart pa)).grant slot.2 (genPart pa)
  let s' := (s'.storeAt slot.1 (s.bytesAt base 128)).clearPoison slot.1
  let s' := s'.storeAt slot.2 (bytesLE 8 (larderTag pa))
  s'.countSlice (homeOf pa) 0x25 1

/-- A line's larder slot read: its bytes, none where the slot is poisoned (15 R224, 19 R283). -/
def State.larderRead (s : State) (pa : Nat) : Option (List Byte) × State :=
  let slot := larderSlot (s.part (genPart pa)) pa
  (if s.poisoned slot.1 then none else some (s.bytesAt slot.1 128), s.grant slot.1 (genPart pa))

/-- The bytes of a generated line, which have no storage behind them once it has left the cache (11 R147). -/
def State.eraseLine (s : State) (pa : Nat) : State :=
  let base := 128 * lineOf pa
  ({ s with mem := memPut s.mem base (List.replicate 128 0) }).clearPoison pa

/-- What happens to a line that leaves the cache: a dirty line is written to HBM; a clean generated line goes to the larder or is
dropped by its recorded policy; a poisoned generated line is dropped; any other line is dropped (11 R160, 15 R224). A line that the larder already
holds counts neither as written there nor as dropped (15 R229; DEDUCED, notes/assumptions/46.md). -/
def State.leaveLine (s : State) (l : LLine) : State :=
  let pa := 128 * l.line
  match l.larder with
  | some keep =>
    let p := s.part (genPart pa)
    if keep && decide (p.lnl ≠ 0) && !s.poisoned pa then
      let h := s.larderProbe pa
      if h.1 then h.2.eraseLine pa else (h.2.larderPut pa).eraseLine pa
    else (s.countSlice (homeOf pa) 0x26 1).eraseLine pa
  | none => if l.dirty then s.grant pa l.tag else s

/-- The mixed-size record of a line cleared, as the line leaves the cache (11 R176). -/
def State.unmix (s : State) (line : Nat) : State :=
  let h := homeOf (128 * line)
  s.setSlice h { s.slice h with mixed := Store.del (s.slice h).mixed line }

/-- The line in a way removed from its set. -/
def State.dropWay (s : State) (h n w : Nat) : State :=
  let set := Store.get (s.slice h).sets {} n
  match Store.look set.ways w with
  | some l => ((s.setSet h n { set with ways := Store.del set.ways w }).unmix l.line).leaveLine l
  | none => s

/-- A line allocated for a partition: the victim leaves, the line takes its way and the tree is updated by the policy. Nothing
where no way is eligible (11 R160, R161). -/
def State.allocate (s : State) (pa cpol p : Nat) (dirty : Bool) (writer : Option Nat) (larder : Option Bool) : State × Bool :=
  let h := homeOf pa
  let n := setOf pa
  match s.victim h n p with
  | none => (s, false)
  | some w =>
    let s := s.dropWay h n w
    let set := Store.get (s.slice h).sets {} n
    let l : LLine := { line := lineOf pa, dirty, keep := decide (cpol = 2), tag := p, writer, larder, pins := [], leave := false }
    (s.setSet h n { tree := if cpol = 1 then aim set.tree w else touch set.tree w, ways := Store.put set.ways w l }, true)

/-- A request for a line at its home under the policy left after R164 (11 R161): tree and keep mark on a hit; on a miss the line
is read from memory and allocated where the policy allocates. -/
def State.request (s : State) (pa cpol p : Nat) (write : Bool) (writer : Option Nat) : State :=
  let h := homeOf pa
  let n := setOf pa
  match s.wayOf pa, s.lineAt pa with
  | some w, some l =>
    let set := Store.get (s.slice h).sets {} n
    let tree := match cpol with
      | 1 => set.tree
      | 5 => aim set.tree w
      | _ => touch set.tree w
    let keep := match cpol with
      | 2 => true
      | 5 => false
      | _ => l.keep
    let l := { l with keep, dirty := l.dirty || write, writer := if write then writer else l.writer }
    s.setSet h n { tree, ways := Store.put set.ways w l }
  | _, _ =>
    let s := s.grant pa p
    if cpol = 4 ∨ cpol = 5 then s else (s.allocate pa cpol p write writer none).1

/-- The policy applied for a page, and whether R164 replaced it. -/
def effCpol (leaf : BitVec 64) (cpol : Nat) : Nat × Bool :=
  if leaf.getLsbD 3 then
    if cpol = 4 ∨ cpol = 5 then (0, true) else (cpol, false)
  else if !leaf.getLsbD 4 then
    if cpol = 1 ∨ cpol = 2 ∨ cpol = 5 then (4, true) else (cpol, false)
  else (cpol, false)

/-- The policy by which the LLC treats a request: a page with `C` clear never allocates (11 R151, R163). -/
def llcCpol (leaf : BitVec 64) (cpol : Nat) : Nat := if leaf.getLsbD 4 then cpol else 4

/-- The mixed-size check of a strong access in debug mode: the record of its line, resident or not, overlaps with another address or size
(11 R176). -/
def State.mixed (s : State) (p pa size : Nat) : Bool :=
  (s.part p).msdbg &&
    match Store.look (s.slice (homeOf pa)).mixed (lineOf pa) with
    | some (a, n) => decide ((a ≠ pa ∨ n ≠ size) ∧ a < pa + size ∧ pa < a + n)
    | none => false

/-- The record of the last strong access of a line (11 R176). -/
def State.setMixed (s : State) (p pa size : Nat) : State :=
  if (s.part p).msdbg then
    let h := homeOf pa
    s.setSlice h { s.slice h with mixed := Store.put (s.slice h).mixed (lineOf pa) (pa, size) }
  else s

/-! ### The L1 (11 R162) -/

/-- The crew stash of a core that general crews hold (03 R31). -/
def Core.stashUsed (c : Core) : Nat := (c.crews.filter fun e => decide (e.1 < 28)).foldl (fun a e => a + e.2.shape.stash) 0

/-- The ways of the L1: 8, one for each whole 8 KiB of crew stash not allocated, 8 for each empty fill slot (11 R162). -/
def Core.l1Ways (c : Core) : Nat :=
  8 + (196608 - c.stashUsed) / 8192 + 8 * ((List.range 4).filter fun k => (Store.look c.crews (28 + k)).isNone).length

/-- The lines in ways that the L1 no longer has are invalidated (11 R162). -/
def Core.l1Trim (c : Core) : Core := { c with l1 := c.l1.filter fun l => decide (l.way < c.l1Ways) }

/-- The L1 holds the line. -/
def Core.l1Hit (c : Core) (pa : Nat) : Bool := c.l1.any fun l => decide (l.line = lineOf pa)

/-- The line of the L1 with its used bit set to `u`. -/
def Core.l1Used (c : Core) (pa : Nat) (u : Bool) : Core :=
  { c with l1 := c.l1.map fun l => if l.line = lineOf pa then { l with used := u } else l }

/-- The line leaves the L1. -/
def Core.l1Drop (c : Core) (pa : Nat) : Core := { c with l1 := c.l1.filter fun l => decide (l.line ≠ lineOf pa) }

/-- The victim way of a set: the first way at or after the pointer with its used bit clear; the used bits passed over are cleared
and the pointer moves past the victim (11 R162). Fuel covers two turns of the clock. -/
def l1Clock (ways set : Nat) : Nat → Nat → List L1Line → Nat × List L1Line
  | 0, p, l => (p, l)
  | f + 1, p, l =>
    match l.find? fun x => decide (x.set = set) && decide (x.way = p) with
    | some x =>
      if x.used then
        l1Clock ways set f ((p + 1) % ways)
          (l.map fun y => if y.set = set ∧ y.way = p then { y with used := false } else y)
      else (p, l)
    | none => (p, l)

/-- A line allocated in the L1, with the bytes of a generated one. -/
def Core.l1Alloc (c : Core) (pa : Nat) (used : Bool) (data : List Byte) : Core :=
  let set := lineOf pa % 64
  let ways := c.l1Ways
  let r := l1Clock ways set (2 * ways + 1) (Store.get c.l1ptr 0 set % ways) c.l1
  { c with
    l1 := { set, way := r.1, line := lineOf pa, used, data } :: r.2.filter (fun x => decide (x.set ≠ set ∨ x.way ≠ r.1))
    l1ptr := Store.put c.l1ptr set ((r.1 + 1) % ways) }

/-- A load of a line through the L1 under a policy: whether the home is asked, and the L1 after it, which takes `data` with a generated
line (11 R162). -/
def Core.l1Load (c : Core) (leaf : BitVec 64) (pa cpol : Nat) (data : List Byte) : Bool × Core :=
  if !leaf.getLsbD 5 ∨ cpol = 3 then (true, c)
  else if c.l1Hit pa then
    match cpol with
    | 1 => (false, c)
    | 5 => (false, c.l1Drop pa)
    | _ => (false, c.l1Used pa true)
  else
    match cpol with
    | 0 | 2 => (true, c.l1Alloc pa true data)
    | 1 => (true, c.l1Alloc pa false data)
    | _ => (true, c)

/-- The bytes of a generated line that the L1 serves under a policy (11 R162). -/
def Core.l1Copy (c : Core) (leaf : BitVec 64) (pa cpol : Nat) : Option (List Byte) :=
  if !leaf.getLsbD 5 ∨ cpol = 3 then none else (c.l1.find? fun l => decide (l.line = lineOf pa)).map fun l => l.data

/-- A store updates the L1 copy that it hits: the copy's bytes are those at the home, and its used bit is set (11 R162). -/
def Core.l1Store (c : Core) (pa : Nat) : Core := if c.l1Hit pa then c.l1Used pa true else c

/-! ### The instruction cache (07 R97, 01 R18) -/

/-- The bytes of a generated line that the instruction cache holds. -/
def Core.iCopy (c : Core) (pa : Nat) : Option (List Byte) := (c.icache.find? fun l => decide (l.line = lineOf pa)).map fun l => l.data

/-- A line used in the instruction cache of 512 lines, whose oldest line gives way (notes/assumptions/16.md). -/
def Core.iTouch (c : Core) (pa : Nat) (data : List Byte) : Core :=
  { c with icache := ({ line := lineOf pa, data } :: c.icache.filter fun l => decide (l.line ≠ lineOf pa)).take 512 }

/-- A fetch of a line that is not generated: a miss of the instruction cache goes through the L1 to the line's home, with the default policy
(07 R97, 11 R162). -/
def State.fetchLine (s : State) (core p : Nat) (leaf : BitVec 64) (pa : Nat) : State :=
  let c := s.core core
  if (c.iCopy pa).isSome then s.setCore core (c.iTouch pa [])
  else
    let r := c.l1Load leaf pa 0 []
    let s := s.setCore core (r.2.iTouch pa [])
    if r.1 then s.request pa (llcCpol leaf 0) p false none else s

end Sys2Proof.Machine
end

