-- ==== Sys2Proof/Machine/RegCache.lean ====
section
/-! DEFINITION. The areas of a save pool (03 R32, 19 R271) and the register cache of a core, which holds register frames in lines of one
register of 32 lanes (03 R32, 01 R12, R18). Only its lines and their traffic are kept: a register's value is the warp's own
(notes/assumptions/2.md, 16.md). -/

namespace Sys2Proof.Machine

/-! ### Areas of a save pool -/

/-- The address of a byte of some pieces. -/
def pieceAt : List (Nat × Nat) → Nat → Option Nat
  | [], _ => none
  | (a, n) :: r, o => if o < n then some (a + o) else pieceAt r (o - n)

/-- The lines of some pieces, by address. -/
def pieceLines (l : List (Nat × Nat)) : List Nat :=
  (l.map fun p => (List.range (p.2 / 128)).map fun k => p.1 + 128 * k).flatten

/-- A piece put in its place by address. -/
def insertPiece (x : Nat × Nat) : List (Nat × Nat) → List (Nat × Nat)
  | [] => [x]
  | y :: r => if x.1 < y.1 then x :: y :: r else y :: insertPiece x r

/-- The pieces from address `a` to address `z` that lie between used pieces, which stand in order of address. -/
def gaps (a z : Nat) : List (Nat × Nat) → List (Nat × Nat)
  | [] => if a < z then [(a, z - a)] else []
  | (b, n) :: r => (if a < b then [(a, b - a)] else []) ++ gaps (Nat.max a (b + n)) z r

/-- The first `n` bytes of some pieces. -/
def firstBytes : Nat → List (Nat × Nat) → List (Nat × Nat)
  | _, [] => []
  | n, (a, k) :: r => if n = 0 then [] else if n ≤ k then [(a, n)] else (a, k) :: firstBytes (n - k) r

/-- The bytes of some pieces. -/
def pieceBytes (l : List (Nat × Nat)) : Nat := (l.map fun p => p.2).sum

/-- The pieces of a partition's pool that no area takes, by address (19 R271). -/
def Part.gaps (t : Part) : List (Nat × Nat) :=
  Machine.gaps t.pool (t.pool + t.poolsz)
    ((t.areas.map fun a => a.pieces).flatten.foldl (fun l x => insertPiece x l) [])

/-- The partition's pool has `n` bytes left (19 R271). -/
def State.poolHas (s : State) (p n : Nat) : Bool := decide ((s.part p).poolUsed + n ≤ (s.part p).poolsz)

/-- Some areas of a crew taken from the pool, each with its bytes. R271 gives their sizes; that they lie at the lowest free bytes, in
pieces where those are not together, is the model's (DESIGN CHOICE, notes/assumptions/16.md). -/
def State.takeAreas (s : State) (p uid : Nat) (l : List (Nat × Nat)) : State :=
  l.foldl (fun s x =>
    let t := s.part p
    s.setPart p { t with
      poolUsed := t.poolUsed + x.2, areas := t.areas ++ [{ uid, what := x.1, pieces := firstBytes x.2 t.gaps }] }) s

/-- The areas of a partition's pool that meet a condition given back. -/
def State.giveAreas (s : State) (p : Nat) (f : Area → Bool) : State :=
  let t := s.part p
  s.setPart p { t with
    poolUsed := t.poolUsed - ((t.areas.filter f).map fun a => pieceBytes a.pieces).sum, areas := t.areas.filter fun a => !f a }

/-- One area of a crew given back. -/
def State.giveArea (s : State) (p uid what : Nat) : State := s.giveAreas p fun a => decide (a.uid = uid ∧ a.what = what)

/-- Every area of a crew given back. -/
def State.giveCrew (s : State) (p uid : Nat) : State := s.giveAreas p fun a => decide (a.uid = uid)

/-- The pieces of an area of a crew; none where it has none. -/
def State.areaOf (s : State) (p uid what : Nat) : List (Nat × Nat) :=
  match (s.part p).areas.find? fun a => decide (a.uid = uid ∧ a.what = what) with
  | some a => a.pieces
  | none => []

/-- The address of a line of a warp's register frame. R32 gives the frame's size and its lines; the order of the lines is the model's:
register by register, and the passes of each in order (DESIGN CHOICE, notes/assumptions/16.md). -/
def State.frameLine (s : State) (cr : Crew) (wi reg pass : Nat) : Option Nat :=
  pieceAt (s.areaOf cr.part cr.uid wi) (128 * (reg * (cr.shape.width / 32) + pass))

/-! ### The register cache -/

/-- The line holds the register of a pass. -/
def RLine.is (l : RLine) (uid wi reg pass : Nat) : Bool := decide (l.uid = uid ∧ l.warp = wi ∧ l.reg = reg ∧ l.pass = pass)

/-- A line read from its frame: a miss of the register cache, which goes through the L1 with the default policy (11 R162). -/
def State.rFill (s : State) (core : Nat) (cr : Crew) (wi reg pass : Nat) : State :=
  match s.frameLine cr wi reg pass with
  | none => s
  | some pa =>
    let r := (s.core core).l1Load 0x30 pa 0 []
    let s := s.setCore core r.2
    if r.1 then s.request pa 0 cr.part false none else s

/-- A line written to its frame where it has been written since it was read (03 R32, 19 R269). -/
def State.rWrite (s : State) (core : Nat) (l : RLine) : State :=
  if !l.dirty then s
  else
    match (s.core core).allCrews.find? fun cr => decide (cr.uid = l.uid) with
    | none => s
    | some cr =>
      match s.frameLine cr l.warp l.reg l.pass with
      | none => s
      | some pa => (s.setCore core ((s.core core).l1Store pa)).request pa 0 cr.part true (some cr.asn)

/-- A register of a pass read or written through the register cache of 2,048 lines; the line used longest ago gives way (DESIGN CHOICE,
notes/assumptions/16.md). -/
def State.rTouch (s : State) (core : Nat) (cr : Crew) (wi reg pass : Nat) (write : Bool) : State :=
  let c := s.core core
  let rest := c.rcache.filter fun l => !l.is cr.uid wi reg pass
  match c.rcache.find? fun l => l.is cr.uid wi reg pass with
  | some l => s.setCore core { c with rcache := { l with dirty := l.dirty || write } :: rest }
  | none =>
    let s := (s.setCore core { c with rcache := { uid := cr.uid, warp := wi, reg, pass, dirty := write } :: rest.take 2047 }).rFill
      core cr wi reg pass
    (rest.drop 2047).foldl (fun s l => s.rWrite core l) s

/-- The registers of a crew written to their frames, as a save does, and out of the register cache (19 R269). -/
def State.rFlush (s : State) (core uid : Nat) : State :=
  let c := s.core core
  let s := (c.rcache.filter fun l => decide (l.uid = uid)).foldl (fun s l => s.rWrite core l) s
  s.setCore core { s.core core with rcache := (s.core core).rcache.filter fun l => decide (l.uid ≠ uid) }

/-- The registers of a warp out of the register cache: its frame is no more (03 R45). -/
def Core.rDrop (c : Core) (uid wi : Nat) : Core := { c with rcache := c.rcache.filter fun l => !(decide (l.uid = uid ∧ l.warp = wi)) }

end Sys2Proof.Machine
end

