-- ==== Sys2Proof/Machine/Translate.lean ====
section
/-! DEFINITION. Translation: the page walk, the TLB, permissions and the checks of an access (11 R144-R158), and the path of an
access to a generated line from its home to a fill record (15 R212-R222). -/

namespace Sys2Proof.Machine

/-- The agent that an access acts for: its core, crew, partition, address space, and for a fill task its level, chain and class
(11 R148, 15 R216-R222). `need` is the level that a fill for it must have: 0, or L + 1 for a fill task of level L. -/
structure Agent where
  core  : Nat
  uid   : Nat
  part  : Nat
  asn   : Nat
  root  : Nat
  need  : Nat
  chain : List Nat
  cls   : Nat
  fill  : Bool
  thr   : Option Thr := none
deriving DecidableEq, Repr

/-- The agent of a crew on a core. -/
def Crew.agent (cr : Crew) (core : Nat) : Agent :=
  { core, uid := cr.uid, part := cr.part, asn := cr.asn, root := cr.root, cls := cr.cls
    need := match cr.fill with
      | some f => f.level + 1
      | none => 0
    chain := match cr.fill with
      | some f => f.chain
      | none => []
    fill := cr.fill.isSome }

/-- The agent of an engine operation of a crew on a core: its accesses are those of a thread of its own (11 R166, R178). -/
def Crew.acting (cr : Crew) (core seq : Nat) : Agent := { cr.agent core with thr := some (.op core seq) }

/-! ### The walk (11 R148-R151) -/

/-- A non-leaf entry is malformed at a level (11 R149, R150). -/
def badEntry (lvl : Nat) (e : Nat) : Bool :=
  decide (bits e 8 1 ≠ 0) || (bit e 9 && decide (lvl ≠ 1)) || decide (bits e 12 10 ≠ 0) || decide (bits e 63 48 ≠ 0) ||
    !inHbm (8192 * bits e 47 13)

/-- A leaf entry is malformed (11 R151). -/
def badLeaf (e : Nat) : Bool :=
  decide (bits e 15 10 ≠ 0) || decide (bits e 63 60 ≠ 0) || (!bit e 3 && decide (bits e 59 48 ≠ 0)) ||
    (bit e 9 && decide (bits e 20 16 ≠ 0)) || (bit e 3 && (!bit e 4 || bit e 6))

/-- How a walk ends. -/
inductive Walk where
  /-- The leaf, its physical address, and whether it is a 2 MiB page. -/
  | leaf (e : Nat) (pa : Nat) (large : Bool)
  /-- `V` clear; `large` when the walk had passed a level-1 entry with `LARGE` set. -/
  | absent (large : Bool)
  | fault (code : Nat)
deriving DecidableEq, Repr

/-- An 8-byte table read through the LLC with default policy (11 R158), charged to the walking job's partition (19 R277). -/
def State.tableRead (s : State) (p pa : Nat) : Nat × State := (s.natAt pa 8, s.request pa 0 p false none)

/-- The table walk below level `lvl` at table `t` (11 R148). -/
def State.walkFrom (s : State) (p va : Nat) : Nat → Nat → Bool → Walk × State
  | 0, t, large =>
    let pa := t + 8 * (if large then 32 * bits va 25 21 else bits va 25 16)
    let r := s.tableRead p pa
    if s.poisoned pa then (.fault 0x09, r.2)
    else if !bit r.1 0 then (.absent large, r.2)
    else if badLeaf r.1 || decide (bit r.1 9 ≠ large) then (.fault 0x07, r.2)
    else (.leaf r.1 pa large, r.2)
  | l + 1, t, _ =>
    let pa := t + 8 * bits va (10 * (l + 1) + 25) (10 * (l + 1) + 16)
    let r := s.tableRead p pa
    if s.poisoned pa then (.fault 0x09, r.2)
    else if !bit r.1 0 then (.absent false, r.2)
    else if badEntry (l + 1) r.1 then (.fault 0x07, r.2)
    else State.walkFrom r.2 p va l (8192 * bits r.1 47 13) (bit r.1 9)

/-- A walk from a root table (11 R148). -/
def State.walk (s : State) (p root va : Nat) : Walk × State := s.walkFrom p va 3 root false

/-! ### Translation (11 R146, R152-R156) -/

/-- How a translation ends. -/
inductive Trans where
  /-- The physical address and the leaf. -/
  | ok (pa : Nat) (leaf : BitVec 64)
  | page (r : PageRef)
  | fault (code : Nat)
deriving DecidableEq, Repr

/-- The address in a page of a leaf (11 R148). -/
def leafPa (e : BitVec 64) (va : Nat) : Nat :=
  if e.getLsbD 9 then 2 ^ 21 * bits e.toNat 47 21 + va % 2 ^ 21 else 2 ^ 16 * bits e.toNat 47 16 + va % 2 ^ 16

/-- The leaf permits the access (11 R152). -/
def permits (e : BitVec 64) (acc : Access) : Bool :=
  match acc with
  | .read => true
  | .write => e.getLsbD 1 && !e.getLsbD 3
  | .fetch => e.getLsbD 2

/-- The address lies in a range that the leaf's bits may reach (11 R147, 15 R212). -/
def rangeOk (e : BitVec 64) (p pa : Nat) : Bool :=
  if e.getLsbD 3 then inGen pa && decide (genPart pa = p) else inHbm pa || (inHost pa && e.getLsbD 6)

/-- A host-coherent page of HBM that is changing its bias: an access to it waits (23 R319). -/
def State.flips (s : State) (leaf : BitVec 64) (pa : Nat) : Bool := leaf.getLsbD 6 && decide (s.flipping = some (pa / 65536))

/-- The wait of an access for a page whose bias is changing, in the order of arrival (23 R319). -/
def State.flipWait (s : State) (page : Nat) : Wait × State := (.flip page s.arrivals, { s with arrivals := s.arrivals + 1 })

/-- The page number of an address under a leaf size (11 R156). -/
def vpageOf (large : Bool) (va : Nat) : Nat := if large then va / 2 ^ 21 else va / 2 ^ 16

/-- The TLB entry is one for the agent's address (11 R156). -/
def TlbEnt.hits (t : TlbEnt) (ag : Agent) (va : Nat) : Bool :=
  decide (t.part = ag.part) && decide (t.asn = ag.asn) && decide (t.root = ag.root) &&
    decide (t.vpage = vpageOf t.large va)

/-- The page of a fault, as a report names it (19 R280). -/
def pageRef (ag : Agent) (large : Bool) (va : Nat) (acc : Access) : PageRef :=
  { part := ag.part, asn := ag.asn, page := if large then va / 2 ^ 21 * 2 ^ 21 else va / 2 ^ 16 * 2 ^ 16, large, acc }

/-- An atomic OR of a bit into a leaf at its home, for a partition and its address space (11 R154). -/
def State.orLeaf (s : State) (p asn pa k : Nat) : State :=
  (s.request pa 0 p true (some asn)).storeAt pa (bytesLE 8 (s.natAt pa 8 ||| 2 ^ k))

/-- The entry of the agent's page moved to the front of its TLB, walking and filling on a miss (11 R156, R158). -/
def State.tlbLookup (s : State) (ag : Agent) (va : Nat) : Walk × State :=
  let c := s.core ag.core
  match c.tlb.find? fun t => t.hits ag va with
  | some t =>
    (.leaf t.leaf.toNat t.leafPa t.large,
      s.setCore ag.core { c with tlb := t :: c.tlb.filter fun u => !u.hits ag va })
  | none =>
    let r := (s.countSlice ag.core 0x2C 1).walk ag.part ag.root va
    match r.1 with
    | .leaf e pa large =>
      let s := if bit e 8 then r.2 else r.2.orLeaf ag.part ag.asn pa 8
      let leaf := BitVec.ofNat 64 (e ||| 256)
      let t : TlbEnt :=
        { part := ag.part, asn := ag.asn, root := ag.root, vpage := vpageOf large va, large, leaf, leafPa := pa }
      let c := s.core ag.core
      (.leaf leaf.toNat pa large, s.setCore ag.core { c with tlb := (t :: c.tlb).take 512 })
    | w => (w, r.2)

/-- Steps 4 to 6 of R146 for an address of an agent. -/
def State.translate (s : State) (ag : Agent) (va : Nat) (acc : Access) : Trans × State :=
  let r := s.tlbLookup ag va
  match r.1 with
  | .leaf e _ _ =>
    let leaf := BitVec.ofNat 64 e
    let pa := leafPa leaf va
    if !permits leaf acc then (.fault 0x08, r.2)
    else if !rangeOk leaf ag.part pa then (.fault 0x08, r.2)
    else (.ok pa leaf, r.2)
  | .absent large => (.page (pageRef ag large va acc), r.2)
  | .fault code => (.fault code, r.2)

/-- `D` set in the leaf before the first write through a TLB entry whose `D` is clear (11 R154). -/
def State.setDirty (s : State) (ag : Agent) (va : Nat) : State :=
  let c := s.core ag.core
  match c.tlb.find? fun t => t.hits ag va with
  | some t =>
    if t.leaf.getLsbD 7 then s
    else
      let s := s.orLeaf ag.part ag.asn t.leafPa 7
      let c := s.core ag.core
      s.setCore ag.core
        { c with tlb := c.tlb.map fun u => if u = t then { u with leaf := u.leaf ||| 128 } else u }
  | none => s

/-- Reports of pages to Zhevvo, combined with those that wait (19 R280): each new one counts and makes a record. -/
def State.report (s : State) (core : Nat) : List PageRef → State
  | [] => s
  | r :: rs =>
    let p := s.part r.part
    if p.reports.any fun x => decide (x = r) then s.report core rs
    else
      let info := r.asn + 2 ^ 12 * (match r.acc with
        | .read => 0
        | .write => 1
        | .fetch => 2) + (if r.large then 2 ^ 14 else 0)
      let record : Record :=
        { cseq := 0, kind := 4, code := 0, flags := 0, tag := BitVec.ofNat 64 r.page, info1 := BitVec.ofNat 64 info,
          info2 := BitVec.ofNat 32 core, info3 := 0 }
      ((s.setPart r.part ({ p with reports := p.reports ++ [r] }.addRecord record)).countSlice core 0x2D 1
        ).report core rs

/-! ### Generators (15 R213, R214) -/

/-- The fields of a generator descriptor (15 R213). -/
structure GenFields where
  entry  : Nat
  sbase  : Nat
  param  : Nat
  vbase  : Nat
  gbase  : Nat
  nblk   : Nat
  stride : Nat
  asn    : Nat
  vregs  : Nat
  sregs  : Nat
  warps  : Nat
  width  : Nat
  valid  : Bool
  bsz    : Nat
  keep   : Bool
  floor  : Nat
  stash  : Nat
deriving DecidableEq, Repr

/-- A descriptor's fields. -/
def genFields (l : List Byte) : GenFields :=
  let ctl := fieldAt l 0x37 1
  { entry := fieldAt l 0 8, sbase := fieldAt l 8 8, param := fieldAt l 0x10 8, vbase := fieldAt l 0x18 8,
    gbase := fieldAt l 0x20 8, nblk := fieldAt l 0x28 4, stride := fieldAt l 0x2C 4, asn := fieldAt l 0x30 2,
    vregs := fieldAt l 0x32 2, sregs := fieldAt l 0x34 1, warps := fieldAt l 0x35 1, width := fieldAt l 0x36 1,
    valid := bit ctl 0, bsz := if bit ctl 1 then 65536 else 4096, keep := bit ctl 2, floor := bits ctl 4 3,
    stash := fieldAt l 0x38 4 }

/-- An address is canonical (11 R146). -/
def canonical (va : Nat) : Bool := decide (va < 2 ^ 56)

/-- A descriptor of a partition is valid and breaks no field of R213. -/
def genOk (p : Nat) (l : List Byte) : Bool :=
  let g := genFields l
  g.valid && canonical g.entry && decide (g.entry % 4 = 0) && canonical g.vbase && decide (g.vbase % g.bsz = 0) &&
    inGen g.gbase && decide (genPart g.gbase = p) && decide (g.gbase % g.bsz = 0) && decide (1 ≤ g.nblk) &&
    decide (g.nblk ≤ 2 ^ 24) && decide (g.stride ≤ 2 ^ 20) && decide (g.asn < 4096) && decide (1 ≤ g.vregs) &&
    decide (g.vregs ≤ 256) && decide (8 ≤ g.sregs) && decide (g.sregs ≤ 64) && decide (g.sregs % 8 = 0) &&
    decide (1 ≤ g.warps) && decide (g.width ≤ 2) && decide (g.warps * 2 ^ g.width ≤ 4) &&
    decide (bits (fieldAt l 0x37 1) 7 5 = 0) && decide (g.stash % 256 = 0) && decide (g.bsz + g.stash ≤ 65536) &&
    decide (fieldAt l 0x3C 4 = 0)

/-! ### Fill records (15 R216, R217, R221) -/

/-- How a request for a generated line ends. -/
inductive GenRes where
  /-- Served: the line's bytes, none for a poisoned one. -/
  | hit (data : Option (List Byte))
  /-- Parked on a record: block home, level, block. -/
  | wait (home level block : Nat)
  /-- A fault found when the answer returns (09 R107). -/
  | late (code : Nat)
deriving DecidableEq, Repr

/-- The record of a block at a level is raised to a class, and with it its running task and the records on which that task's
splits are parked (15 R221); of a block without a record, the accesses that wait for one. Fuel: the four levels. -/
def State.raise (s : State) : Nat → Nat → Nat → Nat → Nat → State
  | 0, _, _, _, _ => s
  | f + 1, home, level, block, cls =>
    let sl := s.slice home
    match sl.fills.find? fun r => decide (r.level = level ∧ r.block = block) with
    | none =>
      s.setSlice home
        { sl with fwaits := sl.fwaits.map fun w =>
            if w.level = level ∧ w.block = block then { w with cls := Nat.min w.cls cls } else w }
    | some r =>
      if r.cls ≤ cls then s
      else
        let s := s.setSlice home
          { sl with fills := sl.fills.map fun x => if x.level = level ∧ x.block = block then { x with cls } else x }
        match r.st with
        | .running uid =>
          let s := s.updCrew uid fun cr => { cr with cls, prio := cls }
          match s.crewOf uid with
          | none => s
          | some cr =>
            let refs := (cr.warps.map fun e => (e.2.splits.map fun sp =>
              match sp.st with
              | .parked (.fill l) => l
              | _ => []).flatten).flatten
            refs.foldl (fun s x => s.raise f x.1 x.2.1 x.2.2 cls) s
        | _ => s

/-- A descriptor of a partition covers a block of some size (15 R213, R214). -/
def genCovers (p block size : Nat) (l : List Byte) : Bool :=
  let g := genFields l
  genOk p l && decide (g.bsz = size) && decide (g.gbase ≤ block) && decide ((block - g.gbase) / g.bsz < g.nblk)

/-- The descriptor of a record created for an access: as it stands when the record is created; none where it is invalid or covers the
block no more, which is fault 0x07 of the access (15 R213, R214). -/
def State.descNow (s : State) (w : FillWait) : Option GenDesc :=
  (Store.look (s.part w.part).gens w.gen).filter fun d => genCovers w.part w.block w.size d.bytes

/-- A record created at a block home by descriptor `d`, in the class of its access or of its descriptor's floor (15 R217, R219, R221). -/
def State.createFill (s : State) (home : Nat) (w : FillWait) (d : GenDesc) : State :=
  let sl := s.slice home
  let fork := sl.fills.any fun r => decide (r.block = w.block ∧ r.level < w.level)
  let r : FillRec :=
    { level := w.level, block := w.block, size := w.size, gen := w.gen, desc := d, part := w.part,
      cls := Nat.min (genFields d.bytes).floor w.cls, chain := w.chain ++ [w.block], order := sl.order, st := .queued }
  let s := s.setSlice home { sl with fills := sl.fills ++ [r], order := sl.order + 1 }
  if fork then s.countSlice home 0x22 1 else s

/-- The record of lowest level at or above `n` for a block (15 R217). -/
def Slice.recordFor (sl : Slice) (block n : Nat) : Option FillRec :=
  (sl.fills.filter fun r => decide (r.block = block ∧ n ≤ r.level)).foldl
    (fun b r => match b with
      | none => some r
      | some x => if r.level < x.level then some r else some x) none

/-- A reference of a wait: block home, level, block. -/
abbrev FillRef := Nat × Nat × Nat

/-- References to a record renamed where their access joins another (15 R217). -/
def Wait.renameFill (old new : FillRef) (w : Wait) : Wait :=
  match w with
  | .fill l => .fill (l.map fun r => if r = old then new else r)
  | w => w

/-- `f` applied to every wait of a split's parking. -/
def Split.mapWait (f : Wait → Wait) (sp : Split) : Split :=
  match sp.st with
  | .parked w => { sp with st := .parked (f w) }
  | _ => sp

/-- `f` applied to the wait of an operation's status. -/
def OpSt.mapWait (f : Wait → Wait) (st : OpSt) : OpSt :=
  match st with
  | .waiting w => .waiting (f w)
  | .closing v b w => .closing v b (f w)
  | .ring err w => .ring err (w.map f)
  | st => st

/-- Every wait of the device changed: of splits, engine operations and raster batches. -/
def State.mapWaits (s : State) (f : Wait → Wait) : State :=
  let s := s.mapSplits fun sp => sp.mapWait f
  { s with
    cores := Store.mapV s.cores fun _ c =>
      { c with
        copyQ := Store.mapV c.copyQ fun _ q => q.map fun op => { op with st := op.st.mapWait f }
        hodQ := c.hodQ.map fun op => { op with st := op.st.mapWait f }
        matQ := c.matQ.map fun op => { op with st := op.st.mapWait f } }
    raster := Store.mapV s.raster fun _ u =>
      { u with batches := u.batches.map fun b => { b with st := b.st.mapWait f } } }

/-- Waiting accesses that a new record can serve join it (15 R217). -/
def State.joinWaits (s : State) (home level block : Nat) : State :=
  let sl := s.slice home
  let mine (w : FillWait) : Bool := decide (w.block = block ∧ w.level ≤ level)
  let joined := sl.fwaits.filter mine
  let s := s.setSlice home { sl with fwaits := sl.fwaits.filter fun w => !mine w }
  joined.foldl (fun s w =>
    let s := s.mapWaits fun x => x.renameFill (home, w.level, block) (home, level, block)
    (s.countSlice home 0x21 1).raise 4 home level block w.cls) s

/-- A request of an agent for a generated line through a leaf (15 R214-R217). -/
def State.genRequest (s : State) (ag : Agent) (leaf : BitVec 64) (pa cpol : Nat) : GenRes × State :=
  match s.wayOf pa with
  | some _ => (.hit (if s.poisoned pa then none else some (s.bytesAt (128 * lineOf pa) 128)), s.request pa cpol ag.part false none)
  | none =>
    let gen := bits leaf.toNat 59 48
    match Store.look (s.part ag.part).gens gen with
    | none => (.late 0x07, s)
    | some d =>
      let g := genFields d.bytes
      let block := pa - pa % g.bsz
      let home := homeOf block
      if !genCovers ag.part block g.bsz d.bytes then (.late 0x07, s)
      else
        match (s.slice home).fills.find? fun r => decide (r.block = block) && (match r.st with
            | .placing _ => true
            | _ => false) with
        | some r =>
          if ag.need ≥ 4 then (.late 0x0A, s)
          else (.wait home r.level block, (s.countSlice home 0x21 1).raise 4 home r.level block ag.cls)
        | none =>
          let probe := if g.keep then s.larderProbe pa else (false, s)
          let s := probe.2
          if probe.1 then
            let slot := s.larderRead pa
            let a := (slot.2.countSlice (homeOf pa) 0x24 1).allocate pa 0 ag.part false none (some g.keep)
            (.hit slot.1, if a.2 then (match slot.1 with
              | some bs => a.1.placeAt (128 * lineOf pa) bs
              | none => a.1.addPoison pa) else a.1)
          else if ag.need ≥ 4 then (.late 0x0A, s)
          else if ag.chain.any fun b => decide (b = block) then (.late 0x0B, s)
          else
            match (s.slice home).recordFor block ag.need with
            | some r => (.wait home r.level block, (s.countSlice home 0x21 1).raise 4 home r.level block ag.cls)
            | none =>
              let w : FillWait :=
                { level := ag.need, block, size := g.bsz, gen, desc := d, part := ag.part, cls := ag.cls,
                  chain := if ag.fill then ag.chain else [] }
              let sl := s.slice home
              if (sl.fills.filter fun r => decide (r.level = ag.need)).length < 16 ∧ !(s.part ag.part).geninv ∧
                  (sl.fwaits.filter fun x => decide (x.level = ag.need)).isEmpty then
                (.wait home ag.need block, (s.createFill home w d).joinWaits home ag.need block)
              else (.wait home ag.need block, s.setSlice home { sl with fwaits := sl.fwaits ++ [w] })

/-- The line that a waiter was served at an address, none inside for a poisoned one; nothing where it was served none (15 R219). -/
def servedFor (l : List Served) (pa : Nat) : Option (Option (List Byte)) :=
  (l.find? fun b => decide (b.block ≤ pa ∧ pa < b.block + b.size)).map fun b => (b.lines[(pa - b.block) / 128]?).getD none

/-- Some bytes of a line that may be poisoned: `n` of them from an address up. -/
def lineBytes (d : List Byte) (pa n : Nat) : List Byte := (d.drop (pa % 128)).take n

/-- A generated line that a core's instruction cache or, for a policy, its L1 holds: its bytes (11 R162, 07 R97). -/
def State.fetchCopy (s : State) (core : Nat) (leaf : BitVec 64) (pa : Nat) : Option (List Byte) :=
  (s.core core).iCopy pa <|> (s.core core).l1Copy leaf pa 0

/-- A generated line fetched: the caches of the core take it (07 R97, 11 R162). -/
def State.fetchKeep (s : State) (core : Nat) (leaf : BitVec 64) (pa : Nat) (d : List Byte) : State :=
  let c := s.core core
  s.setCore core ((if (c.iCopy pa).isSome then c else (c.l1Load leaf pa 0 d).2).iTouch pa d)

end Sys2Proof.Machine
end

