-- ==== Sys2Proof/Machine/Rack.lean ====
section
/-! DEFINITION. The key rack: entries, steps, grants, head owners and inherited classes (21 R288-R306). -/

namespace Sys2Proof.Machine

/-- The home slice of a key (21 R289). -/
def keyHome (key : Nat) : Nat :=
  let c := (List.range 12).foldl (fun a k => a ^^^ bits key (5 * k + 4) (5 * k)) 0 ^^^ bits key 63 60
  32 * (key % 3) + c

/-- Sequence arithmetic (21 R291). -/
def seqSub (a b : Nat) : Nat := (a + 2 ^ 32 - b % 2 ^ 32) % 2 ^ 32

/-- Off(q) (21 R291). -/
def RackEnt.off (e : RackEnt) (q : Nat) : Nat := seqSub q e.next

/-- Remaining (21 R291). -/
def RackEnt.remaining (e : RackEnt) : Nat := seqSub e.stop e.next

/-- A sequence is ticketed (21 R295). -/
def RackEnt.ticketed (e : RackEnt) (q : Nat) : Bool := decide (e.off q < e.off e.ticket)

/-- The head moved on by `k` sequences that are all skipped or left (21 R293 `Step`, repeated). -/
def RackEnt.stepBy (e : RackEnt) (k : Nat) : RackEnt :=
  let next := (e.next + k) % 2 ^ 32
  { e with
    next, skip := e.skip >>> k, stallcnt := 0, owner := .none
    ticket := if e.off e.ticket < k then next else e.ticket
    rlo := if e.rlo ≠ e.rhi ∧ seqSub e.rhi e.next ≤ k then e.rhi else e.rlo }

/-- The entry of a key of a job, with its number (21 R288). -/
def State.rackFind (s : State) (part job key : Nat) : Option (Nat × RackEnt) :=
  ((s.slice (keyHome key)).rack.find? fun e =>
    decide (e.2.key = key) && decide (e.2.part = part) && decide (e.2.job = job))

/-- An entry of a slice's rack. -/
def State.rackEnt (s : State) (sl e : Nat) : Option RackEnt := Store.look (s.slice sl).rack e

/-- `s` with a rack entry replaced. -/
def State.setRack (s : State) (sl e : Nat) (x : RackEnt) : State :=
  let t := s.slice sl
  s.setSlice sl { t with rack := Store.put t.rack e x }

/-- An entry freed; all its fields then read zero (21 R292). -/
def State.freeRack (s : State) (sl e : Nat) : State :=
  let t := s.slice sl
  let gone (p : Point) : Bool := match p, s.rackEnt sl e with
    | .sect a b, some x => decide (a = sl ∧ b = x.life)
    | .skip a b _, some x => decide (a = sl ∧ b = x.life)
    | _, _ => false
  let s := { s with ledger := { s.ledger with points := s.ledger.points.filter fun p => !gone p.1 } }
  s.setSlice sl { t with rack := Store.del t.rack e }

/-- The sequence for which a split waits at an entry. -/
def Split.waitsFor (sp : Split) (sl e : Nat) : Option Nat :=
  match sp.st with
  | .parked (.grant a b q _ _) => if a = sl ∧ b = e then some q else none
  | _ => none

/-- A warp waits for a sequence of an entry. -/
def Warp.waitsFor (w : Warp) (sl e q : Nat) : Bool := w.allSplits.any fun sp => decide (sp.waitsFor sl e = some q)

/-- Some warp waits for a sequence of an entry. -/
def State.awaited (s : State) (sl e q : Nat) : Bool :=
  s.allCrews.any fun cr => cr.warps.any fun x => x.2.waitsFor sl e q

/-- The warp that waits for a sequence is granted it: it holds the section, and its split runs (21 R293, R299). -/
def State.grantSeq (s : State) (sl e q key : Nat) : State :=
  s.mapCrews fun cr => cr.mapWarps fun w =>
    if w.waitsFor sl e q then
      { w.mapSplits (fun sp => if sp.waitsFor sl e = some q then { sp with st := .run, ans := [(0, 1)] } else sp) with
        secs := w.secs ++ [{ key, seq := q, slice := sl, entry := e }] }
    else w

/-- The loop of `Advance` (21 R293). Fuel bounds the marks and ranges an entry can hold. -/
def State.advanceLoop (s : State) : Nat → Nat → Nat → State
  | 0, _, _ => s
  | f + 1, sl, e =>
    match s.rackEnt sl e with
    | none => s
    | some x =>
      if x.remaining = 0 ∨ x.held then s
      else
        let range := seqSub x.next x.rlo < seqSub x.rhi x.rlo
        if x.skip.getLsbD 0 then
          State.advanceLoop ((s.setRack sl e (x.stepBy 1)).countSlice sl 0x30 1) f sl e
        else if range then
          let k := Nat.min (seqSub x.rhi x.next) x.remaining
          State.advanceLoop ((s.setRack sl e (x.stepBy k)).countSlice sl 0x30 k) f sl e
        else if s.awaited sl e x.next then
          ((s.setRack sl e { x with held := true, waiters := x.waiters - 1, stallcnt := 0 }).grantSeq sl e x.next x.key
            ).countSlice sl 0x2F 1
        else s

/-- A crew or one of its warps head-owns the entry (21 R303). -/
def Crew.owns (cr : Crew) (sl e : Nat) (x : RackEnt) : Bool :=
  if x.held then
    cr.warps.any fun w => w.2.secs.any fun h => decide (h.slice = sl ∧ h.entry = e ∧ h.seq = x.next)
  else decide (cr.part = x.part ∧ cr.job = x.job ∧ cr.fill = none) &&
    cr.tickets.any fun t => decide (t.key = x.key ∧ t.seq = x.next)

/-- The head owner of an entry that a crew is, at a core and slot: its warp that holds `NEXT`, or the crew by its ticket (21 R291, R303). -/
def Crew.ownerAt (cr : Crew) (sl e : Nat) (x : RackEnt) (core slot : Nat) : Option Owner :=
  if x.held then
    (cr.warps.find? fun w => w.2.secs.any fun h => decide (h.slice = sl ∧ h.entry = e ∧ h.seq = x.next)).map fun w =>
      .warp core slot w.1
  else if cr.owns sl e x then some (.ticket core slot) else none

/-- Every crew that is in a slot, with its core and slot, and every saved one with those that it was saved from. -/
def State.seats (s : State) : List (Nat × Nat × Crew) :=
  (s.cores.map fun c => c.2.crews.map fun k => (c.1, k.1, k.2)).flatten ++
    (((s.cores.map fun c => c.2.saved).flatten ++ (s.parts.map fun p => p.2.heldCrews).flatten).filterMap fun cr =>
      cr.seat.map fun t => (t.1, t.2, cr))

/-- The head owner of an entry (21 R303): the warp that holds `NEXT`, or the crew whose ticket it is, a saved crew by the slot that it was saved
from (notes/assumptions/35.md). -/
def State.ownerOf (s : State) (sl e : Nat) (x : RackEnt) : Owner :=
  (s.seats.findSome? fun t => t.2.2.ownerAt sl e x t.1 t.2.1).getD .none

/-- The lowest class of the crews of an entry's waiters, 3 where it has none (21 R303). -/
def State.waitersClass (s : State) (sl e : Nat) : Nat :=
  (s.allCrews.filter fun cr => cr.warps.any fun w => w.2.allSplits.any fun sp => (sp.waitsFor sl e).isSome).foldl
    (fun m cr => Nat.min m cr.cls) 3

/-- Every rack entry of the device with its slice and number. -/
def State.allRack (s : State) : List (Nat × Nat × RackEnt) :=
  (s.slices.map fun t => t.2.rack.map fun e => (t.1, e.1, e.2)).flatten

/-- One round of the classes: every entry takes the lowest class of its waiters, every crew the lowest of its own and of the
entries it head-owns (21 R303). -/
def State.reclassOnce (s : State) : State :=
  let s := s.allRack.foldl (fun s t => s.setRack t.1 t.2.1 { t.2.2 with cls := s.waitersClass t.1 t.2.1 }) s
  let all := s.allRack
  s.mapCrews fun cr =>
    { cr with cls := (all.filter fun t => cr.owns t.1 t.2.1 t.2.2).foldl (fun m t => Nat.min m t.2.2.cls) cr.prio }

/-- Classes recomputed at a change: from each crew's own class, through every chain of waiting (21 R303). -/
def State.reclassLoop : Nat → State → State
  | 0, s => s
  | f + 1, s => State.reclassLoop f s.reclassOnce

/-- Classes recomputed; a chain of waiting is no longer than the entries are many. -/
def State.reclass (s : State) : State :=
  let all := s.allRack
  if all.isEmpty then s.mapCrews fun cr => { cr with cls := cr.prio }
  else State.reclassLoop (all.length + 1) (s.mapCrews fun cr => { cr with cls := cr.prio })

/-- Owners and classes of every entry recomputed, after a crew has come to a slot or has been created with a ticket (21 R303). -/
def State.reown (s : State) : State :=
  (s.allRack.foldl (fun s t => s.setRack t.1 t.2.1 { t.2.2 with owner := s.ownerOf t.1 t.2.1 t.2.2 }) s).reclass

/-- `Advance` (21 R293): steps and a grant, the entry freed at its end, owner and class set. -/
def State.advance (s : State) (sl e : Nat) : State :=
  let s := s.advanceLoop 140 sl e
  match s.rackEnt sl e with
  | none => s
  | some x =>
    if x.remaining = 0 ∧ !x.held then (s.freeRack sl e).reclass
    else (s.setRack sl e { x with owner := s.ownerOf sl e x }).reclass

/-- The opening of the key that an entry holds. -/
def State.lifeOf (s : State) (sl e : Nat) : Nat := ((s.rackEnt sl e).map fun x => x.life).getD 0

/-- Threads release as they leave a section, to the grants that follow (11 R177, 21 R303). -/
def State.sendLeave (s : State) (ts : List Thr) (sl e : Nat) : State := { s with ledger := s.ledger.send ts (.sect sl (s.lifeOf sl e)) }

/-- Threads release as they skip a sequence, to the grants that follow it (11 R177, 21 R303). -/
def State.sendSkip (s : State) (ts : List Thr) (sl e q : Nat) : State := { s with ledger := s.ledger.send ts (.skip sl (s.lifeOf sl e) q) }

/-- Threads granted a sequence acquire the leaves of its key and the skips of the sequences before it (11 R177, 21 R303). -/
def State.meetGrant (s : State) (ts : List Thr) (sl : Nat) (x : RackEnt) (q : Nat) : State :=
  let skips := s.ledger.points.filterMap fun p => match p.1 with
    | .skip a b n => if a = sl ∧ b = x.life ∧ seqSub n x.first < seqSub q x.first then some p.1 else none
    | _ => none
  { s with ledger := skips.foldl (fun g p => g.meet ts p) (s.ledger.meet ts (.sect sl x.life)) }

/-- The leave of a held sequence at its home: `HELD` clears, the head steps, and `Advance` runs (21 R300). -/
def State.leaveAt (s : State) (sl e : Nat) : State :=
  match s.rackEnt sl e with
  | none => s
  | some x => if x.broken then s else (s.setRack sl e ({ x with held := false }.stepBy 1)).advance sl e

/-- The skip of a sequence at its home (21 R301), a ticket's at retirement included (R296). -/
def State.skipAt (s : State) (sl e q : Nat) (auto : Bool) : State :=
  match s.rackEnt sl e with
  | none => s
  | some x =>
    let x := { x with skip := x.skip ||| BitVec.ofNat 64 (2 ^ x.off q), askip := x.askip || auto }
    (s.setRack sl e x).advance sl e

/-- The ticketed sequence of an entry for which a split waits, its crew having given up the ticket (21 R299). -/
def Split.gaveUp (sp : Split) (sl e : Nat) : Option Nat :=
  match sp.st with
  | .parked (.grant a b q _ true) => if a = sl ∧ b = e then some q else none
  | _ => none

/-- A crew with the ticket of a sequence again: its wait has ended and it has not entered (21 R295, R303). -/
def Crew.regain (cr : Crew) (key sl : Nat) (qs : List Nat) : Crew :=
  { cr with tickets := cr.tickets ++ qs.map fun q => { key, seq := q, slice := sl } }

/-- Every waiter of an entry takes a fault; one that gave up a ticket holds it again (21 R295, R305, R306). -/
def State.faultWaiters (s : State) (sl e code : Nat) : State :=
  let key := ((s.rackEnt sl e).map fun x => x.key).getD 0
  s.mapCrews fun cr =>
    (cr.regain key sl ((cr.warps.map fun w => w.2.allSplits.filterMap fun sp => sp.gaveUp sl e).flatten)).mapWarps fun w =>
      w.mapSplits fun sp =>
        match sp.st with
        | .parked (.grant a b _ lane _) =>
          if a = sl ∧ b = e then { sp with st := .entryWait [{ lane, code }], ans := [] } else sp
        | _ => sp

/-- A key whose holder ended by a fault or by termination is broken (21 R306). -/
def State.breakKey (s : State) (sl e : Nat) : State :=
  match s.rackEnt sl e with
  | none => s
  | some x =>
    ((((s.setRack sl e { x with broken := true, held := false, waiters := 0, owner := .none }).faultWaiters sl e 0x0F).countSlice sl
      0x33 1)).reown

/-- A waiter of a crew that is killed while it waits is removed; a ticket that it gave up is its crew's again, for its retirement to skip (21
R296, R306). -/
def State.dropWaiters (s : State) (uid : Nat) (w : Warp) : State :=
  w.allSplits.foldl (fun s sp =>
    match sp.st with
    | .parked (.grant sl e _ _ _) =>
      match s.rackEnt sl e with
      | some x =>
        (s.setRack sl e { x with waiters := x.waiters - 1 }).updCrew uid fun cr => cr.regain x.key sl (sp.gaveUp sl e).toList
      | none => s
    | _ => s) s

end Sys2Proof.Machine
end

