-- ==== Sys2Proof/Machine/Warps.lean ====
section
/-! DEFINITION. Splits and meeting stacks (03 R37-R42), sealed registers and results (07 R92-R94), the taking of a fault and the
return from its handler (09 R105-R108, R141), and the end of a warp (03 R45, 21 R296, R306). -/

namespace Sys2Proof.Machine

/-! ### Splits -/

/-- The split that holds a lane. -/
def Warp.splitOf (w : Warp) (lane : Nat) : Option Split := w.splits.find? fun sp => sp.lanes.any fun l => decide (l = lane)

/-- The live lanes: those of some split, suspended ones too (03 R37). -/
def Warp.live (w : Warp) : List Nat := (w.allSplits.map fun sp => sp.lanes).flatten

/-- `l` without the lanes of `m`. -/
def lanesWithout (l m : List Nat) : List Nat := l.filter fun i => !m.any fun j => decide (j = i)

/-- The lanes of `l` that are in `m`. -/
def lanesIn (l m : List Nat) : List Nat := l.filter fun i => m.any fun j => decide (j = i)

/-- The split that holds a lane replaced by others. -/
def Warp.replaceSplit (w : Warp) (lane : Nat) (new : List Split) : Warp :=
  { w with splits := w.splits.filter (fun sp => !sp.lanes.any fun l => decide (l = lane)) ++ new.filter fun sp => !sp.lanes.isEmpty }

/-- Splits that wait for a register of another lane read again once registers have been unsealed (09 R118). -/
def Warp.wakeSeal (w : Warp) : Warp := w.mapSplits fun sp => if sp.st = .parked .seal then { sp with st := .run } else sp

/-- A split that waits for a register of another lane keeps the values returned in the registers that are unsealed, whatever is written there
before it reads them (09 R118). -/
def Split.cross (sp : Split) (gone : List Seal) (value : Nat → Nat → Word) : Split :=
  if sp.st = .parked .seal then
    let keep (m : Store Word) (x : Seal) : Store Word :=
      if x.kind = .v ∧ (Store.look m (laneKey x.num x.lane)).isNone then Store.put m (laneKey x.num x.lane) (value x.num x.lane) else m
    { sp with crossed := gone.foldl keep sp.crossed }
  else sp

/-- Lanes leave every split and meeting stack, and their seals are discarded (03 R45, 07 R94); a register whose seal is discarded keeps the result,
which a cross-lane read finds (DEDUCED, notes/assumptions/45.md). -/
def Warp.dropLanes (w : Warp) (ls : List Nat) : Warp :=
  let f (sp : Split) : Split := { sp with lanes := lanesWithout sp.lanes ls }
  { w.wakeSeal with
    splits := (w.wakeSeal.splits.map f).filter fun sp => !sp.lanes.isEmpty
    meets := w.meets.filter fun e => !ls.any fun l => decide (l = e.1)
    seals := w.seals.filter fun x => decide (x.kind = .s) || !ls.any fun l => decide (l = x.lane)
    save := w.save.map fun v => { v with meets := v.meets.filter fun e => !ls.any fun l => decide (l = e.1) } }

/-- A lane's meeting stack, top first (03 R38). -/
def Warp.stack (w : Warp) (lane : Nat) : List Addr := Store.get w.meets [] lane

/-- The top entries of two lanes are equal; two empty stacks have equal tops (03 R40). -/
def Warp.sameTop (w : Warp) (a b : Nat) : Bool := decide ((w.stack a).head? = (w.stack b).head?)

/-- A lane is at its top entry (03 R38). -/
def Warp.atTop (w : Warp) (pc : Addr) (lane : Nat) : Bool := decide ((w.stack lane).head? = some pc)

/-- The top entry popped from some lanes (03 R39). -/
def Warp.pop (w : Warp) (ls : List Nat) : Warp :=
  { w with meets := ls.foldl (fun m l => Store.set m [] l ((Store.get m [] l).drop 1)) w.meets }

/-- The split runs, at the beginning of an instruction. -/
def Split.ready (sp : Split) : Bool := decide (sp.st = .run ∧ sp.again = none)

/-- Nothing of a split is in the middle of an instruction or its fetch. -/
def Split.fresh (sp : Split) : Bool := sp.ready && decide (sp.ans = [] ∧ sp.served = [] ∧ sp.crossed = [])

/-- The current split, where it holds some of these lanes, is current no more, or goes on as the split of the lanes `rest` (03 R41). -/
def Warp.uncur (w : Warp) (lanes rest : List Nat) : Warp :=
  match w.cur.bind w.splitOf with
  | none => w
  | some sp =>
    if sp.lanes.any fun l => lanes.any fun m => decide (m = l) then
      match rest with
      | [] => { w with cur := none, run := 0 }
      | l :: _ => { w with cur := some l }
    else w

/-- The lanes of a split that stand at their top entry (03 R38). -/
def Warp.arrived (w : Warp) (sp : Split) : List Nat := if sp.fresh then sp.lanes.filter (w.atTop sp.pc) else []

/-- Runnable lanes that stand at their top entry become held (03 R38); a current split that does is current no more (R41). -/
def Warp.hold1 (w : Warp) : Warp :=
  let u := w.splits.foldl (fun u sp =>
    if (w.arrived sp).isEmpty then u else u.uncur sp.lanes (lanesWithout sp.lanes (w.arrived sp))) w
  { u with splits := (w.splits.map fun sp =>
      let h := w.arrived sp
      if h.isEmpty then [sp]
      else if h.length = sp.lanes.length then [{ sp with st := .held }]
      else [{ sp with lanes := lanesWithout sp.lanes h }, { sp with lanes := h, st := .held }]).flatten }

/-- Two splits that regang: the same program counter and status, no answer pending, equal top entries (03 R40). -/
def Warp.mergeable (w : Warp) (a b : Split) : Bool :=
  decide (a.pc = b.pc) && decide (a.st = b.st) && (decide (a.st = .run) || decide (a.st = .held)) &&
    decide (a.ans = []) && decide (b.ans = []) && decide (a.served = []) && decide (b.served = []) &&
    decide (a.again = none) && decide (b.again = none) && decide (a.crossed = []) && decide (b.crossed = []) &&
    (match a.lanes, b.lanes with
      | x :: _, y :: _ => a.lanes.all (w.sameTop x) && b.lanes.all (w.sameTop x) && w.sameTop x y
      | _, _ => false)

/-- A lane put in its place in an ascending list. -/
def insertLane (a : Nat) : List Nat → List Nat
  | [] => [a]
  | b :: r => if a < b then a :: b :: r else if a = b then b :: r else b :: insertLane a r

/-- Two lists of lanes as one ascending list. -/
def mergeLanes (a b : List Nat) : List Nat := a.foldl (fun l x => insertLane x l) b

/-- A split joined to the first one it regangs with. -/
def Warp.joinInto (w : Warp) (sp : Split) : List Split → List Split
  | [] => [sp]
  | x :: r => if w.mergeable x sp then { x with lanes := mergeLanes x.lanes sp.lanes } :: r else x :: Warp.joinInto w sp r

/-- Splits that stand together with equal top entries merge (03 R40). -/
def Warp.regang (w : Warp) : Warp := { w with splits := w.splits.foldl (fun l sp => w.joinInto sp l) [] }

/-- The meeting address at which every live lane whose stack contains it is held, if there is one (03 R39). -/
def Warp.releasable (w : Warp) : Option Addr :=
  (w.splits.find? fun sp => decide (sp.st = .held) &&
    (w.splits.all fun t =>
      t.lanes.all fun l => !(w.stack l).any (fun a => decide (a = sp.pc)) || (decide (t.st = .held) && decide (t.pc = sp.pc)))
    ).map fun sp => sp.pc

/-- The lanes held at an address pop their top entry and continue there as one split (03 R39). -/
def Warp.releaseAt (w : Warp) (pc : Addr) : Warp :=
  let ls := (w.splits.filter fun sp => decide (sp.st = .held ∧ sp.pc = pc)).foldl (fun a sp => mergeLanes a sp.lanes) []
  let w := w.pop ls
  { w with splits := w.splits.filter (fun sp => decide (¬(sp.st = .held ∧ sp.pc = pc))) ++ [{ lanes := ls, pc, st := .run }] }

/-- The held split of lowest program counter of a warp in a convergence cycle: a held split, and none that runs, is parked or waits
for a result (03 R42). -/
def Warp.cycle (w : Warp) : Option Split :=
  if w.splits.isEmpty ∨ w.splits.any (fun sp => decide (sp.st ≠ .held)) then none
  else w.splits.foldl (fun b sp => match b with
    | none => some sp
    | some x => if sp.pc.toNat < x.pc.toNat then some sp else some x) none

/-- `%conv` after a cycle is broken: `CYC` set, `NCYC` one more, saturating (03 R42). -/
def convBroken (c : Word) : Word :=
  let n := bits c.toNat 31 16
  BitVec.ofNat 32 (2 ^ 16 * (if n < 0xFFFF then n + 1 else n) + bits c.toNat 15 1 * 2 + 1)

/-- Holds, releases, merges and broken cycles until nothing moves (03 R38-R42). Under `STRICT` a cycle is fault 0x16 of every lane
of the split that would be released. Fuel bounds the entries of all meeting stacks. -/
def Warp.settle (strict : Bool) : Nat → Warp → Warp
  | 0, w => w
  | f + 1, w =>
    let w := w.hold1.regang
    match w.releasable with
    | some pc => Warp.settle strict f (w.releaseAt pc)
    | none =>
      match w.cycle with
      | none => w
      | some sp =>
        if strict then
          { w with splits := w.splits.map fun t =>
              if t = sp then { t with st := .entryWait (sp.lanes.map fun l => { lane := l, code := 0x16 }) } else t }
        else Warp.settle strict f ({ w with conv := convBroken w.conv }.releaseAt sp.pc)

/-- Enough fuel for every entry of every meeting stack. -/
def settleFuel : Nat := 1100

/-- The split selected to issue (03 R41): the current split while it runs and has issued fewer than 256 instructions in a row;
otherwise the runnable split of lowest program counter, after 256 starting above the current split's. A split in the middle of an
instruction is not selected. -/
def Warp.select (w : Warp) : Option Split :=
  let runs := w.splits.filter Split.ready
  let low (l : List Split) : Option Split := l.foldl (fun b sp => match b with
    | none => some sp
    | some x =>
      if sp.pc.toNat < x.pc.toNat ∨ (sp.pc = x.pc ∧ sp.lanes.headD 0 < x.lanes.headD 0) then some sp else some x) none
  match w.cur.bind w.splitOf with
  | some c =>
    if c.ready ∧ w.run < 256 then some c
    else if w.run ≥ 256 then
      match low (runs.filter fun sp => decide (c.pc.toNat < sp.pc.toNat)) with
      | some sp => some sp
      | none => low runs
    else low runs
  | none => low runs

/-! ### Seals and results (07 R92-R94) -/

/-- A register is sealed for a lane; a scalar for the warp. -/
def Warp.sealed (w : Warp) (k : RegKind) (n lane : Nat) : Bool :=
  w.seals.any fun x => decide (x.kind = k) && decide (x.num = n) && (decide (k = .s) || decide (x.lane = lane))

/-- A seal binds some lane of `ls`. -/
def Seal.binds (x : Seal) (ls : List Nat) : Bool := decide (x.kind = .s) || ls.any fun l => decide (l = x.lane)

/-- The operation has a fault found late in one of these lanes. -/
def Pend.lateIn (p : Pend) (ls : List Nat) : Bool := p.late.any fun f => ls.any fun l => decide (l = f.lane)

/-- The operations that a wait of these lanes waits for: those that sealed a register for them, and those with a fault found late
in them (07 R93, 09 R107). -/
def Warp.waitOps (w : Warp) (ls : List Nat) : List Nat :=
  (w.pends.filter fun p => w.seals.any (fun x => decide (x.op = p.id) && x.binds ls) ||
    p.lateIn ls).map fun p => p.id

/-- An operation has returned its results for some lanes: none does while its instruction is parked, and one that writes a scalar, which
is sealed for the warp, does for every lane at once (07 R92, R93). -/
def Pend.back (p : Pend) (ls : List Nat) : Bool :=
  !p.parked && (if p.regs.any fun r => decide (r.1 = .s) then p.lanes.isEmpty
    else !p.lanes.any fun l => ls.any fun m => decide (m = l))

/-- Every one of the operations has returned its results for these lanes. -/
def Warp.returned (w : Warp) (ops : List Nat) (ls : List Nat) : Bool :=
  w.pends.all fun p => !ops.any (fun i => decide (i = p.id)) || p.back ls

/-- An operation and its seals gone: its instruction has had its effect, or will have none. -/
def Warp.dropOp (w : Warp) (op : Nat) : Warp :=
  { w.wakeSeal with
    seals := w.seals.filter fun x => decide (x.op ≠ op)
    pends := w.pends.filter fun p => decide (p.id ≠ op) }

/-- The operation of an instruction that has not had its effect is gone with the instruction (09 R105). -/
def Warp.forget (w : Warp) (g : Option Again) : Warp := g.elim w fun g => w.dropOp g.op

/-- The late faults of the operations in these lanes: of the earliest operation that has any, with its program counter (09 R107). -/
def Warp.lateOf (w : Warp) (ops : List Nat) (ls : List Nat) : Option (Addr × List LaneFault) :=
  (w.pends.filterMap fun p =>
    let fs := p.late.filter fun f => ls.any fun l => decide (l = f.lane)
    if ops.any (fun i => decide (i = p.id)) && !fs.isEmpty then some (p.pc, fs) else none).head?

/-- The registers that the operations sealed are unsealed for these lanes, in every lane of its `Mask()` where a fault of the operation
was found late in one of them; operations with nothing left are done (07 R93, 09 R107). -/
def Warp.unseal (w : Warp) (ops : List Nat) (ls : List Nat) : Warp :=
  let dead := w.pends.filter fun p => p.lateIn ls
  let ends (x : Seal) : Bool := ops.any (fun i => decide (i = x.op)) && (x.binds ls || dead.any fun p => decide (p.id = x.op))
  let w := (w.mapSplits fun sp => sp.cross (w.seals.filter ends) w.vreg).wakeSeal
  let w := { w with seals := w.seals.filter fun x => !ends x }
  { w with pends := (w.pends.map fun p =>
      if ops.any (fun i => decide (i = p.id)) then
        { p with late := p.late.filter fun f => !ls.any fun l => decide (l = f.lane) } else p).filter fun p =>
      p.parked || !(p.lanes.isEmpty && p.late.isEmpty && !w.seals.any fun x => decide (x.op = p.id)) }

/-- Free words into the destinations of the operations whose fault was found late, in every lane of their `Mask()` (09 R107). -/
def Warp.freeDests (w : Warp) (n : Nat) (ops : List Nat) (ls : List Nat) : Warp :=
  (w.pends.filter fun p => ops.any (fun i => decide (i = p.id)) && p.lateIn ls).foldl
    (fun w p => p.regs.foldl (fun w r =>
      let word (lane : Nat) : Word := Config.freeWord n ((p.id * 256 + r.2) * 128 + lane)
      match r.1 with
      | .v => p.mask.foldl (fun w lane => w.setV r.2 lane (word lane)) w
      | .s => w.setS r.2 (word 0)
      | .m => p.mask.foldl (fun w lane => w.setPred r.2 lane ((word lane).getLsbD 0)) w) w) w

/-! ### Taking a fault (09 R105-R108) -/

/-- The word of `%fault` (07 R103). -/
def faultWord (fs : List LaneFault) : Word :=
  match fs with
  | [] => 0
  | f :: r => BitVec.ofNat 32
      (f.code % 32 + 2 ^ 8 * (f.lane % 128) + (if r.isEmpty then 0 else 2 ^ 15) + 2 ^ 16 * (f.detail % 256))

/-- The code replaced by 0x15, with no detail (09 R108). -/
def doubleWord (x : Word) : Word := BitVec.ofNat 32 (bits x.toNat 15 8 * 2 ^ 8 + 0x15)

/-- The address after a `trap` or `brk`, and the faulting instruction itself for every other code (09 R106). -/
def resumeOf (pc : Addr) (fs : List LaneFault) : Addr :=
  match fs with
  | f :: _ => if f.code = 0x18 ∨ f.code = 0x1B then pc + 12 else pc
  | [] => pc

/-- The registers of the handler entry in one lane (09 R106). -/
def entryRegs (w : Warp) (x : Word) (resume pc : Addr) (fs : List LaneFault) (lane : Nat) : Warp :=
  let bad := fs.find? fun f => decide (f.lane = lane)
  let va := (bad.map fun f => f.va).getD 0
  let w := w.setV 240 lane x
  let w := w.setV 241 lane (if bad.isSome then 1 else 0)
  let w := w.setVval 242 2 lane resume.toNat
  let w := w.setVval 244 2 lane pc.toNat
  let w := w.setVval 246 2 lane va
  (List.range 8).foldl (fun w k => w.setV (248 + k) lane 0) w

/-- A warp enters its handler at an address with the split that holds `lane` (09 R105, R106). -/
def Warp.enter (w : Warp) (handler : Addr) (lane : Nat) (pc resume : Addr) (fs : List LaneFault) : Warp :=
  match w.splitOf lane with
  | none => w
  | some sp =>
    let save : Save :=
      { v := w.v.filter fun e => decide (240 ≤ e.1 % 512), m := w.m, x := w.x, fpf := w.fpf, lanes := sp.lanes
        splits := w.splits.filter fun t => decide (t ≠ sp), meets := w.meets, issued := 0 }
    let w := { w with
      save := some save, meets := [], hold := [], cur := some lane, run := 0
      splits := [{ lanes := sp.lanes, pc := handler, st := .run }] }
    sp.lanes.foldl (fun w l => entryRegs w w.fault resume pc fs l) w

/-- The program's saved registers restored in the lanes that have not exited, its meeting stacks and suspended splits back, the hold
empty (09 R141). -/
def Warp.leaveHandler (w : Warp) (resumed : List Split) : Warp :=
  match w.save with
  | none => w
  | some v =>
    let live := (resumed.map fun sp => sp.lanes).flatten ++ (v.splits.map fun sp => sp.lanes).flatten
    let isLive (k : Nat) : Bool := live.any fun l => decide (l = k / 512)
    { w with
      v := v.v.foldr (fun e m => if isLive e.1 && decide (240 ≤ e.1 % 512) then Store.put m e.1 e.2 else m)
        (w.v.filter fun e => decide (e.1 % 512 < 240) || !isLive e.1)
      m := v.m.foldr (fun e m => if isLive e.1 then Store.put m e.1 e.2 else m) (w.m.filter fun e => !isLive e.1)
      x := v.x.foldr (fun e m => if isLive e.1 then Store.put m e.1 e.2 else m) (w.x.filter fun e => !isLive e.1)
      fpf := v.fpf, meets := v.meets, hold := [], save := none, splits := resumed ++ v.splits, cur := none, run := 0 }

/-! ### The end of a warp (03 R45, 09 R108, R123, 21 R296, R306) -/

/-- Block registers of a retired warp pass to the lowest-numbered warp that has not retired (09 R123). -/
def Crew.passOwner (cr : Crew) (wi : Nat) : Crew :=
  match (List.range cr.shape.warps).find? fun k => !(cr.warp k).retired with
  | none => cr
  | some k =>
    { cr with b := (List.range 64).foldl (fun b n =>
        let r : BReg := Store.get b {} n
        if r.owner = wi then Store.put b n { r with owner := k } else b) cr.b }

/-- A warp whose last lane has gone retires: what it keeps only while it runs is dropped, its block registers pass on, and its register
frame is freed (03 R45). -/
def State.retireWarp (s : State) (c k wi : Nat) : State :=
  match s.crew c k with
  | none => s
  | some cr =>
    let w := cr.warp wi
    let w := { w with
      splits := [], cur := none, meets := [], save := none, seals := [], pends := [], secs := [], retired := true }
    let s := s.setCrew c k ((cr.setWarp wi w).passOwner wi)
    (s.setCore c ((s.core c).rDrop cr.uid wi)).giveArea cr.part cr.uid wi

/-- The lanes of a warp of a crew as threads. -/
def Crew.lanesOf (cr : Crew) (wi : Nat) : List Thr := (List.range cr.shape.width).map fun l => .lane cr.uid wi l

/-- The sections of a warp that retires by `exit` are left as by `sleave`, a release of its lanes, whose write-back `exit` has done (21 R296,
R303). -/
def State.autoLeave (s : State) (ts : List Thr) (w : Warp) : State :=
  w.secs.foldl (fun s h => ((s.countSlice h.slice 0x31 1).sendLeave ts h.slice h.entry).leaveAt h.slice h.entry) s

/-- A warp ends by R108 or by termination: its keys break, its waits are dropped, every lane exits. The first status of the crew is
kept (19 R281, 21 R306). -/
def State.endWarp (s : State) (c k wi : Nat) (status : Option Word) : State :=
  match s.crew c k with
  | none => s
  | some cr =>
    let w := cr.warp wi
    let st := match cr.status, status with
      | none, some f => some { warp := wi, fault := f : CrewStatus }
      | x, _ => x
    let s := s.setCrew c k { cr with status := st }
    let s := s.dropWaiters cr.uid w
    let s := w.secs.foldl (fun s h => s.breakKey h.slice h.entry) s
    let s := { s with qwaits := s.qwaits.filter fun q => decide (¬(q.uid = cr.uid ∧ q.warp = wi)) }
    (s.retireWarp c k wi).reclass

/-- A fault delivered to the split of a warp that holds `lane`, found at `pc`, with the address at which the handler's `tret`
resumes (09 R105 steps 3 to 5, R106, R108). A handler entered while its crew waits to be saved defers the save (19 R270). -/
def State.deliver (s : State) (c k wi lane : Nat) (pc resume : Addr) (fs : List LaneFault) : State :=
  match s.crew c k with
  | none => s
  | some cr =>
    let w := cr.warp wi
    let x := faultWord fs
    if w.save.isSome then s.endWarp c k wi (some (doubleWord x))
    else if cr.shape.handler = 0 then (s.setWarp c k wi { w with fault := x }).endWarp c k wi (some x)
    else
      let s := if cr.saving && !cr.deferred then s.countCore c 0x07 1 else s
      s.setCrew c k { cr.setWarp wi ({ w with fault := x }.enter cr.shape.handler lane pc resume fs) with deferred := cr.deferred || cr.saving }

/-- The splits of a warp moved as far as they go (03 R38-R42). -/
def State.settleWarp (s : State) (c k wi : Nat) : State :=
  match s.crew c k with
  | none => s
  | some cr => s.setCrew c k (cr.setWarp wi ((cr.warp wi).settle cr.shape.strict settleFuel))

/-- A split whose wait at a stop or before a handler entry has ended goes on: the operation of an instruction that it was performing is
gone; its registers are unsealed; a fault found late is
delivered at the end of a stop, or in place of the fault found at issue; otherwise that fault is delivered (07 R93, 09 R105,
R107). -/
def State.endWait (s : State) (c k wi : Nat) (sp : Split) : State :=
  match s.crew c k with
  | none => s
  | some cr =>
    let w := (cr.warp wi).forget sp.again
    let lane := sp.lanes.headD 0
    let go (ops : List Nat) : Warp × Option (Addr × List LaneFault) × State :=
      let late := w.lateOf ops sp.lanes
      let w' := if late.isSome then w.freeDests s.freeCtr ops sp.lanes else w
      (w'.unseal ops sp.lanes, late, if late.isSome then { s with freeCtr := s.freeCtr + 1 } else s)
    match sp.st with
    | .stopWait ops =>
      if w.returned ops sp.lanes then
        let r := go ops
        let w := r.1.replaceSplit lane [{ sp with st := .run }]
        let s := r.2.2.setWarp c k wi w
        match r.2.1 with
        | some (pc, fs) => s.deliver c k wi lane pc sp.pc fs
        | none => s
      else s
    | .entryWait fs =>
      let ops := w.waitOps sp.lanes
      if w.returned ops sp.lanes then
        let r := go ops
        let w := r.1.replaceSplit lane [{ lanes := sp.lanes, pc := sp.pc, st := .run }]
        let s := r.2.2.setWarp c k wi w
        match r.2.1 with
        | some (pc, fs) => s.deliver c k wi lane pc sp.pc fs
        | none => s.deliver c k wi lane sp.pc (resumeOf sp.pc fs) fs
      else s
    | _ => s

/-- The splits of a warp whose waits have ended go on, in order, while the warp stays out of its handler; then the splits settle,
and a cycle's fault of `STRICT` is delivered likewise. -/
def State.wakeWarp (s : State) (c k wi : Nat) : State :=
  let once (s : State) : State :=
    match s.crew c k with
    | none => s
    | some cr =>
      ((cr.warp wi).splits).foldl (fun s sp =>
        match s.crew c k with
        | none => s
        | some cr => if (cr.warp wi).splits.any (fun t => decide (t = sp)) then s.endWait c k wi sp else s) s
  let s := (once s).settleWarp c k wi
  (once s).settleWarp c k wi

end Sys2Proof.Machine
end

