-- ==== Sys2Proof/Machine/Operands.lean ====
section
/-! DEFINITION. The instruction at issue: its lanes and mask, how every operand form is read and written (07 R75-R81, 05 R54), and
the hazard and range checks (07 R94, 03 R32). -/

namespace Sys2Proof.Machine

/-- An instruction at issue: the warp, the split that issues it, its effective mask, its form and address (00 R10, 07 R82). -/
structure Ctx where
  core  : Nat
  slot  : Nat
  wi    : Nat
  clk   : Nat
  cr    : Crew
  w     : Warp
  sp    : Split
  mask  : List Nat
  width : Nat
  form  : Form
  x     : Head
  imm   : BitVec 12
  pc    : Addr
  len   : Nat
  instr : Instr
deriving DecidableEq, Repr

/-- What an instruction that is performed again read when it issued (11 R153, R181). -/
def Ctx.again (c : Ctx) : Option Again := c.sp.again

/-- The scalar registers as the instruction reads them: as they were at its issue (11 R153, R181). -/
def Ctx.scalars (c : Ctx) : Warp :=
  match c.again with
  | some g => { c.w with s := g.s }
  | none => c.w

/-- The block registers as the instruction reads them. -/
def Ctx.blocks (c : Ctx) : Crew :=
  match c.again with
  | some g => { c.cr with b := g.b }
  | none => c.cr

/-- The lowest lane of the issuing split. -/
def Ctx.low (c : Ctx) : Nat := c.sp.lanes.headD 0

/-- The lowest lane of `Mask()`; of the split where the mask is empty. -/
def Ctx.lowMask (c : Ctx) : Nat := c.mask.headD c.low

/-- The address of the next instruction (07 R74). -/
def Ctx.next (c : Ctx) : Addr := c.pc + BitVec.ofNat 64 c.len

/-- The agent of the issuing crew. -/
def Ctx.agent (c : Ctx) : Agent := c.cr.agent c.core

/-- The warp is in its handler. -/
def Ctx.inHandler (c : Ctx) : Bool := c.w.save.isSome

/-- The lanes of a split in increasing order (03 R37). -/
def Split.lanesOf (sp : Split) (width : Nat) : List Nat :=
  (List.range (Nat.min width 128)).filter fun l => sp.lanes.any fun m => decide (m = l)

/-- The lanes of a split on which an instruction acts: those whose guard holds (07 R75, R78). -/
def guardMask (w : Warp) (x : Head) (lanes : List Nat) : List Nat :=
  lanes.filter fun l => if x.gn then !w.pred x.g.toNat l else w.pred x.g.toNat l

/-- Bits repeated in every element of a 32-bit value. -/
def splat (e width : Nat) : Nat :=
  match width with
  | 8 => e * 0x01010101
  | 16 => e * 0x00010001
  | _ => e

/-- A class-11 operand of `n` registers read as type `t`: the literal, or `IMM12` by the table of R81 (07 R81). -/
def immVal (t : Ty) (n : Nat) (lit : Option (BitVec 64)) (imm : BitVec 12) : Nat :=
  match lit with
  | some l => l.toNat % 2 ^ (32 * n)
  | none =>
    match t with
    | .s16x2 | .n16x2 => splat (BitVec.signExtend 16 imm).toNat 16
    | .s8x4 | .e4m3x4 | .e5m2x4 => splat (imm.toNat % 256) 8
    | .f32 => imm.toNat * 2 ^ 20
    | .f16x2 | .bf16x2 => splat (imm.toNat * 16) 16
    | _ => (BitVec.signExtend (32 * n) imm).toNat

/-- A source as read for a lane (09 R109): its own register, the scalar or block register, or the class-11 value. -/
def Ctx.src (c : Ctx) (u : Use) (s : Src) (lane : Nat) : Nat :=
  match s with
  | .v n => c.w.vval n.toNat u.n lane
  | .s n => c.scalars.sval n.toNat u.n
  | .b n => c.blocks.bval c.clk c.w.quarter n.toNat u.n
  | .imm => immVal u.ity u.n c.x.lit c.imm

/-- Source A for a lane. -/
def Ctx.a (c : Ctx) (lane : Nat) : Nat := c.src c.form.a c.x.a lane

/-- Source B for a lane. -/
def Ctx.b (c : Ctx) (lane : Nat) : Nat := c.src c.form.b c.x.b lane

/-- Source C for a lane. -/
def Ctx.c (c : Ctx) (lane : Nat) : Nat := c.src c.form.c c.x.c lane

/-- How many registers the destination has. -/
def DForm.regs : DForm → Nat
  | .reg n _ _ _ => n
  | _ => 0

/-- A value for each lane written to the destination: every lane of `Mask()`, or once for the warp, when `Mask()` has a lane, to a
scalar (07 R80, 09 R109); a predicate takes the value's low bit. Once for the warp stands for the lowest lane of `Mask()`, whose predicate
`sel` then reads, which R113 does not say (DESIGN CHOICE, notes/assumptions/42.md). -/
def Ctx.put (c : Ctx) (n : Nat) (f : Nat → Nat) (w : Warp) : Warp :=
  match c.x.d with
  | .v d => c.mask.foldl (fun w l => w.setVval d.toNat n l (f l)) w
  | .s d =>
    match c.mask with
    | [] => w
    | l :: _ => w.setSval d.toNat n (f l)
  | _ => w

/-- A predicate written in every lane of `Mask()`; 7 discards (07 R79). -/
def Ctx.putPred (c : Ctx) (k : Nat) (f : Nat → Bool) (w : Warp) : Warp :=
  c.mask.foldl (fun w l => w.setPred k l (f l)) w

/-- The predicate that `D`[2:0] names. -/
def Ctx.dPred (c : Ctx) : Nat :=
  match c.x.d with
  | .none d => d.toNat
  | _ => 7

/-! ### Hazards and ranges -/

/-- The number `base + k` of the first of `n` registers for which `p` holds. -/
def firstReg (p : Nat → Bool) (base n : Nat) : Option Nat := ((List.range n).map fun k => base + k).find? p

/-- A hazard of a source in a lane: the sealed register (07 R94). -/
def Ctx.srcSealed (c : Ctx) (u : Use) (s : Src) (lane : Nat) : Option Nat :=
  if u.n = 0 then none
  else
    match s with
    | .v n => firstReg (fun r => c.w.sealed .v r lane) n.toNat u.n
    | .s n => firstReg (fun r => c.w.sealed .s r lane) n.toNat u.n
    | _ => none

/-- A hazard of the destination in a lane. -/
def Ctx.dstSealed (c : Ctx) (lane : Nat) : Option Nat :=
  match c.form.d, c.x.d with
  | .reg n _ _ _, .v d => firstReg (fun r => c.w.sealed .v r lane) d.toNat n
  | .reg n _ _ _, .s d => firstReg (fun r => c.w.sealed .s r lane) d.toNat n
  | .pred, .none d => firstReg (fun r => c.w.sealed .m r lane) d.toNat 1
  | _, _ => none

/-- The lane registers n to n + k − 1 may be named: below `VREGS`, or v240 to v255 in the handler (03 R32, 09 R106). -/
def Ctx.vOk (c : Ctx) (n k : Nat) : Bool := decide (n + k ≤ c.cr.shape.vregs) || (c.inHandler && decide (240 ≤ n))

/-- The register that an index reaches from a base in a lane, and whether it is below the limit and a legal number (09 R121). -/
def Ctx.indexReg (c : Ctx) (k base lane : Nat) : Nat × Bool :=
  let x := (c.w.xreg k lane).toNat
  let n := base + x % 256
  (n, decide (x % 256 < x / 256) && decide (n < 256) && c.vOk n 1)

/-- The register that `vget` or `vput` reaches in a lane is sealed (09 R121, 07 R94). -/
def Ctx.indexSealed (c : Ctx) (lane : Nat) : Option Nat :=
  match c.form.index with
  | none => none
  | some (k, base) =>
    let r := c.indexReg k base lane
    if r.2 && c.w.sealed .v r.1 lane then some r.1 else none

/-- The first sealed register, in the order A, B, C, predicates read, the one reached by index, destination, predicates written, that
the instruction reads or names in a lane (07 R94). The order, which chooses the number in `DETAIL` (07 R103), is the model's (DESIGN CHOICE,
notes/assumptions/45.md). -/
def Ctx.hazard (c : Ctx) (lane : Nat) : Option Nat :=
  c.srcSealed c.form.a c.x.a lane <|> c.srcSealed c.form.b c.x.b lane <|> c.srcSealed c.form.c c.x.c lane <|>
    c.form.preds.find? (fun k => c.w.sealed .m k lane) <|> c.indexSealed lane <|> c.dstSealed lane <|>
    c.form.pds.find? fun k => c.w.sealed .m k lane

/-- The scalar registers may be named (03 R32). -/
def Ctx.sOk (c : Ctx) (n k : Nat) : Bool := decide (n + k ≤ c.cr.shape.sregs)

/-- A source out of range (03 R32). -/
def Ctx.srcRange (c : Ctx) (u : Use) (s : Src) : Option Nat :=
  if u.n = 0 then none
  else
    match s with
    | .v n => if c.vOk n.toNat u.n then none else some n.toNat
    | .s n => if c.sOk n.toNat u.n then none else some n.toNat
    | _ => none

/-- The destination out of range. -/
def Ctx.dstRange (c : Ctx) : Option Nat :=
  match c.form.d, c.x.d with
  | .reg n _ _ _, .v d => if c.vOk d.toNat n then none else some d.toNat
  | .reg n _ _ _, .s d => if c.sOk d.toNat n then none else some d.toNat
  | _, _ => none

/-- The first register out of range (03 R32); `DETAIL` is the register named, in the model's order (DESIGN CHOICE, notes/assumptions/45.md). -/
def Ctx.range (c : Ctx) : Option Nat :=
  c.srcRange c.form.a c.x.a <|> c.srcRange c.form.b c.x.b <|> c.srcRange c.form.c c.x.c <|> c.dstRange

/-- `nop`, which reads nothing, its guard included (07 R76, 09 R110). -/
def readsNothing (i : Instr) : Bool :=
  match expand i with
  | .nop _ _ => true
  | _ => false

/-- The guard of an instruction is sealed in a lane (07 R94), which comes before any other sealed register (notes/assumptions/45.md). -/
def Ctx.guardFault (c : Ctx) (l : Nat) : Option LaneFault :=
  if c.x.g ≠ 7 ∧ c.w.sealed .m c.x.g.toNat l ∧ readsNothing c.instr = false then
    some { lane := l, code := 0x04, detail := c.x.g.toNat }
  else none

/-- The operand check of a lane: 0x04, then 0x03 (07 R82). -/
def Ctx.operandFault (c : Ctx) (l : Nat) : Option LaneFault :=
  match c.hazard l with
  | some n => some { lane := l, code := 0x04, detail := n }
  | none => c.range.map fun n => { lane := l, code := 0x03, detail := n }

/-- The faults that every instruction may raise before its own, lane by lane: 0x04 of the guard in any lane of the split, then 0x04
and 0x03 in the lanes of `Mask()` (07 R82, R94); a memory instruction that acts once for the warp reports its operand check for the
lowest lane of `Mask()` (13 R183). An instruction that is performed again has passed them. -/
def Ctx.preFaults (c : Ctx) : List LaneFault :=
  if c.again.isSome then []
  else
    let once := if c.form.once then (c.mask.findSome? c.operandFault).map fun f => { f with lane := c.lowMask } else none
    c.sp.lanes.filterMap fun l =>
      match c.guardFault l with
      | some f => some f
      | none =>
        if c.form.once then once.filter fun f => decide (f.lane = l)
        else if c.mask.any fun m => decide (m = l) then c.operandFault l else none

/-- Two lists of lane faults as one in lane order; where both name a lane, the first list's fault stands. -/
def mergeFaults (pre own : List LaneFault) : List LaneFault :=
  let rest := own.filter fun f => !pre.any fun g => decide (g.lane = f.lane)
  (mergeLanes (pre.map fun f => f.lane) (rest.map fun f => f.lane)).filterMap fun l =>
    (pre ++ rest).find? fun f => decide (f.lane = l)

/-! ### Banks and the hold (07 R95, R96) -/

/-- The lane-register sources: base and count. -/
def Ctx.laneSources (c : Ctx) : List (Nat × Nat) :=
  let one (u : Use) (s : Src) : List (Nat × Nat) :=
    if u.n = 0 then []
    else
      match s with
      | .v n => [(n.toNat, u.n)]
      | _ => []
  one c.form.a c.x.a ++ one c.form.b c.x.b ++ one c.form.c c.x.c

/-- The register is in the hold. R96 does not say how the hold keeps a pair or quad: an entry holds every register of the source it was
entered for, and serves each of them (DESIGN CHOICE, notes/assumptions/16.md). -/
def Warp.held (w : Warp) (n : Nat) : Bool := w.hold.any fun e => decide (e.1 ≤ n ∧ n < e.1 + e.2.1)

/-- The lane registers that the sources of an instruction name, each once (07 R95). -/
def sourceRegs (src : List (Nat × Nat)) : List Nat :=
  ((src.map fun p => (List.range p.2).map fun k => p.1 + k).flatten).foldl
    (fun l r => if l.any fun q => decide (q = r) then l else l ++ [r]) []

/-- Extra read clocks of a pass: the most sources read from one bank, less one (07 R95). -/
def bankCost (w : Warp) (src : List (Nat × Nat)) : Nat :=
  let rs := ((sourceRegs src).filter fun r => !w.held r).map fun r => r % 4
  (List.range 4).foldl (fun m b => Nat.max m ((rs.filter fun r => decide (r = b)).length - 1)) 0

/-- A source all of whose registers are in the hold. -/
def Warp.heldSource (w : Warp) (p : Nat × Nat) : Bool := (List.range p.2).all fun k => w.held (p.1 + k)

/-- The hold after an instruction: entries serve one fewer, and a source named by `HOLD`, its first register and how many it has, enters
for the next two, renewing its entry or replacing the oldest of three (07 R96). -/
def Warp.nextHold (w : Warp) (h : Option (Nat × Nat)) : Warp :=
  let l := w.hold.filterMap fun e => if e.2.2 ≤ 1 then none else some (e.1, e.2.1, e.2.2 - 1)
  match h with
  | none => { w with hold := l }
  | some r =>
    let l := l.filter fun e => decide ((e.1, e.2.1) ≠ r)
    { w with hold := (if 3 ≤ l.length then l.drop 1 else l) ++ [(r.1, r.2, 2)] }

/-- The source that `HOLD` names: its first register and how many it has. R96 does not say what the hold keeps of a pair or quad: all of its
registers (DESIGN CHOICE, notes/assumptions/16.md). -/
def holdReg (f : Form) (x : Head) : Option (Nat × Nat) :=
  let one (u : Use) (s : Src) : Option (Nat × Nat) :=
    match s with
    | .v n => some (n.toNat, u.n)
    | _ => none
  match x.hold.toNat with
  | 1 => one f.a x.a
  | 2 => one f.b x.b
  | 3 => one f.c x.c
  | _ => none

end Sys2Proof.Machine
end

