-- ==== Sys2Proof/Machine/Ops.lean ====
section
/-! DEFINITION. The issue of one warp instruction: what every instruction shares before and after its own effect (07 R82, R92-R96,
09 R105, 03 R36-R41), the taking of a fault and the return from it through `Warps`. -/

namespace Sys2Proof.Machine

/-- Where the lanes of an instruction go. -/
inductive Ctl where
  /-- Every lane of the split to the next instruction. -/
  | next
  /-- The lanes listed to their targets, the rest of the split to the next instruction (09 R138). -/
  | goto (t : List (Nat × Addr))
  /-- The lanes of `Mask()` exit (03 R45). -/
  | exit
  /-- The handler lanes leave the handler for their resume addresses (09 R141). -/
  | tret (t : List (Nat × Addr))
  /-- To the next instruction, and the split's run ends (09 R142). -/
  | yield
deriving DecidableEq, Repr

/-- What an instruction's own meaning answers. -/
inductive Res where
  /-- Its effect is in `s`. `late` are faults found when its answers come (09 R107), `extra` registers it seals besides those its
  form names (09 R121). -/
  | done (s : State) (ctl : Ctl) (late : List LaneFault) (extra : List (RegKind × Nat × Nat))
  /-- Faults found at issue; `s` holds the partial effects that its description allows, and is the state at issue otherwise
  (00 R11). -/
  | fault (s : State) (fs : List LaneFault)
  /-- The split waits and performs the instruction again; what it has been answered so far is kept. -/
  | park (s : State) (wait : Wait) (ans : Store Nat)

/-- The warp as it stands in a state, at the instruction's place. -/
def Ctx.warpIn (c : Ctx) (s : State) : Warp :=
  match s.crew c.core c.slot with
  | some cr => cr.warp c.wi
  | none => c.w

/-- `s` with the instruction's warp replaced. -/
def Ctx.setWarp (c : Ctx) (s : State) (w : Warp) : State := s.setWarp c.core c.slot c.wi w

/-- The registers of a value that has a bit for each lane of a warp (07 R89, 09 R117). -/
def laneBitRegs (width : Nat) : Nat := if width = 128 then 4 else if width = 64 then 2 else 1

/-- The form at a warp width: a `ballot` result and `%act` have a bit for each lane (09 R117, 07 R89). -/
def widthForm (i : Instr) (width : Nat) (f : Form) : Form :=
  match i with
  | .ballot _ _ => { f with d := dVS (laneBitRegs width) }
  | .mfsr _ w => if w = 8 then { f with d := dVS (laneBitRegs width) } else f
  | _ => f

/-- The split as instruction `i` finds it: in the middle of `i`, or at the beginning of an instruction. -/
def Split.at (sp : Split) (i : Instr) : Split :=
  if sp.again.all fun g => decide (g.instr = i) then sp else { sp with again := none, got := [] }

/-- The instruction at issue by the warp picked (19 R274); nothing where no warp is picked or it is not there. -/
def State.ctx? (s : State) (i : Instr) : Option Ctx :=
  match s.picked with
  | none => none
  | some p =>
    match s.crew p.core p.slot with
    | none => none
    | some cr =>
      let w := cr.warp p.warp
      match w.splitOf p.lane, x96Head (expand i) with
      | some sp0, some x =>
        let sp := sp0.at i
        let f := widthForm i cr.shape.width ((form (expand i)).getD { layout := .s, long := false })
        some { core := p.core, slot := p.slot, wi := p.warp, clk := (s.core p.core).clk, cr, w, sp
               mask := guardMask w x (sp.lanesOf cr.shape.width), width := cr.shape.width, form := f, x, imm := imm12Of (expand i)
               pc := sp.pc, len := lenBytes i, instr := i }
      | _, _ => none

/-- The registers that the form's destinations name: kind and number (07 R92). -/
def Ctx.dstRegs (c : Ctx) : List (RegKind × Nat) :=
  (match c.form.d, c.x.d with
    | .reg n _ _ _, .v d => (List.range n).map fun k => (RegKind.v, d.toNat + k)
    | .reg n _ _ _, .s d => (List.range n).map fun k => (RegKind.s, d.toNat + k)
    | .pred, .none d => if d.toNat < 7 then [(RegKind.m, d.toNat)] else []
    | _, _ => []) ++ c.form.pds.map fun k => (RegKind.m, k)

/-- The number of the operation of the instruction: the one that it parked with, or a new one. -/
def Ctx.opId (c : Ctx) (w : Warp) : Nat :=
  match c.again with
  | some g => g.op
  | none => 1 + w.pends.foldl (fun m p => Nat.max m p.id) 0

/-- The seals of an operation on some registers, in every lane of `Mask()` for lane registers and predicates, once for a scalar (07
R92); `extra` names single lanes' registers besides. -/
def Ctx.sealsOf (c : Ctx) (op : Nat) (regs : List (RegKind × Nat)) (extra : List (RegKind × Nat × Nat)) : List Seal :=
  (regs.map fun r =>
    if r.1 = .s then [{ kind := .s, num := r.2, lane := 0, op : Seal }]
    else c.mask.map fun l => { kind := r.1, num := r.2, lane := l, op : Seal }).flatten ++
    extra.map fun e => { kind := e.1, num := e.2.1, lane := e.2.2, op : Seal }

/-- An operation in its place among the outstanding ones, in program order. -/
def Warp.putPend (w : Warp) (p : Pend) : Warp :=
  { w with pends :=
      if w.pends.any fun q => decide (q.id = p.id) then w.pends.map fun q => if q.id = p.id then p else q else w.pends ++ [p] }

/-- The registers that a long instruction seals: none where `Mask()` is empty or the instruction is short (07 R92). -/
def Ctx.sealRegs (c : Ctx) : List (RegKind × Nat) := if !c.form.long || c.mask.isEmpty then [] else c.dstRegs

/-- The seals and the outstanding operation of a long instruction that has had its effect (07 R92). An operation that seals nothing and
has no late fault leaves nothing behind. -/
def Ctx.sealDests (c : Ctx) (late : List LaneFault) (extra : List (RegKind × Nat × Nat)) (w : Warp) : Warp :=
  let op := c.opId w
  if !c.form.long || c.mask.isEmpty || (c.sealRegs.isEmpty && extra.isEmpty && late.isEmpty) then
    if c.again.isSome then w.dropOp op else w
  else
    let u := w.putPend { id := op, load := c.form.load, pc := c.pc, lanes := c.mask, mask := c.mask, late, regs := c.sealRegs }
    { u with seals := (w.seals.filter fun x => decide (x.op ≠ op)) ++ c.sealsOf op c.sealRegs extra }

/-- The operation of an instruction that parks: its destinations are sealed from its issue, and no result of it has returned (07 R92,
R93). -/
def Ctx.sealParked (c : Ctx) (w : Warp) : Warp :=
  if c.again.isSome then w
  else
    let op := c.opId w
    let u := w.putPend { id := op, load := c.form.load, parked := true, pc := c.pc, lanes := [], mask := c.mask, late := []
                         regs := c.sealRegs }
    { u with seals := w.seals ++ c.sealsOf op c.sealRegs [] }

/-- The lanes of `t` grouped by target, in order of first appearance (09 R138). -/
def groupTargets : List (Nat × Addr) → List (Addr × List Nat)
  | [] => []
  | (l, a) :: r =>
    let g := groupTargets r
    match g.find? fun e => decide (e.1 = a) with
    | some e => (a, l :: e.2) :: g.filter fun f => decide (f.1 ≠ a)
    | none => (a, [l]) :: g

/-- A branch that parts its split is divergent: `%mpred` counts it when the front end issues past it under a prediction (03 R43,
09 R138; notes/assumptions/5.md). -/
def Warp.countDivergent (w : Warp) (n : Nat) : Warp :=
  { w with
    mpred := if Config.predicted n then BitVec.ofNat 64 (w.mpred.toNat / 2 ^ 32 * 2 ^ 32 + (w.mpred.toNat + 1) % 2 ^ 32) else w.mpred
    unres := if Config.predicted n then w.unres + 1 else w.unres }

/-- The issuing split parted by its targets (09 R138); the rest of it goes on at the next instruction. -/
def Ctx.branch (c : Ctx) (t : List (Nat × Addr)) (n : Nat) (w : Warp) : Warp :=
  let rest := lanesWithout c.sp.lanes (t.map fun e => e.1)
  let new := (groupTargets t).map (fun g => { lanes := g.2, pc := g.1, st := .run : Split }) ++
    (if rest.isEmpty then [] else [{ lanes := rest, pc := c.next, st := .run : Split }])
  let u := if 1 < new.length then (w.uncur c.sp.lanes []).countDivergent n else w
  u.replaceSplit c.low new

/-- Every lane of the split on to the next instruction. -/
def Ctx.advance (c : Ctx) (w : Warp) : Warp := w.replaceSplit c.low [{ lanes := c.sp.lanes, pc := c.next, st := .run }]

/-- The lanes of `Mask()` exit (03 R45), and the split goes on without them (R41); the handler ends when its last lane has exited (09
R141). -/
def Ctx.exitLanes (c : Ctx) (w : Warp) : Warp :=
  let w := c.advance w
  let w := (w.uncur c.sp.lanes (lanesWithout c.sp.lanes c.mask)).dropLanes c.mask
  if w.save.isSome ∧ w.splits.isEmpty then w.leaveHandler [] else w

/-- Control transferred as the instruction says. -/
def Ctx.move (c : Ctx) (ctl : Ctl) (n : Nat) (w : Warp) : Warp :=
  match ctl with
  | .next => c.advance w
  | .goto t => c.branch t n w
  | .exit => c.exitLanes w
  | .tret t =>
    w.leaveHandler ((groupTargets t).map fun g => { lanes := g.2, pc := g.1, st := .run : Split })
  | .yield => { c.advance w with cur := some c.low, run := 256 }

/-- The operations whose registers the stop of an instruction marks for some lanes: those that had sealed one when it issued, its own among
them (07 R93). -/
def Ctx.stopOps (c : Ctx) (w : Warp) (ls : List Nat) : List Nat :=
  (w.waitOps ls).filter fun i => c.again.all fun g => decide (i = g.op) || g.marks.any fun k => decide (k = i)

/-- The stop of an instruction (07 R93): the lanes of its split wait for every register sealed for them at its issue, and the split is
current no more while one has not returned (03 R41); where every such result has returned already the registers are unsealed by the next
wake. -/
def Ctx.stop (c : Ctx) (w : Warp) : Warp :=
  if c.x.stop then
    let mine (sp : Split) : Bool := decide (sp.st = .run) && sp.lanes.any fun l => c.sp.lanes.any fun m => decide (m = l)
    let u := w.splits.foldl (fun u sp =>
      if mine sp && !w.returned (c.stopOps w sp.lanes) sp.lanes then u.uncur sp.lanes [] else u) w
    { u with splits := w.splits.map fun sp =>
        let ops := c.stopOps w sp.lanes
        if mine sp && !ops.isEmpty then { sp with st := .stopWait ops } else sp }
  else w

/-- The count of instructions that a split has issued in a row: it starts anew when the split is selected again, after 256 too, which R41
does not say (DEDUCED, notes/assumptions/41.md). -/
def Warp.nextRun (w : Warp) (sp : Split) : Nat :=
  match w.cur.bind w.splitOf with
  | some x => if x = sp ∧ w.run < 256 then w.run + 1 else 1
  | none => 1

/-- The split issues an instruction: it is current and its run one longer, the hold moves on, a handler's instruction counts, and the
warp is starved no more (03 R41, 07 R96, 19 R270, R274). -/
def Warp.issuing (w : Warp) (sp : Split) (h : Option (Nat × Nat)) : Warp :=
  { w.nextHold h with
    cur := some (sp.lanes.headD 0), run := w.nextRun sp, losses := 0, starved := false
    save := w.save.map fun v => { v with issued := v.issued + 1 } }

/-- The issue of the instruction counted, once: not again when it goes on after it parked. -/
def Ctx.account (c : Ctx) (w : Warp) : Warp := if c.again.isSome then w else w.issuing c.sp (holdReg c.form c.x)

/-- The lane registers that the instruction uses through the register cache, the written ones last: those it reads from no hold, and those
of its destination (03 R32, 07 R95, R96). -/
def Ctx.cached (c : Ctx) : List (Nat × Bool) :=
  ((sourceRegs c.laneSources).filter fun r => !c.w.held r).map (fun r => (r, false)) ++
    c.dstRegs.filterMap fun r => if r.1 = .v then some (r.2, true) else none

/-- The traffic of the register cache in every pass of the instruction. -/
def Ctx.useRegs (c : Ctx) (s : State) : State :=
  (List.range (c.width / 32)).foldl (fun s p => c.cached.foldl (fun s r =>
    if r.1 < c.cr.shape.vregs then s.rTouch c.core c.cr c.wi r.1 p r.2 else s) s) s

/-- The registers of the picked split's instruction brought into the register cache, as it goes to issue (03 R32, 07 R95). -/
def State.readRegs (s : State) (i : Instr) : State :=
  match s.ctx? i with
  | some c => c.useRegs s
  | none => s

/-- The issue charged to the pipe: passes back to back, each one clock plus its extra read clocks; `BANKX` and `HOLDHIT` count (03 R36,
07 R95, R96, 19 R274, R287). An instruction that goes on after it parked has issued already. -/
def Ctx.charge (c : Ctx) (s : State) : State :=
  if c.again.isSome then s
  else
    let src := c.laneSources
    let extra := bankCost c.w src
    let passes := c.width / 32
    let hits := (src.filter c.w.heldSource).length
    let core := s.core c.core
    let q : Quarter := Store.get core.quarters {} c.w.quarter
    let s := s.setCore c.core
      { core with quarters := Store.put core.quarters c.w.quarter { q with free := c.clk + passes * (1 + extra) } }
    (s.countCore c.core 0x0E (extra * passes)).countCore c.core 0x0F hits

/-- After an instruction: the warp retires when its last lane has gone, leaving its sections (03 R45, 21 R296); otherwise waits that
have ended go on and its splits settle (03 R38-R42). -/
def State.afterIssue (s : State) (c k wi : Nat) : State :=
  match s.crew c k with
  | none => s
  | some cr =>
    let w := cr.warp wi
    if w.retired then s
    else if w.allSplits.isEmpty then ((s.retireWarp c k wi).autoLeave (cr.lanesOf wi) w).reclass
    else s.wakeWarp c k wi

/-- The fault of an instruction: the split waits until every register sealed in its lanes has returned, then the fault is delivered
(09 R105). An operation of its own that sealed registers while it was parked is gone. -/
def Ctx.raise (c : Ctx) (s : State) (fs : List LaneFault) : State :=
  let w := (c.warpIn s).forget c.again
  (c.setWarp s (w.replaceSplit c.low [{ lanes := c.sp.lanes, pc := c.pc, st := .entryWait fs }])).afterIssue c.core c.slot c.wi

/-- What an instruction that has had its effect leaves to do (07 R92-R94, 03 R36-R41). -/
def Ctx.finish (c : Ctx) (s : State) (ctl : Ctl) (late : List LaneFault) (extra : List (RegKind × Nat × Nat)) : State :=
  let w := c.warpIn s
  let w := c.stop (c.move ctl s.freeCtr (c.account (c.sealDests late extra w)))
  let s := match ctl with
    | .goto _ => { s with freeCtr := s.freeCtr + 1 }
    | _ => s
  (c.setWarp s w).afterIssue c.core c.slot c.wi

/-- A wait that holds an instruction back before it issues: a full engine queue, or a cross-lane read of a sealed register (09 R118, 19
R273). -/
def Wait.holdsBack : Wait → Bool
  | .engine _ | .seal => true
  | _ => false

/-- What an instruction that parks has read, and what its stop marks: kept from its issue, so that its accesses are the same when it goes on
(07 R93, 11 R153, R181). -/
def Ctx.readings (c : Ctx) (op : Nat) (marks : List Nat) : Again :=
  c.again.getD { instr := c.instr, s := c.w.s, b := c.cr.frozen c.clk c.w.quarter, op, marks }

/-- The split parked at the instruction: one that holds back has not issued; otherwise the instruction has issued, its destinations are
sealed, and it goes on with what it read (07 R92, 11 R153). -/
def Ctx.parkAt (c : Ctx) (s : State) (wait : Wait) (ans : Store Nat) : State :=
  let w := c.warpIn s
  let w :=
    if wait.holdsBack then (w.uncur c.sp.lanes []).replaceSplit c.low [{ c.sp with st := .parked wait, ans }]
    else
      let got := (w.splitOf c.low).elim [] fun sp => sp.got
      let u := c.sealParked (c.account w)
      (u.uncur c.sp.lanes []).replaceSplit c.low
        [{ c.sp with st := .parked wait, ans, again := some (c.readings (c.opId w) (u.waitOps c.sp.lanes)), got }]
  (c.setWarp s w).afterIssue c.core c.slot c.wi

/-- The issue of an instruction with its own meaning `body`. An encoding that breaks R82, or a rule of it that depends on the state
(`bad`, and the alignment of a destination as wide as the warp), is fault 0x01 in the lowest lane of the split, whatever the mask. Faults
0x04 and 0x03 of a lane come before the instruction's own, and no lane has any effect when one faults (00 R11). -/
def issue (i : Instr) (s : State) (bad : Ctx → Bool) (body : Ctx → State → Res) : Host.Outcome State Fault Refusal :=
  match s.ctx? i with
  | none => .fault .noIssuer
  | some c =>
    let s := c.charge { s with picked := none }
    let w0 := c.account (c.warpIn s)
    if !encOk i || !dstOk c.form.d c.x.d || bad c then .next (c.raise (c.setWarp s w0) [{ lane := c.low, code := 0x01 }])
    else
      let pre := c.preFaults
      match body c s with
      | .fault s' fs =>
        if pre.isEmpty then .next (c.raise (c.setWarp s' (c.account (c.warpIn s'))) fs)
        else .next (c.raise (c.setWarp s w0) (mergeFaults pre fs))
      | .done s' ctl late extra =>
        if pre.isEmpty then .next (c.finish s' ctl late extra) else .next (c.raise (c.setWarp s w0) pre)
      | .park s' wait ans =>
        if pre.isEmpty then .next (c.parkAt s' wait ans) else .next (c.raise (c.setWarp s w0) pre)

/-- No state-dependent encoding rule. -/
def noBad (_ : Ctx) : Bool := false

/-- A meaning that changes registers of the warp only. -/
def regBody (f : Ctx → Warp → Warp) (c : Ctx) (s : State) : Res := .done (c.setWarp s (f c (c.warpIn s))) .next [] []

/-- The issue of an instruction that changes registers of the warp only. -/
def issueReg (i : Instr) (s : State) (f : Ctx → Warp → Warp) : Host.Outcome State Fault Refusal :=
  issue i s noBad (regBody f)

end Sys2Proof.Machine
end

