-- ==== Sys2Proof/Machine/Fetch.lean ====
section
/-! DEFINITION. Instruction fetch, its caches and its waits (07 R74, R97). -/

namespace Sys2Proof.Machine

/-! ### Fetch -/

/-- One fetched instruction word: its bytes, a fault, or a wait. -/
inductive Word4 where
  | bytes (l : List Byte) (s : State)
  | fault (code detail : Nat) (s : State)
  | park (w : Wait) (s : State)
deriving DecidableEq, Repr

/-- The instruction word at a virtual address, with the checks of R97 in their order; `lane` names the split in a page report. A word
of a generated block that was served on release is read from it (15 R219). -/
def State.fetchWord (s : State) (ag : Agent) (served : List Served) (lane va : Nat) : Word4 :=
  if !canonical va then .fault 0x1E 0 s
  else if va % 4 ≠ 0 then .fault 0x06 2 s
  else
    let r := s.translate ag va .fetch
    match r.1 with
    | .fault code => .fault code 0 r.2
    | .page ref => .park (.page [(lane, 0, ref)]) (r.2.report ag.core [ref])
    | .ok pa leaf =>
      if r.2.flips leaf pa then .park (r.2.flipWait (pa / 65536)).1 (r.2.flipWait (pa / 65536)).2
      else if inGen pa then
        let give (s : State) (d : Option (List Byte)) : Word4 := match d with
          | some d => .bytes (lineBytes d pa 4) (s.fetchKeep ag.core leaf pa d)
          | none => .fault 0x09 0 s
        match r.2.fetchCopy ag.core leaf pa, servedFor served pa with
        | some d, _ => give r.2 (some d)
        | none, some b => give (if (r.2.wayOf pa).isSome then r.2.request pa 0 ag.part false none else r.2) b
        | none, none =>
          let g := r.2.genRequest ag leaf pa 0
          match g.1 with
          | .hit d => give g.2 d
          | .late code => .fault code 0 g.2
          | .wait home level block => .park (.fill [(home, level, block)]) g.2
      else if r.2.poisoned pa then .fault 0x09 0 r.2
      else .bytes (r.2.bytesAt pa 4) r.2

/-- `n` further words of an instruction, from a virtual address up (07 R74). -/
def State.fetchWords (s : State) (ag : Agent) (served : List Served) (lane : Nat) : Nat → Nat → List Byte → Word4
  | 0, _, acc => .bytes acc s
  | n + 1, va, acc =>
    match s.fetchWord ag served lane va with
    | .bytes l s' => State.fetchWords s' ag served lane n ((va + 4) % 2 ^ 64) (acc ++ l)
    | w => w

/-- The number of words of an instruction by its first word: `LEN` (07 R74). -/
def lenWords (first : List Byte) : Nat :=
  match natOf first % 4 with
  | 0 => 1
  | 1 => 3
  | 2 => 3
  | _ => 5

/-- The lines of the words of an instruction looked up in the caches (07 R97); generated lines have been as they were read. -/
def State.fetchLines (s : State) (ag : Agent) : Nat → Nat → State
  | 0, _ => s
  | n + 1, va =>
    let r := s.translate ag va .fetch
    let s := match r.1 with
      | .ok pa leaf => if inGen pa then s else r.2.fetchLine ag.core ag.part leaf pa
      | _ => s
    State.fetchLines s ag n ((va + 4) % 2 ^ 64)

/-- The bytes of the instruction at an address. -/
def State.fetchBytes (s : State) (ag : Agent) (served : List Served) (lane va : Nat) : Word4 :=
  match s.fetchWord ag served lane va with
  | .bytes l s' =>
    match s'.fetchWords ag served lane (lenWords l - 1) ((va + 4) % 2 ^ 64) l with
    | .bytes l s' => .bytes l (s'.fetchLines ag (lenWords l) va)
    | w => w
  | w => w

/-- What a step of the picked warp does. -/
inductive Fetched where
  /-- The instruction issues in this state. -/
  | run (i : Instr) (s : State)
  /-- Nothing issues: a fault of the fetch or of the encoding was raised, or the split waits. -/
  | done (s : State)
deriving DecidableEq, Repr

/-- A fault found before the instruction is known: it is raised in the lowest lane of the split (07 R82, R97), where R97 names no lane (DEDUCED,
notes/assumptions/45.md). -/
def State.fetchFault (s : State) (p : Pick) (sp : Split) (code detail : Nat) : State :=
  match s.crew p.core p.slot with
  | none => { s with picked := none }
  | some cr =>
    let lane := sp.lanes.headD 0
    let w := ((cr.warp p.warp).issuing sp none).replaceSplit lane [{ lanes := sp.lanes, pc := sp.pc, st := .entryWait [{ lane, code, detail }] }]
    (({ s with picked := none }).setWarp p.core p.slot p.warp w).afterIssue p.core p.slot p.warp

/-- The split parked at its program counter for its instruction. -/
def State.fetchPark (s : State) (p : Pick) (sp : Split) (wait : Wait) : State :=
  match s.crew p.core p.slot with
  | none => { s with picked := none }
  | some cr =>
    let w := ((cr.warp p.warp).uncur sp.lanes []).replaceSplit (sp.lanes.headD 0) [{ sp with st := .parked wait }]
    (({ s with picked := none }).setWarp p.core p.slot p.warp w).afterIssue p.core p.slot p.warp

/-- The instruction of the split picked: its bytes fetched and decoded, and its registers read (07 R74, R82, R95, R97). A split in the middle
of an instruction goes on with it, and fetches nothing. A split that is not there or does not run issues nothing. -/
def State.fetch (s : State) (p : Pick) : Fetched :=
  match s.crew p.core p.slot with
  | none => .done { s with picked := none }
  | some cr =>
    match (cr.warp p.warp).splitOf p.lane with
    | none => .done { s with picked := none }
    | some sp =>
      if sp.st ≠ .run then .done { s with picked := none }
      else
        match sp.again with
        | some g => .run g.instr s
        | none =>
          match s.fetchBytes (cr.agent p.core) sp.served (sp.lanes.headD 0) sp.pc.toNat with
          | .fault code detail s' => .done (s'.fetchFault p sp code detail)
          | .park wait s' => .done (s'.fetchPark p sp wait)
          | .bytes l s' =>
            match decode l with
            | .ok (i, _) => .run i (s'.readRegs i)
            | .error _ => .done (s'.fetchFault p sp 0x01 0)

/-! ### Issue arbitration (19 R273-R275) -/

/-- The warp has a split to issue and nothing holds it (19 R273); while its crew is being saved only handler instructions issue, up to
4,096 of them (19 R269, R270). -/
def Crew.issuable (cr : Crew) (wi : Nat) : Option Split :=
  let w := cr.warp wi
  if w.retired || decide (w.unres ≠ 0) then none
  else if cr.saving then
    match w.save with
    | some v => if v.issued < 4096 then w.select else none
    | none => none
  else w.select

/-- The extra read clocks of the next instruction of a split (07 R95, key 4 of 19 R274), 0 where it is not known. -/
def State.nextCost (s : State) (core : Nat) (cr : Crew) (wi : Nat) (sp : Split) : Nat :=
  match s.fetchBytes (cr.agent core) sp.served (sp.lanes.headD 0) sp.pc.toNat with
  | .bytes l _ =>
    match decode l with
    | .ok (i, _) =>
      match form (expand i), x96Head (expand i) with
      | some f, some x =>
        let w := cr.warp wi
        let c : Ctx := { core, slot := 0, wi, clk := 0, cr, w, sp, mask := [], width := cr.shape.width, form := f, x
                         imm := 0, pc := sp.pc, len := 0, instr := i }
        bankCost w c.laneSources
      | _, _ => 0
    | .error _ => 0
  | _ => 0

/-- What arbitration compares of a warp: not starved, its class, whether its instruction costs read clocks, its age and place. -/
structure Contender where
  slot : Nat
  warp : Nat
  sp   : Split
  starved : Bool
  cls  : Nat
  cost : Nat
  age  : Nat
deriving DecidableEq, Repr

/-- `a` is older than `b`: bound earlier, then the lower slot, then the lower warp (19 R273). -/
def Contender.older (a b : Contender) : Bool :=
  decide (a.age < b.age) || (decide (a.age = b.age) && (decide (a.slot < b.slot) ||
    (decide (a.slot = b.slot) && decide (a.warp < b.warp))))

/-- `a` is picked before `b` (19 R274). -/
def Contender.before (a b : Contender) : Bool :=
  if a.starved ≠ b.starved then a.starved
  else if a.starved then a.older b
  else if a.cls ≠ b.cls then decide (a.cls < b.cls)
  else if (a.cost = 0) ≠ (b.cost = 0) then decide (a.cost = 0)
  else a.older b

/-- The first of a list by an order. -/
def firstBy {α : Type} (lt : α → α → Bool) : List α → Option α
  | [] => none
  | a :: r => match firstBy lt r with
    | none => some a
    | some b => if lt b a then some b else some a

/-- An element put in its place in a list ordered by `lt`. -/
def insertBy {α : Type} (lt : α → α → Bool) (a : α) : List α → List α
  | [] => [a]
  | b :: r => if lt a b then a :: b :: r else b :: insertBy lt a r

/-- A list put in order by `lt`. -/
def sortBy {α : Type} (lt : α → α → Bool) (l : List α) : List α := l.foldl (fun r a => insertBy lt a r) []

/-- A warp of a quarter after an arbitration that picked another: one more loss, starved after four in a row (19 R274). -/
def Warp.lose (w : Warp) : Warp := { w with losses := w.losses + 1, starved := w.starved || decide (4 ≤ w.losses + 1) }

/-- The warps that can issue are kept in the window and in its queue, and those that have become issuable join the queue, the older of one
clock first (19 R273). -/
def Quarter.join (qu : Quarter) (cs : List Contender) : Quarter :=
  let is (e : Nat × Nat) (c : Contender) : Bool := decide (c.slot = e.1 ∧ c.warp = e.2)
  let keep (l : List (Nat × Nat)) := l.filter fun e => cs.any (is e)
  let fresh := cs.filter fun c => !(keep qu.window ++ keep qu.queue).any fun e => is e c
  { qu with window := keep qu.window, queue := keep qu.queue ++ (sortBy Contender.older fresh).map fun c => (c.slot, c.warp) }

/-- The window and its queue brought up to date before an arbitration: free entries are filled from the head of the queue (19 R273). -/
def Quarter.refill (qu : Quarter) (cs : List Contender) : Quarter :=
  let qu := qu.join cs
  { qu with window := qu.window ++ qu.queue.take (4 - qu.window.length), queue := qu.queue.drop (4 - qu.window.length) }

/-- What a split of a parked crew waits on (03 R50), a free place in a copy queue among them (13 R184). -/
def Wait.parks : Wait → Bool
  | .bell _ _ | .watch _ | .queue _ | .page _ | .fill _ => true
  | .engine q => decide (q < 4)
  | _ => false

/-- The split waits on one of those. -/
def Split.parks (sp : Split) : Bool :=
  match sp.st with
  | .parked w => w.parks
  | _ => false

/-- A crew is parked: no warp has a runnable split, and some split waits (03 R50). -/
def Crew.isParked (cr : Crew) : Bool :=
  (cr.warps.all fun w => w.2.splits.all fun sp => decide (sp.st ≠ .run)) && cr.warps.any fun w => w.2.splits.any Split.parks

/-- The resident crews of a core, each with the clock at which it was parked (03 R50). -/
def Core.markParked (c : Core) : Core :=
  let mark (cr : Crew) : Crew :=
    if cr.isParked then { cr with parked := some (cr.parked.getD c.clk) } else { cr with parked := none }
  { c with crews := Store.mapV c.crews fun _ cr => mark cr }

end Sys2Proof.Machine
end

