-- ==== Sys2Proof/Machine/Flow.lean ====
section
/-! DEFINITION. The return of results (07 R93, 09 R107), wave splits (03 R44) and the repair of mask predictions (03 R43). -/

namespace Sys2Proof.Machine

/-! ### MASK_PREDICTION_REPAIR (03 R43) -/

/-- A predicted branch of a warp resolves; a wrong prediction is repaired and counted (03 R43; notes/assumptions/5.md). -/
def Warp.resolve (w : Warp) (n : Nat) : Warp :=
  { w with
    unres := w.unres - 1
    mpred := if Config.mispredicted n then BitVec.ofNat 64 (w.mpred.toNat + 2 ^ 32) else w.mpred }

/-- The oldest unresolved prediction of a warp resolves. -/
def State.repair (s : State) (core slot wi : Nat) : State :=
  match s.crew core slot with
  | none => s
  | some cr =>
    let w := cr.warp wi
    if w.unres = 0 then s
    else { s.setCrew core slot (cr.setWarp wi (w.resolve s.freeCtr)) with freeCtr := s.freeCtr + 1 }

/-- MASK_PREDICTION_REPAIR (03 R43). -/
def execMaskPredictionRepair (core slot warp : Nat) (s : State) : Host.Outcome State Fault Refusal :=
  .next (s.whenReady (s.repair core slot warp))

/-! ### RESULT_RETURN (07 R93, 03 R44) -/

/-- The result of an operation has returned for some lanes. -/
def Warp.giveResult (w : Warp) (op : Nat) (ls : List Nat) : Warp :=
  { w with pends := w.pends.map fun p => if p.id = op then { p with lanes := lanesWithout p.lanes ls } else p }

/-- A split that waits at a stop for a load parted into the lanes whose data have returned and the rest (03 R44); nothing where it is
not so. -/
def Split.wave (op : Nat) (ls : List Nat) (sp : Split) : Option (List Split) :=
  match sp.st with
  | .stopWait ops =>
    let hit := lanesIn sp.lanes ls
    let rest := lanesWithout sp.lanes ls
    if ops.any (fun i => decide (i = op)) && !hit.isEmpty && !rest.isEmpty then
      some [{ sp with lanes := hit }, { sp with lanes := rest }]
    else none
  | _ => none

/-- An operation of a load may part its split: its destinations are lane registers (notes/assumptions/6.md). -/
def Pend.parts (p : Pend) : Bool := p.load && p.regs.all fun r => decide (r.1 = .v)

/-- Splits whose long operations have all returned perform their instruction again (13 R194, 15 R223). -/
def Warp.wakeResults (w : Warp) : Warp :=
  let owes (ls : List Nat) : Bool := w.pends.any fun p => p.lanes.any fun l => ls.any fun m => decide (m = l)
  w.mapSplits fun sp => if sp.st = .parked .results ∧ owes sp.lanes = false then { sp with st := .run } else sp

/-- A result returns: to the lanes given of one operation, with a wave split of the split that waits for it when `part` is set; waits
that have ended go on (07 R93, 09 R105, R107). -/
def State.giveResult (s : State) (core slot wi op : Nat) (ls : List Nat) (part : Bool) : State :=
  match s.crew core slot with
  | none => s
  | some cr =>
    let w := cr.warp wi
    let may := part && w.pends.any fun p => decide (p.id = op) && p.parts
    let w' := (w.giveResult op ls).wakeResults
    let cut := w'.splits.filterMap fun sp => if may then sp.wave op ls else none
    let splits := if may then (w'.splits.map fun sp => (sp.wave op ls).getD [sp]).flatten else w'.splits
    let s := s.setCrew core slot (cr.setWarp wi { w' with splits })
    let s := if cut.isEmpty then s else s.countCore core 0x00 cut.length
    if w.retired then s else s.wakeWarp core slot wi

/-- The split that is to go on with an instruction whose operation is `op`: what it waited for has come (11 R153, 15 R219). -/
def Warp.resuming (w : Warp) (op : Nat) : Option Split :=
  w.splits.find? fun sp => decide (sp.st = .run) && sp.again.any fun g => decide (g.op = op)

/-- An instruction that has issued, and waits for nothing more, performed again: it needs no arbitration (19 R273). -/
def State.goOn (s : State) (core slot wi op : Nat) : State :=
  match s.picked, (s.crew core slot).bind fun cr => (cr.warp wi).resuming op with
  | none, some sp => { s with picked := some { core, slot, warp := wi, lane := sp.lanes.headD 0 } }
  | _, _ => s

/-- RESULT_RETURN (07 R93). The answer of an access that its instruction waited for makes it go on (11 R153, 15 R219). -/
def execResultReturn (core slot warp op : Nat) (lanes : List Nat) (part : Bool) (s : State) : Host.Outcome State Fault Refusal :=
  .next (s.whenReady ((s.giveResult core slot warp op lanes part).goOn core slot warp op))

end Sys2Proof.Machine
end

