-- ==== Sys2Proof/Machine/Reach.lean ====
section
/-! DEFINITION. One access of an agent from its checks to its bytes: the global space (11 R146, R147, R157-R164, 23 R319), the crew's
stash and its windows (11 R144, R165), and frames (11 R144). -/

namespace Sys2Proof.Machine

/-! ### Checks of a global access -/

/-- How the checks of one global access end (11 R146). -/
inductive Chk where
  | ok (pa : Nat) (leaf : BitVec 64)
  | page (r : PageRef)
  /-- The page of HBM is changing its bias (23 R319). -/
  | flip (page : Nat)
  | fault (code detail : Nat)
deriving DecidableEq, Repr

/-- Pages an instruction pass has looked up: first address, size, result (11 R157). -/
abbrev Known := List (Nat × Nat × Trans)

/-- The size of the page that a translation found. -/
def Trans.span : Trans → Nat
  | .ok _ leaf => if leaf.getLsbD 9 then 2 ^ 21 else 2 ^ 16
  | .page r => if r.large then 2 ^ 21 else 2 ^ 16
  | .fault _ => 2 ^ 16

/-- A translation of another address of the same page. -/
def Trans.move (va : Nat) : Trans → Trans
  | .ok _ leaf => .ok (leafPa leaf va) leaf
  | t => t

/-- A translation that looks each page of a pass up once (11 R157). -/
def State.lookup (s : State) (ag : Agent) (known : Known) (va : Nat) (acc : Access) : Trans × Known × State :=
  match known.find? fun k => decide (k.1 ≤ va) && decide (va < k.1 + k.2.1) with
  | some k => (k.2.2.move va, known, s)
  | none =>
    let r := s.translate ag va acc
    (r.1, (va / r.1.span * r.1.span, r.1.span, r.1) :: known, r.2)

/-- The base-2 logarithm of an access size. -/
def log2Size (n : Nat) : Nat := Nat.log2 n

/-- A translated access to a page whose bias is changing waits (23 R319). -/
def State.flipChk (s : State) (pa : Nat) (leaf : BitVec 64) : Chk :=
  if s.flips leaf pa then .flip (pa / 65536) else .ok pa leaf

/-- Steps 4 to 6 of R146 with the lookups of a pass. -/
def State.chkPage (s : State) (ag : Agent) (known : Known) (va : Nat) (acc : Access) : Chk × Known × State :=
  let r := s.lookup ag known va acc
  (match r.1 with
    | .ok pa leaf => r.2.2.flipChk pa leaf
    | .page ref => .page ref
    | .fault code => .fault code 0, r.2)

/-- Steps 1, 2 and 4 to 6 of R146 for a global access of `size` bytes. -/
def State.chkGlobal (s : State) (ag : Agent) (va size : Nat) (acc : Access) : Chk × State :=
  if !canonical va then (.fault 0x1E 0, s)
  else if va % size ≠ 0 then (.fault 0x06 (log2Size size), s)
  else
    let r := s.chkPage ag [] va acc
    (r.1, r.2.2)

/-! ### Line requests and bytes -/

/-- A line given to the L1 as a load under a policy leaves it, with the bytes of a generated one (11 R162). -/
def State.l1Give (s : State) (core : Nat) (leaf : BitVec 64) (pa cpol : Nat) (l1 : Bool) (data : List Byte) : State :=
  if l1 then s.setCore core ((s.core core).l1Load leaf pa cpol data).2 else s

/-- One request for a line that is not generated, by a load through the L1 (`l1`) or by an engine or window that has none: the L1, then the
home (11 R157, R161-R164). -/
def State.lineLoad (s : State) (ag : Agent) (leaf : BitVec 64) (pa cpol : Nat) (l1 : Bool) : State :=
  let cp := (effCpol leaf cpol).1
  let asks := !l1 || ((s.core ag.core).l1Load leaf pa cp []).1
  let s := s.l1Give ag.core leaf pa cp l1 []
  if asks then s.request pa (llcCpol leaf cp) ag.part false none else s

/-- What reading some bytes of a line gives. -/
inductive Rd where
  | bytes (l : List Byte)
  | poison
  | late (code : Nat)
  | wait (home level block : Nat)
deriving DecidableEq, Repr

/-- What is read of a line that may be poisoned. -/
def rdOf (d : Option (List Byte)) (pa n : Nat) : Rd :=
  match d with
  | some d => .bytes (lineBytes d pa n)
  | none => .poison

/-- `n` bytes of a line of generated space read (15 R215): from a copy that the L1 serves, of a block served on release, or at its home,
where every access updates the line (11 R161). -/
def State.readGen (s : State) (ag : Agent) (served : List Served) (leaf : BitVec 64) (pa n cpol : Nat) (l1 : Bool) : Rd × State :=
  let cp := (effCpol leaf cpol).1
  let take (s : State) (d : Option (List Byte)) : Rd × State :=
    (rdOf d pa n, match d with
      | some d => s.l1Give ag.core leaf pa cp l1 d
      | none => s)
  match if l1 then (s.core ag.core).l1Copy leaf pa cp else none, servedFor served pa with
  | some d, _ => take s (some d)
  | none, some d => take (if (s.wayOf pa).isSome then s.request pa (llcCpol leaf cp) ag.part false none else s) d
  | none, none =>
    let g := s.genRequest ag leaf pa (llcCpol leaf cp)
    match g.1 with
    | .hit d => take g.2 d
    | .late code => (.late code, g.2)
    | .wait h l b => (.wait h l b, g.2)

/-- `n` bytes of one line read. -/
def State.readLine (s : State) (ag : Agent) (served : List Served) (leaf : BitVec 64) (pa n cpol : Nat) (l1 : Bool) :
    Rd × State :=
  if inGen pa then s.readGen ag served leaf pa n cpol l1
  else
    let t := s.lineLoad ag leaf pa cpol l1
    (if t.poisoned pa then .poison else .bytes (t.bytesAt pa n), t)

/-- Bytes put in memory together, and then the rereads of the lanes that watch them (11 R157, 13 R195). -/
def State.storeMany (s : State) (ws : List (Nat × List Byte)) : State :=
  ws.foldl (fun s w => s.recheck w.1 w.2.length) (ws.foldl (fun s w => s.putRaw w.1 w.2) s)

/-- The request of a write at its line's home, through the L1 copy that it hits (11 R154, R161, R162, R164). -/
def State.writeReq (s : State) (ag : Agent) (leaf : BitVec 64) (va pa cpol : Nat) : State :=
  let s := s.setDirty ag va
  let s := s.setCore ag.core ((s.core ag.core).l1Store pa)
  s.request pa (llcCpol leaf (effCpol leaf cpol).1) ag.part true (some ag.asn)

/-- A write of bytes that lie in one line. -/
def State.writeLine (s : State) (ag : Agent) (leaf : BitVec 64) (va pa cpol : Nat) (bs : List Byte) : State :=
  (s.writeReq ag leaf va pa cpol).storeRaw pa bs

/-! ### Stash and frames (11 R144) -/

/-- A stash offset lies in the window of a fill task, which starts zero-filled (15 R220). -/
def Crew.inFillWindow (cr : Crew) (off : Nat) : Bool :=
  match cr.fill with
  | some f => decide (off < f.size)
  | none => false

/-- A stash byte; one that nothing has written is unspecified (03 R34). -/
def Crew.stashByte (cr : Crew) (off : Nat) : Byte :=
  (Store.look cr.stash off).getD (if cr.inFillWindow off then 0 else Config.freeByte cr.epoch off)

/-- `n` stash bytes from an offset. -/
def Crew.stashBytes (cr : Crew) (off n : Nat) : List Byte := (List.range n).map fun k => cr.stashByte (off + k)

/-- The number of `n` stash bytes at an offset. -/
def Crew.stashNat (cr : Crew) (off n : Nat) : Nat := natOf (cr.stashBytes off n)

/-- Bytes put at numbers of a file whose unlisted bytes are open. -/
def rawPut : Store Byte → Nat → List Byte → Store Byte
  | m, _, [] => m
  | m, a, b :: r => rawPut (Store.put m a b) (a + 1) r

/-- Bytes stored in a crew's stash together, with the rereads of the lanes of the crew that watch them (13 R195). -/
def Crew.stashPut (cr : Crew) (ws : List (Nat × List Byte)) : Crew :=
  let cr := { cr with stash := ws.foldl (fun m w => rawPut m w.1 w.2) cr.stash }
  ws.foldl (fun cr w => cr.mapWarps fun x => x.mapSplits fun sp =>
    sp.recheck cr.fill.isSome true w.1 w.2.length cr.stashNat fun _ => false) cr

/-- The number of a byte of a lane's frame in its crew's frames. -/
def frameKey (wi lane off : Nat) : Nat := (wi * 128 + lane) * 4096 + off

/-- A byte of a lane's private frame; one that nothing has written is unspecified (11 R144). -/
def Crew.frameByte (cr : Crew) (wi lane off : Nat) : Byte :=
  (Store.look cr.frames (frameKey wi lane off)).getD (Config.freeByte cr.epoch (2 ^ 20 + frameKey wi lane off))

/-- Bytes stored in a lane's frame. -/
def Crew.framePut (cr : Crew) (wi lane off : Nat) (bs : List Byte) : Crew :=
  { cr with frames := rawPut cr.frames (frameKey wi lane off) bs }

/-- The bytes of `n` at a key that `bad` names take free values where they lie: in memory, or at an offset of a crew's stash (00 R7). -/
def State.loosen (s : State) (uid : Nat) (off : Option Nat) (key n : Nat) (bad : Nat → Bool) : State :=
  let ks := (List.range n).filter fun k => bad (key + k)
  if ks.isEmpty then s
  else
    let free (k : Nat) : Byte := Config.freeByte s.freeCtr (key + k)
    let t : State := { s with freeCtr := s.freeCtr + 1 }
    match off with
    | none => { t with mem := ks.foldl (fun m k => memPut m (key + k) [free k]) s.mem }
    | some o => t.updCrew uid fun cr => { cr with stash := ks.foldl (fun m k => Store.put m (o + k) (free k)) cr.stash }

/-! ### Windows (11 R165) -/

/-- The window that covers a stash offset, with its number. -/
def Crew.windowAt (cr : Crew) (off : Nat) : Option (Nat × Window) :=
  ((List.range cr.windows.length).zip cr.windows).find? fun p => decide (p.2.off ≤ off) && decide (off < p.2.off + p.2.len)

/-- The line of a window that holds a stash offset. -/
def Window.lineNo (w : Window) (off : Nat) : Nat := (off - w.off) / 128

/-- The global address of a stash offset in a window. -/
def Window.addr (w : Window) (off : Nat) : Nat := w.va + (off - w.off)

/-- The physical address of a stash offset in a window of a crew, by the tables as they stand. -/
def State.stashPa (s : State) (ag : Agent) (cr : Crew) (off : Nat) : Option Nat :=
  match cr.windowAt off with
  | none => none
  | some (_, w) =>
    match (s.translate ag (w.addr off) .read).1 with
    | .ok pa _ => some pa
    | _ => none

/-- The key of a stash byte of a crew among memory events: its physical address through a window, or its place in the stash (11 R165, R175). -/
def State.stashEv (s : State) (ag : Agent) (cr : Crew) (off : Nat) : Nat := (s.stashPa ag cr off).getD (stashKey cr.uid off)

/-- A line of a window. -/
def Window.line (w : Window) (k : Nat) : WLine := Store.get w.lines ⟨false, []⟩ k

/-- A crew with line `k` of window `i` changed. -/
def Crew.setWLine (cr : Crew) (i k : Nat) (f : WLine → WLine) : Crew :=
  { cr with windows := ((List.range cr.windows.length).zip cr.windows).map fun p =>
      if p.1 = i then { p.2 with lines := Store.put p.2.lines k (f (p.2.line k)) } else p.2 }

/-- A line of global bytes placed in a window line, but for its dirty bytes; it stays valid only over a page with `L` set. -/
def Crew.fillWLine (cr : Crew) (i : Nat) (w : Window) (k : Nat) (keep : Bool) (bs : List Byte) : Crew :=
  let base := w.off + 128 * k
  let dirty := (w.line k).dirty
  let new := ((List.range 128).zip bs).filter fun p => !dirty.any fun d => decide (d = p.1)
  let cr := { cr with stash := new.foldl (fun m (p : Nat × Byte) => Store.put m (base + p.1) p.2) cr.stash }
  cr.setWLine i k fun l => { l with valid := keep }

/-- The bytes of a window line marked dirty. -/
def Crew.dirtyWLine (cr : Crew) (i : Nat) (w : Window) (off n : Nat) : Crew :=
  let k := w.lineNo off
  cr.setWLine i k fun l => { l with dirty := mergeLanes ((List.range n).map fun j => off - w.off - 128 * k + j) l.dirty }

/-- The window lines with dirty bytes: window number, line, its global address and stash offset, its dirty bytes. -/
def Crew.dirtyLines (cr : Crew) : List (Nat × Nat × Nat × Nat × List Nat) :=
  (((List.range cr.windows.length).zip cr.windows).map fun p =>
    p.2.lines.filterMap fun l =>
      if l.2.dirty.isEmpty then none
      else some (p.1, l.1, p.2.va + 128 * l.1, p.2.off + 128 * l.1, l.2.dirty)).flatten

/-- One dirty line of a crew's windows: window number, line, its global address and stash offset, its dirty bytes. -/
abbrev DirtyLine := Nat × Nat × Nat × Nat × List Nat

/-- The checks of the lines of a write-back, in order: those that pass with their translations, and the first that does not with its
address. With `force` a line that takes a fault is passed over. -/
def State.backChecks (s : State) (ag : Agent) (force : Bool) :
    List DirtyLine → List (DirtyLine × Nat × BitVec 64) × Option (Nat × Chk) × State
  | [] => ([], none, s)
  | d :: r =>
    let a := s.chkGlobal ag d.2.2.1 128 .write
    match a.1 with
    | .ok pa leaf =>
      let t := State.backChecks a.2 ag force r
      ((d, pa, leaf) :: t.1, t.2)
    | .fault code x => if force then State.backChecks a.2 ag force r else ([], some (d.2.2.1, .fault code x), a.2)
    | x => ([], some (d.2.2.1, x), a.2)

/-- One dirty line of a crew's windows written back, byte by byte (11 R165). -/
def State.backLine (s : State) (ag : Agent) (d : DirtyLine) (pa : Nat) (leaf : BitVec 64) : State :=
  match s.crewOf ag.uid with
  | none => s
  | some cr =>
    let s := s.writeReq ag leaf d.2.2.1 pa 0
    let s := s.storeMany (d.2.2.2.2.map fun k => (pa + k, [cr.stashByte (d.2.2.2.1 + k)]))
    s.updCrew ag.uid fun cr => cr.setWLine d.1 d.2.1 fun l => { l with dirty := [] }

/-- Dirty lines of a crew written back, in order, once all of them have passed their checks; otherwise what failed, with its address, and
nothing is written (11 R165, 13 R197, 00 R11). With `force` a line that takes a fault is passed over. -/
def State.writeBackLines (s : State) (ag : Agent) (force : Bool) (l : List DirtyLine) : Option (Nat × Chk) × State :=
  let c := s.backChecks ag force l
  match c.2.1 with
  | some x => (some x, c.2.2)
  | none => (none, c.1.foldl (fun s x => s.backLine ag x.1 x.2.1 x.2.2) c.2.2)

/-- The crew's windows written back. -/
def State.writeBack (s : State) (ag : Agent) (force : Bool) : Option (Nat × Chk) × State :=
  match s.crewOf ag.uid with
  | none => (none, s)
  | some cr => s.writeBackLines ag force cr.dirtyLines

end Sys2Proof.Machine
end

