-- ==== Sys2Proof/Machine/Crews.lean ====
section
/-! DEFINITION. What a crew takes of a core and of its partition's pool, and how it starts (03 R27-R35, 19 R262, R264, R265, R271);
jobs and their first fault (19 R281, R331). -/

namespace Sys2Proof.Machine

/-! ### Room on a core (03 R27-R31) -/

/-- Warp units of one warp of a width (03 R27). -/
def warpUnits (width : Nat) : Nat := width / 32

/-- The warp units that general crews hold in a quarter (03 R30). -/
def Core.unitsIn (c : Core) (q : Nat) : Nat :=
  c.crews.foldl (fun n e =>
    if e.1 < 28 then
      n + warpUnits e.2.shape.width * (e.2.warps.filter fun w => decide (w.2.quarter = q) && !w.2.retired).length
    else n) 0

/-- The quarter with the most of the free units given, the lowest of those that tie (03 R30). -/
def mostFree (free : List Nat) : Nat :=
  ((List.range 4).foldl (fun b q => if (free[b]?).getD 0 < (free[q]?).getD 0 then q else b) 0)

/-- The quarters of `n` warps of some units each, in increasing order of the warps; none where one does not fit (03 R30). -/
def bindWarps : Nat → Nat → List Nat → Option (List Nat)
  | 0, _, _ => some []
  | n + 1, u, free =>
    let q := mostFree free
    if (free[q]?).getD 0 < u then none
    else (bindWarps n u (free.set q ((free[q]?).getD 0 - u))).map fun r => q :: r

/-- The free general units of each quarter. -/
def Core.freeUnits (c : Core) : List Nat := (List.range 4).map fun q => 16 - c.unitsIn q

/-- The bytes of a warp's register frame (03 R32). -/
def Shape.frameBytes (h : Shape) : Nat := (h.vregs + 7) / 8 * 8 * h.width * 4

/-- The bytes of a crew's frame memory and handler save areas (19 R271). -/
def Shape.restBytes (h : Shape) : Nat := h.warps * h.width * 4096 + h.warps * h.width * 128

/-- The bytes that a dispatch takes from the save pool: register frames, frame memory and handler save areas (19 R271, 03 R32). -/
def Shape.dispatchBytes (h : Shape) : Nat := h.warps * h.frameBytes + h.restBytes

/-- The areas of a crew at its dispatch, by number, with their bytes (19 R271). -/
def Shape.areas (h : Shape) : List (Nat × Nat) :=
  ((List.range h.warps).map fun i => (i, h.frameBytes)) ++ [(1000, h.restBytes)]

/-- The bytes of a crew's save area (19 R271). -/
def Crew.saveBytes (cr : Crew) : Nat :=
  2048 + cr.shape.stash +
    (match cr.mat.cfg with
      | some m => 32 * m.m * m.n + cr.mat.bin
      | none => 0) +
    cr.shape.warps * (1024 + 256 * cr.shape.width)

/-- Slot and quarters of `n` warps of some units each, with some bytes of stash, if they fit on a core and it takes new work (03
R29-R31, 01 R23). -/
def Core.roomFor (c : Core) (stash n units : Nat) : Option (Nat × List Nat) :=
  match Store.free c.crews 0 28 with
  | none => none
  | some k =>
    if c.moving.isSome ∨ 196608 < c.stashUsed + stash then none
    else (bindWarps n units c.freeUnits).map fun q => (k, q)

/-- Slot and quarters that a crew of a shape would get on a core. -/
def Core.room (c : Core) (h : Shape) : Option (Nat × List Nat) := c.roomFor h.stash h.warps (warpUnits h.width)

/-- The areas of a crew's dispatch taken from the pool (19 R271). -/
def State.takeDispatch (s : State) (cr : Crew) : State := s.takeAreas cr.part cr.uid cr.shape.areas

/-- The save area of a crew, of the size that it has now, taken from the pool where it fits; nothing where it does not (19 R271). -/
def State.takeSave (s : State) (cr : Crew) : Option State :=
  let t := s.giveArea cr.part cr.uid 1001
  if t.poolHas cr.part cr.saveBytes then some (t.takeAreas cr.part cr.uid [(1001, cr.saveBytes)]) else none

/-- A crew's save area written or read by its core, line by line (19 R269, R272, R277). -/
def State.saveLines (s : State) (cr : Crew) (write : Bool) : State :=
  (pieceLines (s.areaOf cr.part cr.uid 1001)).foldl
    (fun s pa => s.request pa 0 cr.part write (if write then some cr.asn else none)) s

/-! ### Start (03 R34, R35) -/

/-- The warps of a crew as they start (03 R34). -/
def Crew.startWarps (cr : Crew) (quarters : List Nat) (clk : Nat) : Store Warp :=
  let lanes := cr.lanes0.getD (List.range cr.shape.width)
  (List.range cr.shape.warps).map fun i =>
    (i, { s := cr.s0, v := cr.v0, quarter := (quarters[i]?).getD 0, age := clk, retired := lanes.isEmpty
          splits := if lanes.isEmpty then [] else [{ lanes, pc := cr.shape.entry, st := .run }] })

/-- The job of a handle in a partition. -/
def State.job? (s : State) (p j : Nat) : Option Job := Store.look (s.part p).jobs j

/-- What the start of a crew acquires, beside what is handed to it: what came before its job's launch, or for a fill task, which has no job, all
that has come before (11 R177; notes/assumptions/40.md). -/
def State.startFloor (s : State) (cr : Crew) : Nat :=
  if cr.fill.isSome then s.ledger.count
  else match s.job? cr.part cr.job with
    | some x => x.stamp
    | none => s.ledger.count

/-- A crew placed in a slot at its start; the L1 loses the ways it takes (11 R162). -/
def State.startCrew (s : State) (core slot : Nat) (quarters : List Nat) (cr : Crew) : State :=
  let c := s.core core
  let cr := { cr with warps := cr.startWarps quarters c.clk, since := c.clk, parked := none, epoch := s.freeCtr }
  let s := { s with freeCtr := s.freeCtr + 1, ledger := s.ledger.give (.start cr.uid) { floor := s.startFloor cr } }
  s.setCore core (Core.l1Trim { c with crews := Store.put c.crews slot cr })

/-- The initial scalars that hold a parameter pointer (03 R34). -/
def paramRegs (p : Addr) : Store Word :=
  Store.set (Store.set [] 0 0 (BitVec.ofNat 32 p.toNat)) 0 1 (BitVec.ofNat 32 (p.toNat / 2 ^ 32))

/-! ### Jobs -/

/-- A job changed; nothing where no job has the handle. -/
def State.updJob (s : State) (p j : Nat) (f : Job → Job) : State :=
  match s.job? p j with
  | some x => s.setPart p { s.part p with jobs := Store.put (s.part p).jobs j (f x) }
  | none => s

/-- The handle of a crew's job; 256, which names none, for a fill task (15 R220). -/
def Crew.jobKey (cr : Crew) : Nat := if cr.fill.isSome then 256 else cr.job

/-- The word of a job fault (19 R331): fault 0x12 with every other field zero. -/
def jobFault12 : JobFault := { code := 0x12, info1 := BitVec.allOnes 64, info2 := 0x12 }

/-- A job fault charged to a job: kept when it is the job's first fault (19 R331). -/
def State.jobFault (s : State) (p j : Nat) : State :=
  s.updJob p j fun x => { x with fault := x.fault <|> some jobFault12 }

/-- A crew that the device creates for a job, not yet dispatched (19 R264, R265). -/
def Job.crew (x : Job) (uid p j : Nat) (kind : CrewKind) (shape : Shape) (cx cy cz : Word) (report : BitVec 64) (s0 : Store Word) :
    Crew :=
  { uid, kind, shape, part := p, job := j, asn := x.asn, root := x.root, cx, cy, cz, report, prio := x.desc.prio
    cls := x.desc.prio, warps := [], s0 }

/-- The cores of a partition that take new work, in increasing number: one that a command moves takes none (01 R23, 19 R262). -/
def State.bindCores (s : State) (p : Nat) : List Nat :=
  s.cores.filterMap fun e => if e.2.part = some p ∧ e.2.moving = none then some e.1 else none

/-- The core for an index among the present cores of a partition. -/
def State.coreFor (s : State) (p k : Nat) : Option Nat :=
  let cs := s.bindCores p
  cs[k % cs.length]?

/-- A bind record of a core that leaves the partition moved to another core, or held while there is none or its table is full (19 R263,
R268). -/
def State.moveBind (s : State) (p : Nat) (b : Bind) : State :=
  let n := (s.bindCores p).length
  match s.coreFor p (b.next + b.lseq % n) with
  | some k =>
    if (s.core k).binds.length < 16 then s.setCore k { s.core k with binds := (s.core k).binds ++ [b] }
    else s.setPart p { s.part p with heldBinds := (s.part p).heldBinds ++ [b] }
  | none => s.setPart p { s.part p with heldBinds := (s.part p).heldBinds ++ [b] }

/-- The records that a partition holds go to its cores where their tables have room (19 R263, R268). -/
def State.settleBinds (s : State) (p : Nat) : State :=
  let l := (s.part p).heldBinds
  l.foldl (fun s b => s.moveBind p b) (s.setPart p { s.part p with heldBinds := [] })

/-- A device-created crew handed to core P[k mod n] of its partition, or held while the partition has no core (19 R262, R265,
R268). -/
def State.bindCreated (s : State) (k : Nat) (cr : Crew) : State :=
  match (s.bindCores cr.part)[k % (s.bindCores cr.part).length]? with
  | some n => s.setCore n { s.core n with created := (s.core n).created ++ [cr] }
  | none => s.setPart cr.part { s.part cr.part with heldCreated := (s.part cr.part).heldCreated ++ [cr] }

end Sys2Proof.Machine
end

