-- ==== Sys2Proof/Machine/Queues.lean ====
section
/-! DEFINITION. Bells, futures, continuations and work queues as the steps at their homes make them (13 R198-R205), for the
instructions, the engines and the end of a crew alike. -/

namespace Sys2Proof.Machine

/-! ### Bells (13 R198, R199) -/

/-- A bell word that no arrival or wait may use (13 R199). -/
def bellBad (w : Nat) : Bool := decide (bits w 15 0 = 0) || decide (bits w 63 34 ≠ 0)

/-- A bell word after `k` arrivals, with `ERR` set beside when `err` (13 R199, R210). -/
def bellArrive (w k : Nat) (err : Bool) : Nat :=
  let e := bits w 15 0
  let a := bits w 31 16
  let flip := decide (k ≠ 0) && decide (e ≤ a + k)
  let arr := if flip then 0 else a + k
  let ph := if flip then 1 - bits w 32 32 else bits w 32 32
  let er := bit w 33 || err || (decide (k ≠ 0) && decide (e < a + k))
  e + 2 ^ 16 * arr + 2 ^ 32 * ph + 2 ^ 33 * er.toNat

/-- The splits of a crew parked on a stash bell go on with its word (13 R199). -/
def Crew.wakeBell (cr : Crew) (off word : Nat) : Crew :=
  cr.mapWarps fun w => w.mapSplits fun sp =>
    if sp.st = .parked (.bell false off) then { sp with st := .run, ans := [(0, word), (1, stashKey cr.uid off)] } else sp

/-- The splits parked on a job-scope bell go on with its word (13 R199). -/
def State.wakeBell (s : State) (pa word : Nat) : State :=
  s.mapSplits fun sp => if sp.st = .parked (.bell true pa) then { sp with st := .run, ans := [(0, word), (1, pa)] } else sp

/-- A bell's phase has changed from one word to another. -/
def bellFlipped (old new : Nat) : Bool := bit old 32 != bit new 32

/-! ### Accesses of device steps (13 R203) -/

/-- The job for which a device step acts. -/
structure QAgent where
  part : Nat
  job  : Nat
  asn  : Nat
  root : Nat
deriving DecidableEq, Repr

/-- The agent of a crew's job. -/
def Crew.qagent (cr : Crew) : QAgent := { part := cr.part, job := cr.jobKey, asn := cr.asn, root := cr.root }

/-- One access of a device step in a job's address space, walked without a TLB (11 R146-R154): `A` and `D` are set as a walk and a write
set them. -/
def State.devAccess (s : State) (ag : QAgent) (va size : Nat) (acc : Access) : Chk × State :=
  if !canonical va then (.fault 0x1E 0, s)
  else if va % size ≠ 0 then (.fault 0x06 (log2Size size), s)
  else
    let r := s.walk ag.part ag.root va
    match r.1 with
    | .fault code => (.fault code 0, r.2)
    | .absent large =>
      (.page { part := ag.part, asn := ag.asn, page := if large then va / 2 ^ 21 * 2 ^ 21 else va / 2 ^ 16 * 2 ^ 16, large, acc }, r.2)
    | .leaf e lpa _ =>
      let leaf := BitVec.ofNat 64 e
      let pa := leafPa leaf va
      if !permits leaf acc || !rangeOk leaf ag.part pa then (.fault 0x08 0, r.2)
      else
        let s := if bit e 8 then r.2 else r.2.orLeaf ag.part ag.asn lpa 8
        let s := if acc = .write ∧ !bit e 7 then s.orLeaf ag.part ag.asn lpa 7 else s
        if s.poisoned pa then (.fault 0x09 0, s) else (s.flipChk pa leaf, s)

/-- Several write accesses of a device step: their physical addresses, or the first that fails. -/
def State.devAll (s : State) (ag : QAgent) : List (Nat × Nat) → List Nat → (Chk ⊕ List Nat) × State
  | [], pas => (.inr pas, s)
  | (va, n) :: r, pas =>
    let a := s.devAccess ag va n .write
    match a.1 with
    | .ok pa _ => State.devAll a.2 ag r (pas ++ [pa])
    | x => (.inl x, a.2)

/-- Bytes written by a device step at their home. -/
def State.devPut (s : State) (ag : QAgent) (pa : Nat) (bs : List Byte) : State :=
  (s.request pa 0 ag.part true (some ag.asn)).storeAt pa bs

/-! ### Queue headers (13 R203) -/

/-- The fields of a queue header. -/
structure QHdr where
  base  : Nat
  state : Nat
  entry : Nat
  cap   : Nat
  rsz   : Nat
  res   : Nat
  batch : Nat
  free  : Nat
  next  : Nat
  head  : Nat
  voids : Nat
  tail  : Nat
deriving DecidableEq, Repr

/-- The header at a physical address. -/
def State.qhdr (s : State) (pa : Nat) : QHdr :=
  { base := s.natAt pa 8, state := s.natAt (pa + 8) 8, entry := s.natAt (pa + 0x10) 8, cap := s.natAt (pa + 0x18) 4
    rsz := s.natAt (pa + 0x1C) 1, res := s.natAt (pa + 0x1D) 1, batch := s.natAt (pa + 0x1E) 2, free := s.natAt (pa + 0x20) 4
    next := s.natAt (pa + 0x24) 4, head := s.natAt (pa + 0x28) 4, voids := s.natAt (pa + 0x2C) 4
    tail := s.natAt (pa + 0x30) 16 }

/-- `CAP`, `RSZ`, `BATCH` and the reserved fields are in range (13 R203). -/
def QHdr.ok (h : QHdr) : Bool :=
  decide (16 ≤ h.cap) && decide (h.cap ≤ 2 ^ 24) && decide (2 ^ Nat.log2 h.cap = h.cap) && decide (4 ≤ h.rsz) &&
    decide (h.rsz ≤ 7) && decide (h.res = 0) && decide (h.tail = 0) &&
    (if h.entry = 0 then decide (h.batch = 0) else decide (1 ≤ h.batch) && decide (h.batch ≤ 1024))

/-- The virtual address of the state byte of an index. -/
def QHdr.stateVa (h : QHdr) (n : Nat) : Nat := (h.state + n % h.cap) % 2 ^ 64

/-- The virtual address of the record of an index. -/
def QHdr.recordVa (h : QHdr) (n : Nat) : Nat := (h.base + n % h.cap * 2 ^ h.rsz) % 2 ^ 64

/-- `k` added to a 32-bit field of a header, modulo 2^32, for an agent. -/
def State.qadd (s : State) (ag : QAgent) (pa off k : Nat) : State :=
  s.devPut ag (pa + off) (bytesLE 4 (s.natAt (pa + off) 4 + k))

/-- The state bytes of `n` indices, as one-byte accesses. -/
def QHdr.slots (h : QHdr) (first n : Nat) : List (Nat × Nat) := (List.range n).map fun k => (h.stateVa (first + k), 1)

/-! ### Waiting steps and job faults -/

/-- A device step kept until what it waits for is there; one that waits already is kept once. -/
def State.stepWait (s : State) (ag : QAgent) (act : QAct) (hva hdr first count : Nat) (w : Wait) : State :=
  let st : QStep := { act, hva, hdr, first, count, part := ag.part, job := ag.job, asn := ag.asn, root := ag.root, page := w }
  if s.qsteps.any fun q => decide ({ q with page := w } = st) then s else { s with qsteps := s.qsteps ++ [st] }

/-- A device step that cannot go on: on a page fault, or a page whose bias is changing, it waits, any other failure stops the queue's
delivery at a slot and is a job fault (13 R203, 23 R319). -/
def State.stepFail (s : State) (ag : QAgent) (act : QAct) (hva hdr first count slot : Nat) (x : Chk) : State :=
  match x with
  | .page ref => (s.report 0 [ref]).stepWait ag act hva hdr first count (.page [(0, 0, ref)])
  | .flip n => (s.flipWait n).2.stepWait ag act hva hdr first count (s.flipWait n).1
  | .ok _ _ => s
  | .fault _ _ => ({ s with qstopped := s.qstopped ++ [(hdr, slot)] }).jobFault ag.part ag.job

/-! ### Delivery (13 R205) -/

/-- The commits that cover some of `n` indices from `first`. -/
def State.commitsOf (s : State) (hdr first n : Nat) : List QCommit :=
  s.qcommits.filter fun q => decide (q.hdr = hdr) &&
    (decide (seqSub q.first first < n) || decide (seqSub first q.first < q.count))

/-- The commit that arrived last among those of a batch. -/
def lastCommit (l : List QCommit) : Option QCommit :=
  l.foldl (fun b q => match b with
    | none => some q
    | some x => if x.order < q.order then some q else some x) none

/-- The run of committed slots from an index, at most `f`, and the state of the slot that ends it: none when the run is full. -/
def State.batchRun (s : State) (ag : QAgent) (h : QHdr) : Nat → Nat → Nat → (Chk ⊕ (Nat × Option Nat)) × State
  | 0, _, n => (.inr (n, none), s)
  | f + 1, i, n =>
    let a := s.devAccess ag (h.stateVa i) 1 .write
    match a.1 with
    | .ok pa _ =>
      if a.2.seenByte pa = 2 then State.batchRun a.2 ag h f (i + 1) (n + 1)
      else (.inr (n, some (a.2.seenByte pa).toNat), a.2)
    | x => (.inl x, a.2)

/-- A batch launched: its slots taken, `HEAD` advanced, and one consumer crew of the last commit's job (13 R205, 03 R35, 19 R265). -/
def State.launchBatch (s : State) (hdr : Nat) (h : QHdr) (n : Nat) (q : QCommit) (x : Job) (pas : List Nat) : State :=
  let ag : QAgent := { part := q.part, job := q.job, asn := x.asn, root := x.root }
  let s := pas.foldl (fun s pa => s.devPut ag pa [4]) s
  let s := s.qadd ag hdr 0x28 n
  let s0 := Store.set (Store.set (paramRegs (BitVec.ofNat 64 q.hva)) 0 2 (BitVec.ofNat 32 h.head)) 0 3 (BitVec.ofNat 32 n)
  let cr := x.crew s.crewCtr q.part q.job .consumer { x.desc.shape with entry := BitVec.ofNat 64 h.entry } (BitVec.ofNat 32 h.head) 0 0
    (BitVec.ofNat 64 (h.head + 2 ^ 63)) s0
  let cr := { cr with batch := some { hdr, hva := q.hva, first := h.head, count := n, take := true } }
  let s := { s with
    crewCtr := s.crewCtr + 1
    ledger := pas.foldl (fun g pa => g.give (.start s.crewCtr) (g.point (.slot pa))) s.ledger
    qcommits := s.qcommits.filter fun c => !(decide (c.hdr = hdr) && decide (seqSub (h.head + n) c.first ≥ c.count) &&
      decide (seqSub (h.head + n) c.first < 2 ^ 31)) }
  (s.updJob q.part q.job fun x => { x with crews := x.crews + 1 }).bindCreated (homeOf hdr) cr

/-- A void slot at `HEAD` freed (13 R205): its state byte is at `pa`. -/
def State.freeVoid (s : State) (ag : QAgent) (hdr pa : Nat) : State :=
  (((s.devPut ag pa [0]).qadd ag hdr 0x28 1).qadd ag hdr 0x20 1).qadd ag hdr 0x2C 1

/-- Delivery from `HEAD`: void slots are freed, and committed runs of a bound queue are launched when full, or when the slot after
them is free (13 R205). A step checks the header and the state bytes that it reads and writes (13 R203). -/
def State.qdeliver (s : State) (ag : QAgent) (hva hdr : Nat) : Nat → State
  | 0 => s
  | f + 1 =>
    let h := s.qhdr hdr
    if s.qstopped.any fun p => decide (p = (hdr, h.head)) then s
    else
      let a := s.devAll ag [(hva, 64), (h.stateVa h.head, 1)] []
      match a.1 with
      | .inl x => a.2.stepFail ag .deliver hva hdr 0 0 h.head x
      | .inr pas =>
        let s := a.2
        let pa := (pas[1]?).getD 0
        if s.seenByte pa = 3 then State.qdeliver (s.freeVoid ag hdr pa) ag hva hdr f
        else if s.seenByte pa = 2 ∧ h.batch ≠ 0 then
          let r := s.batchRun ag h (Nat.min h.batch h.cap) h.head 0
          match r.1 with
          | .inl x => r.2.stepFail ag .deliver hva hdr 0 0 h.head x
          | .inr (n, stop) =>
            if n = h.batch ∨ stop = some 0 then
              match lastCommit (r.2.commitsOf hdr h.head n) with
              | none => r.2
              | some q =>
                match r.2.job? q.part q.job with
                | none => r.2
                | some x =>
                  if x.lseq ≠ q.lseq then r.2
                  else
                    let own : QAgent := { part := q.part, job := q.job, asn := x.asn, root := x.root }
                    let t := r.2.devAll own ((q.hva, 64) :: h.slots h.head n) []
                    match t.1 with
                    | .inl y => t.2.stepFail own .deliver q.hva hdr 0 0 h.head y
                    | .inr pas => State.qdeliver (t.2.launchBatch hdr h n q x (pas.drop 1)) ag hva hdr f
            else r.2
        else s

/-- The request that has waited longest at a queue: a `qres` or a continuation commit (13 R202, R204). -/
def State.firstWaiter (s : State) (hdr : Nat) : Option (Nat × Option QWait) :=
  let l := ((s.qwaits.filter fun q => decide (q.hdr = hdr)).map fun q => (q.order, some q)) ++
    ((s.conts.filter fun c => decide (c.hdr = some hdr)).map fun c => (c.order, none))
  l.foldl (fun b x => match b with
    | none => some x
    | some y => if x.1 < y.1 then some x else some y) none

/-- The `qres` that has waited longest at a queue runs again when its slots are free, or when the header can be read no more (13 R203,
R204). -/
def State.wakeQueue (s : State) (hdr : Nat) : State :=
  match s.firstWaiter hdr with
  | some (_, some q) =>
    if q.count ≤ (s.qhdr hdr).free ∨ s.poisoned hdr then
      let wake (sp : Split) : Split :=
        if sp.st = .parked (.queue hdr) ∧ sp.lanes.headD 0 = q.lane then { sp with st := .run } else sp
      s.updCrew q.uid fun cr =>
        { cr with warps := Store.mapV cr.warps fun i w => if i = q.warp then w.mapSplits wake else w }
    else s
  | _ => s

/-- Delivery, and then the request that has waited longest. -/
def State.kick (s : State) (ag : QAgent) (hva hdr : Nat) : State := (s.qdeliver ag hva hdr ((s.qhdr hdr).cap + 1)).wakeQueue hdr

/-- Every queue at which a request waits looks at its longest waiter again. -/
def State.wakeQueues (s : State) : State := (s.qwaits.map fun q => q.hdr).eraseDups.foldl State.wakeQueue s

/-- The void commit and the freeing of slots at a crew's retirement (13 R203, R205). -/
def State.queueStep (s : State) (ag : QAgent) (act : QAct) (hva hdr first count : Nat) : State :=
  match act with
  | .deliver => s.kick ag hva hdr
  | _ =>
    let h := s.qhdr hdr
    let r := s.devAll ag ((hva, 64) :: h.slots first count) []
    match r.1 with
    | .inl x => r.2.stepFail ag act hva hdr first count (first % 2 ^ 32) x
    | .inr pas =>
      let s := (pas.drop 1).foldl (fun s pa => s.devPut ag pa [if act = .void then 3 else 0]) r.2
      let s := if act = .void then s else s.qadd ag hdr 0x20 count
      s.kick ag hva hdr

/-! ### Futures and continuations (13 R200-R202) -/

/-- A continuation changed. -/
def State.updCont (s : State) (id : Nat) (f : Cont → Cont) : State :=
  { s with conts := s.conts.map fun c => if c.id = id then f c else c }

/-- A continuation that has been committed, or turned into a job fault, is no more. -/
def State.dropCont (s : State) (id : Nat) : State := { s with conts := s.conts.filter fun c => decide (c.id ≠ id) }

/-- The job for which a continuation is committed. -/
def Cont.agent (c : Cont) : QAgent := { part := c.part, job := c.job, asn := c.asn, root := c.root }

/-- A continuation that cannot go on: a page fault, or a page whose bias is changing, waits, any other failure is a fault 0x12 of its job (13
R202, 23 R319). -/
def State.contFail (s : State) (c : Cont) (x : Chk) : State :=
  match x with
  | .page ref => (s.report 0 [ref]).updCont c.id fun c => { c with page := some (.page [(0, 0, ref)]) }
  | .flip n => (s.flipWait n).2.updCont c.id fun c => { c with page := some (s.flipWait n).1 }
  | .ok _ _ => s
  | .fault _ _ => ((s.dropCont c.id).jobFault c.part c.job).wakeQueues

/-- The payload of a node: undefined where its bytes have been written since its `fon` (13 R202; notes/assumptions/46.md). -/
def State.nodePayload (s : State) (c : Cont) : List Byte :=
  if (List.range 32).any fun k => decide (c.since < s.ledger.lastOf (c.node + k)) then
    (List.range 16).map fun k => Config.freeByte s.freeCtr k
  else s.bytesAt (c.node + 16) 16

/-- The commit of one continuation whose future is resolved (13 R202): it arrives at its queue, and when it is first there and a slot is
free it is a reservation and commit of one record. A node or header on a poisoned line is a job fault, and a node written before its record is
delivered is committed once all the same (DEDUCED and DESIGN CHOICE, notes/assumptions/46.md). -/
def State.contCommit (s : State) (id : Nat) : State :=
  let arrived : State := match s.conts.find? fun c => decide (c.id = id) with
    | none => s
    | some c =>
      if c.fut.isSome ∨ c.page.isSome ∨ c.hdr.isSome then s
      else if s.poisoned c.node then s.contFail c (.fault 0x09 0)
      else
        let a := s.devAccess c.agent (s.natAt (c.node + 8) 8) 64 .write
        match a.1 with
        | .ok pa _ =>
          if (a.2.qhdr pa).ok then
            { a.2.updCont id (fun c => { c with hdr := some pa, order := a.2.arrivals }) with arrivals := a.2.arrivals + 1 }
          else a.2.contFail c (.fault 0x12 0)
        | x => a.2.contFail c x
  match arrived.conts.find? fun c => decide (c.id = id) with
  | none => arrived
  | some c =>
    match c.hdr with
    | none => arrived
    | some hdr =>
      let s := arrived
      let h := s.qhdr hdr
      let hva := s.natAt (c.node + 8) 8
      if c.page.isSome ∨ s.firstWaiter hdr ≠ some (c.order, none) then s
      else if s.poisoned c.node ∨ s.poisoned hdr then s.contFail c (.fault 0x09 0)
      else if h.free = 0 then s
      else if !h.ok then s.contFail c (.fault 0x12 0)
      else
        let r := s.devAll c.agent [(hva, 64), (h.recordVa h.next, 2 ^ h.rsz), (h.stateVa h.next, 1)] []
        match r.1 with
        | .inl x => r.2.contFail c x
        | .inr pas =>
          let pay := s.nodePayload c
          let s := r.2.devPut c.agent ((pas[1]?).getD 0) (pay ++ List.replicate (2 ^ h.rsz - 16) 0)
          let s := s.devPut c.agent ((pas[2]?).getD 0) [2]
          let s := { s with freeCtr := s.freeCtr + 1, ledger := s.ledger.setPoint (.slot ((pas[2]?).getD 0)) (s.ledger.point (.cont id)) }
          let s := (s.qadd c.agent hdr 0x24 1).qadd c.agent hdr 0x20 (2 ^ 32 - 1)
          let lseq := match s.job? c.part c.job with
            | some x => x.lseq
            | none => 0
          let q : QCommit :=
            { hdr, hva, first := h.next, count := 1, order := s.arrivals, part := c.part, job := c.job, lseq }
          let s := { s with qcommits := if h.entry = 0 then s.qcommits else s.qcommits ++ [q], arrivals := s.arrivals + 1 }
          (s.dropCont id).kick c.agent hva hdr

/-- A pending future resolved with a value, its continuations committed in order of registration; false where it was resolved already
(13 R201). With `dev` it is an `fset` of device or system scope; `who` resolves it, with the releases that its write carries, which the starts of
the continuations acquire (11 R177). -/
def State.resolveFut (s : State) (dev : Bool) (who : Option (Thr × List Rel)) (pa value : Nat) : Bool × State :=
  if s.natAt pa 8 < 2 ^ 63 then (false, s)
  else
    let s := s.storeFuture dev who pa (bytesLE 8 (value % 2 ^ 63))
    let ids := (s.conts.filter fun c => decide (c.fut = some pa)).map fun c => c.id
    let k := (who.elim [] fun w => w.2).foldl (fun (k : Clock) r => k.join r.clk) {}
    let s := { s with
      conts := s.conts.map fun c => if c.fut = some pa then { c with fut := none } else c
      ledger := ids.foldl (fun g id => g.setPoint (.cont id) k) s.ledger }
    (true, ids.foldl State.contCommit s)

end Sys2Proof.Machine
end

