-- ==== Sys2Proof/Machine/Engine.lean ====
section
/-! DEFINITION. What the engines of a core share: their accesses (11 R146-R154, R165, 13 R209), the joins of their queues (11 R178), and
the completion of an operation into its future (07 R104, 13 R201, R210). -/

namespace Sys2Proof.Machine

/-! ### Accesses -/

/-- Why an engine's access gave nothing: a fault code, or a wait that holds its queue. -/
inductive Halt where
  | fault (code : Nat)
  | wait (w : Wait)
deriving DecidableEq, Repr

/-- Where a checked access of an engine lands. -/
inductive Spot where
  | glob (va pa : Nat) (leaf : BitVec 64)
  | stash (off : Nat)
  | win (off va pa : Nat) (leaf : BitVec 64)
deriving DecidableEq, Repr

/-- The end of the checks of a global access; a page fault is reported (11 R153, 19 R280). -/
def State.engChk (s : State) (ag : Agent) (va size : Nat) (acc : Access) (k : Nat → BitVec 64 → Spot) : (Halt ⊕ Spot) × State :=
  let r := s.chkGlobal ag (va % 2 ^ 64) size acc
  match r.1 with
  | .ok pa leaf => (.inr (k pa leaf), r.2)
  | .page ref => (.inl (.wait (.page [(0, va % 2 ^ 64, ref)])), r.2.report ag.core [ref])
  | .flip n => (.inl (.wait (r.2.flipWait n).1), (r.2.flipWait n).2)
  | .fault code _ => (.inl (.fault code), r.2)

/-- The checks of an access of `n` bytes, in the stash of the crew for which the engine acts or in global memory (11 R146, 13 R208). -/
def State.engSpot (s : State) (ag : Agent) (stash : Bool) (a n : Nat) (acc : Access) : (Halt ⊕ Spot) × State :=
  if stash then
    match s.crewOf ag.uid with
    | none => (.inl (.fault 0x08), s)
    | some cr =>
      if a % n ≠ 0 then (.inl (.fault 0x06), s)
      else if cr.shape.stash < a + n then (.inl (.fault 0x08), s)
      else
        match cr.windowAt a with
        | none => (.inr (.stash a), s)
        | some (_, w) =>
          if acc = .read ∧ (w.line (w.lineNo a)).valid then (.inr (.stash a), s)
          else s.engChk ag (w.addr a) n acc fun pa leaf => .win a (w.addr a) pa leaf
  else s.engChk ag a n acc fun pa leaf => .glob (a % 2 ^ 64) pa leaf

/-- The bytes of one line, or why there are none. -/
def rdHalt : Rd → Halt ⊕ List Byte
  | .bytes l => .inr l
  | .poison => .inl (.fault 0x09)
  | .late code => .inl (.fault code)
  | .wait h l b => .inl (.wait (.fill [(h, l, b)]))

/-- `n` bytes as they stand at a checked place. A window line is filled on its touch (11 R165). -/
def State.engTake (s : State) (ag : Agent) (served : List Served) (n : Nat) (p : Spot) : (Halt ⊕ List Byte) × State :=
  let stash (s : State) (off : Nat) : List Byte := ((s.crewOf ag.uid).map fun cr => cr.stashBytes off n).getD []
  match p with
  | .glob _ pa leaf =>
    let r := s.readLine ag served leaf pa n 0 false
    (rdHalt r.1, r.2)
  | .stash off => (.inr (stash s off), s)
  | .win off _ pa leaf =>
    match (s.crewOf ag.uid).bind fun cr => cr.windowAt off with
    | none => (.inr (stash s off), s)
    | some (i, w) =>
      if (w.line (w.lineNo off)).valid then (.inr (stash s off), s) else
      let r := s.readLine ag served leaf (pa - pa % 128) 128 0 false
      match rdHalt r.1 with
      | .inl h => (.inl h, r.2)
      | .inr bs =>
        let s := r.2.updCrew ag.uid fun cr => cr.fillWLine i w (w.lineNo off) (leaf.getLsbD 5) bs
        (.inr (stash s off), s)

/-- The key of a checked place among memory events (11 R165, R175). -/
def State.spotKey (s : State) (ag : Agent) (p : Spot) : Nat :=
  match p with
  | .glob _ pa _ => pa
  | .win _ _ pa _ => pa
  | .stash off => match s.crewOf ag.uid with
    | some cr => s.stashEv ag cr off
    | none => stashKey ag.uid off

/-- What the thread of an agent reads at a checked place: free values where its bytes are undefined for it; and the read as a memory event (11 R171,
R176, R178). -/
def State.heed (s : State) (ag : Agent) (p : Spot) (bs : List Byte) : List Byte × State :=
  match ag.thr with
  | none => (bs, s)
  | some t =>
    let key := s.spotKey ag p
    let bad (k : Nat) : Bool := s.ledger.races t key bs.length (key + k)
    let u : State := { s with ledger := s.ledger.read t 0 key bs.length }
    if (List.range bs.length).any bad then
      (((List.range bs.length).zip bs).map fun x => if bad x.1 then Config.freeByte s.freeCtr (key + x.1) else x.2,
        { u with freeCtr := s.freeCtr + 1 })
    else (bs, u)

/-- `n` bytes that the thread of an agent reads at a checked place. -/
def State.engRead (s : State) (ag : Agent) (served : List Served) (n : Nat) (p : Spot) : (Halt ⊕ List Byte) × State :=
  let r := s.engTake ag served n p
  match r.1 with
  | .inl h => (.inl h, r.2)
  | .inr bs => (.inr (r.2.heed ag p bs).1, (r.2.heed ag p bs).2)

/-- Bytes read by an engine after their checks. -/
def State.engLoad (s : State) (ag : Agent) (served : List Served) (stash : Bool) (a n : Nat) : (Halt ⊕ List Byte) × State :=
  let r := s.engSpot ag stash a n .read
  match r.1 with
  | .inl h => (.inl h, r.2)
  | .inr p => r.2.engRead ag served n p

/-- A stash byte of a crew. -/
def State.stashByteOf (s : State) (uid off : Nat) : Byte :=
  match s.crewOf uid with
  | some cr => cr.stashByte off
  | none => 0

/-- A write of `n` bytes at a checked place as a memory event of the agent's thread, which knows the bytes of the stash that it replaces (11 R171, 15
R223). -/
def State.noteSpot (s : State) (ag : Agent) (p : Spot) (n : Nat) : State :=
  match ag.thr with
  | none => s
  | some t =>
    let key := s.spotKey ag p
    let old (k : Nat) : Byte := match p with
      | .stash off => s.stashByteOf ag.uid (off + (k - key))
      | _ => 0
    { s with ledger := s.ledger.write t key n [] old }

/-- Bytes written at a checked place; a store into a window fills its line and marks its bytes dirty (11 R165). -/
def State.engPut (s : State) (ag : Agent) (p : Spot) (bs : List Byte) : State :=
  match p with
  | .glob va pa leaf => s.writeLine ag leaf va pa 0 bs
  | .stash off => s.updCrew ag.uid fun cr => cr.stashPut [(off, bs)]
  | .win off _ _ _ =>
    let s := (s.engTake ag [] bs.length p).2
    s.updCrew ag.uid fun cr =>
      match cr.windowAt off with
      | some (i, w) => (cr.stashPut [(off, bs)]).dirtyWLine i w off bs.length
      | none => cr.stashPut [(off, bs)]

/-- Bytes that the thread of an agent writes at a checked place. -/
def State.engWrite (s : State) (ag : Agent) (p : Spot) (bs : List Byte) : State := (s.noteSpot ag p bs.length).engPut ag p bs

/-- Several accesses of a block read in order until one fails. -/
def State.engLoads (s : State) (ag : Agent) (served : List Served) (stash : Bool) (n : Nat) :
    List Nat → List Byte → (Halt ⊕ List Byte) × State
  | [], acc => (.inr acc, s)
  | a :: r, acc =>
    match s.engLoad ag served stash a n with
    | (.inl h, s') => (.inl h, s')
    | (.inr bs, s') => State.engLoads s' ag served stash n r (acc ++ bs)

/-- The places of several writes of a block, every one checked before any byte is written (13 R209, R210). -/
def State.engSpots (s : State) (ag : Agent) : List (Bool × Nat × Nat) → List Spot → (Halt ⊕ List Spot) × State
  | [], acc => (.inr acc, s)
  | (stash, a, n) :: r, acc =>
    match s.engSpot ag stash a n .write with
    | (.inl h, s') => (.inl h, s')
    | (.inr p, s') => State.engSpots s' ag r (acc ++ [p])

/-! ### Queues (11 R178) -/

/-- The issue numbers of the operations in a queue of a core: 0 to 3 copy, 4 matrix, 5 hod. -/
def Core.queueSeqs (c : Core) (q : Nat) : List Nat :=
  if q < 4 then (Store.get c.copyQ [] q).map fun x => x.seq
  else if q = 4 then c.matQ.map fun x => x.seq
  else c.hodQ.map fun x => x.seq

/-- A join is met: every operation issued before it to the queues it names has completed (11 R178). -/
def Core.joinMet (c : Core) (j : Join) : Bool :=
  (List.range 6).all fun q => !j.mask.getLsbD q || (c.queueSeqs q).all fun n => decide (j.seq ≤ n)

/-- The operation of a queue with an issue number may begin: no join issued before it to its queue is unmet (11 R178). -/
def Core.canBegin (c : Core) (q seq : Nat) : Bool :=
  c.joins.all fun j => !j.mask.getLsbD q || decide (seq < j.seq) || c.joinMet j

/-- Joins that are met are no more. -/
def Core.dropJoins (c : Core) : Core := { c with joins := c.joins.filter fun j => !c.joinMet j }

/-- A split that waits for a place in a queue of a core performs its instruction again. -/
def State.wakeEngine (s : State) (core q : Nat) : State :=
  let wake (sp : Split) : Split := if sp.st = .parked (.engine q) then { sp with st := .run } else sp
  s.setCore core ((s.core core).mapCrews fun cr => cr.mapWarps fun w => w.mapSplits wake)

/-- One engine operation of a crew fewer (03 R45). -/
def State.engineLess (s : State) (uid : Nat) : State := s.updCrew uid fun cr => { cr with engines := cr.engines - 1 }

/-- A double completion, or a completion that could not be delivered, counted on a core (13 R201, 19 R287). -/
def State.dblComp (s : State) (core : Nat) : State := s.countCore core 0x02 1

/-! ### Completion into a future (07 R104, 13 R201, R210) -/

/-- The error form of a status (07 R104). -/
def errWord (code index : Nat) : BitVec 64 := BitVec.ofNat 64 (2 ^ 31 + 2 ^ 24 * (code % 128) + index % 2 ^ 24)

/-- The status is an error form. -/
def isErr (v : BitVec 64) : Bool := v.getLsbD 31

/-- The status of an operation stopped by a halt: it waits, or is performed with an error at an index. -/
def haltSt (h : Halt) (index : Nat) : OpSt :=
  match h with
  | .wait w => .waiting w
  | .fault code => .performed (errWord code index) true

/-- How a completion into a future ends. -/
inductive FutEnd where
  | done
  /-- The future was resolved already (13 R201). -/
  | double
  /-- Its address fails the checks of R146. -/
  | lost
  | wait (w : Wait)
deriving DecidableEq, Repr

/-- The release of a completion, which its write of a future carries: at crew scope, of a raster batch at device scope; every read of the value
acquires (11 R177, 21 R313). -/
def State.endRel (s : State) (ag : Agent) (t : Thr) : Rel :=
  { clk := (s.ledger.before t).mark t (s.ledger.count + 1)
    scope := match t with
      | .unit _ => 3
      | _ => 2
    uid := some ag.uid, warp := none, any := true }

/-- A future resolved by an engine; address 0 names none (13 R200, R201, R207, R210). -/
def State.engFuture (s : State) (ag : Agent) (fut : Nat) (value : BitVec 64) : FutEnd × State :=
  if fut = 0 then (.done, s)
  else
    let r := s.engSpot ag false fut 8 .write
    match r.1 with
    | .inl (.wait w) => (.wait w, r.2)
    | .inr (.glob va pa leaf) =>
      if r.2.poisoned pa then (.lost, r.2)
      else
        let u := r.2.writeReq ag leaf va pa 0
        let u := match ag.thr with
          | some t => u.loosen ag.uid none pa 8 (u.ledger.unready t)
          | none => u
        let t := u.resolveFut false (ag.thr.map fun t => (t, [u.endRel ag t])) pa value.toNat
        (if t.1 then .done else .double, t.2)
    | _ => (.lost, r.2)

/-! ### Arrival at a crew bell (13 R210) -/

/-- One arrival of an engine at a crew bell, through the window that covers it (13 R199, R210, 11 R165): nothing where its address fails its checks, or
what it waits for. A bell that no `bell.init` has made, by its `EXP` or its bits [63:34], has the arrival all the same (DEDUCED,
notes/assumptions/46.md). -/
def State.engineBell (s : State) (ag : Agent) (off : Nat) (err : Bool) : FutEnd × State :=
  let r := s.engSpot ag true off 8 .write
  match r.1 with
  | .inl (.wait w) => (.wait w, r.2)
  | .inl (.fault _) => (.lost, r.2)
  | .inr p =>
    let key := r.2.spotKey ag p
    let a := (r.2.loosen ag.uid (some off) key 8 r.2.ledger.written).engTake ag [] 8 p
    match a.1 with
    | .inl (.wait w) => (.wait w, a.2)
    | .inl (.fault _) => (.lost, a.2)
    | .inr bs =>
      let old := natOf bs
      let new := bellArrive old 1 err
      let g := (a.2.ledger.send ag.thr.toList (.bell (stashKey ag.uid off) (bits old 32 32))).clear key 8
      let s := { a.2 with ledger := g }.engPut ag p (bytesLE 8 new)
      (.done, if bellFlipped old new then s.updCrew ag.uid fun cr => cr.wakeBell off new else s)

/-! ### The end of an operation (11 R177, R178) -/

/-- The queues that an operation of queue `q` with an issue number holds up by a join, with the join's number; itself first. -/
def Core.heldUp (c : Core) (q seq : Nat) : List (Nat × Nat) :=
  (q, 0) :: (c.joins.filter fun j => j.mask.getLsbD q && decide (seq < j.seq)).flatMap fun j =>
    ((List.range 6).filter fun k => j.mask.getLsbD k).map fun k => (k, j.seq)

/-- An operation of a queue has ended: it happens before those after it in its queue, and before those that a join keeps behind it (11 R178). -/
def State.opEnds (s : State) (core q seq : Nat) : State :=
  let c := s.core core
  let k := s.ledger.before (.op core seq)
  { s with
    ledger := (c.heldUp q seq).foldl (fun g h =>
      ((c.queueSeqs h.1).filter fun n => decide (seq < n ∧ h.2 ≤ n)).foldl (fun g n => g.give (.op core n) k) (g.give (.queue core h.1) k)) s.ledger }

/-- Operation `seq` issued to a queue of a core by threads: its first read acquires their release, and what the queue has ended (11 R177, R178). -/
def State.issues (s : State) (ts : List Thr) (core q seq : Nat) : State :=
  { s with ledger := (s.ledger.send ts (.op core seq)).give (.op core seq) (s.ledger.point (.queue core q)) }

/-- The queues of a `qfen` hand on to one another what they have ended (11 R178). -/
def State.joinQueues (s : State) (core : Nat) (mask : BitVec 6) : State :=
  let qs := (List.range 6).filter fun k => mask.getLsbD k
  let k := qs.foldl (fun k q => k.join (s.ledger.point (.queue core q))) {}
  { s with ledger := qs.foldl (fun g q => g.give (.queue core q) k) s.ledger }

end Sys2Proof.Machine
end

