-- ==== Sys2Proof/Machine/MemInstr.lean ====
section
/-! DEFINITION. The memory instructions (13 R182-R197) over the accesses of `Reach`. Every access of an instruction is performed in
the step in which it issues or, after a wait, goes on (notes/assumptions/2.md, 7.md). -/

namespace Sys2Proof.Machine

/-! ### Checks of an instruction's accesses (11 R145, R146, R157) -/

/-- One access that a lane makes: its address or offset and its size. -/
structure Want where
  lane : Nat
  addr : Nat
  size : Nat
deriving DecidableEq, Repr

/-- Where a checked access lands. -/
inductive Loc where
  | glob (va pa : Nat) (leaf : BitVec 64)
  /-- A stash offset in a window, with its translated global address (11 R165). -/
  | win (off va pa : Nat) (leaf : BitVec 64)
  | stash (off : Nat)
  | frame (lane off : Nat)
deriving DecidableEq, Repr

/-- How the checks of one access end. -/
inductive Placed where
  | loc (l : Loc)
  | page (va : Nat) (r : PageRef)
  | flip (page : Nat)
  | fault (code detail va : Nat)
deriving DecidableEq, Repr

/-- What distinguishes the checks of one instruction from another's: read or write, whether step 2 of R146 applies, whether a window is
refused (`atom` and `red`), and whether a window offset is translated even where its line is valid (`waita`). -/
structure Mode where
  acc    : Access
  align  : Bool := true
  atomic : Bool := false
  watch  : Bool := false
deriving DecidableEq, Repr

/-- The issuing crew as it stands in a state. -/
def Ctx.crewIn (c : Ctx) (s : State) : Crew := (s.crew c.core c.slot).getD c.cr

/-- `s` with the issuing crew changed. -/
def Ctx.setCrew (c : Ctx) (s : State) (f : Crew → Crew) : State := s.setCrew c.core c.slot (f (c.crewIn s))

/-- The address of a lane's access (11 R145). -/
def Ctx.addr (c : Ctx) (w : WM) (lane : Nat) : Nat :=
  if w.space = 0 ∨ w.space = 2 then (c.a lane + (BitVec.signExtend 64 w.off).toNat) % 2 ^ 64
  else (c.a lane + (BitVec.signExtend 32 w.off).toNat) % 2 ^ 32

/-- The address of one access of size `SIZE` in each lane given. -/
def Ctx.wants (c : Ctx) (w : WM) (lanes : List Nat) : List Want :=
  lanes.map fun l => { lane := l, addr := c.addr w l, size := 2 ^ w.size.toNat }

/-- Steps 1 and 2 and the page of a global address (11 R146). -/
def Ctx.placeGlobal (c : Ctx) (m : Mode) (s : State) (known : Known) (va size : Nat) (k : Nat → BitVec 64 → Loc) :
    Placed × Known × State :=
  if !canonical va then (.fault 0x1E 0 va, known, s)
  else if m.align && decide (va % size ≠ 0) then (.fault 0x06 (log2Size size) va, known, s)
  else
    let r := s.chkPage c.agent known va m.acc
    (match r.1 with
      | .ok pa leaf => .loc (k pa leaf)
      | .page ref => .page va ref
      | .flip p => .flip p
      | .fault code d => .fault code d va, r.2)

/-- The checks of one access (11 R144-R147, R165). -/
def Ctx.placeOne (c : Ctx) (space : Nat) (m : Mode) (s : State) (known : Known) (q : Want) : Placed × Known × State :=
  if space = 1 ∨ space = 3 then
    if m.align && decide (q.addr % q.size ≠ 0) then (.fault 0x06 (log2Size q.size) 0, known, s)
    else if (if space = 1 then c.cr.shape.stash else 4096) < q.addr + q.size then (.fault 0x08 0 0, known, s)
    else if space = 3 then (.loc (.frame q.lane q.addr), known, s)
    else
      match (c.crewIn s).windowAt q.addr with
      | none => (.loc (.stash q.addr), known, s)
      | some (_, w) =>
        if m.atomic then (.fault 0x08 0 (w.addr q.addr), known, s)
        else if m.acc = .read ∧ !m.watch ∧ (w.line (w.lineNo q.addr)).valid then (.loc (.stash q.addr), known, s)
        else c.placeGlobal m s known (w.addr q.addr) q.size fun pa leaf => .win q.addr (w.addr q.addr) pa leaf
  else c.placeGlobal m s known q.addr q.size fun pa leaf => .glob q.addr pa leaf

/-- The checks of all accesses, with one lookup for each page of a pass (11 R157). -/
def Ctx.placeAll (c : Ctx) (space : Nat) (m : Mode) : Nat → Known → State → List Want → List (Want × Placed) × State
  | _, _, s, [] => ([], s)
  | pass, known, s, q :: r =>
    let a := c.placeOne space m s (if q.lane / 32 = pass then known else []) q
    let t := Ctx.placeAll c space m (q.lane / 32) a.2.1 a.2.2 r
    ((q, a.1) :: t.1, t.2)

/-- The first fault of each lane that has one, in lane order (11 R146). -/
def placedFaults (l : List (Want × Placed)) : List LaneFault :=
  l.foldl (fun fs p => match p.2 with
    | .fault code detail va =>
      if fs.any fun f => decide (f.lane = p.1.lane) then fs else fs ++ [{ lane := p.1.lane, code, detail, va }]
    | _ => fs) []

/-- The page faults of the lanes. -/
def placedPages (l : List (Want × Placed)) : List (Nat × Nat × PageRef) :=
  l.filterMap fun p => match p.2 with
    | .page va r => some (p.1.lane, va, r)
    | _ => none

/-- Page faults reported, and the split parked on them (11 R153). -/
def Ctx.parkPages (c : Ctx) (s : State) (ps : List (Nat × Nat × PageRef)) (ans : Store Nat) : Res :=
  .park (s.report c.core (ps.map fun p => p.2.2)) (.page ps) ans

/-- An instruction whose accesses pass their checks goes on with `k`. Faults win over page faults, whose lanes are then dropped (11
R146, R153). -/
def Ctx.checked (c : Ctx) (space : Nat) (m : Mode) (s : State) (ws : List Want) (k : List (Want × Loc) → State → Res) : Res :=
  let r := c.placeAll space m 0 [] s ws
  let fs := placedFaults r.1
  if !fs.isEmpty then .fault r.2 fs
  else
    let ps := placedPages r.1
    if !ps.isEmpty then c.parkPages r.2 ps c.sp.ans
    else
      match r.1.findSome? fun p => match p.2 with
          | .flip n => some n
          | _ => none with
      | some n => .park (r.2.flipWait n).2 (r.2.flipWait n).1 c.sp.ans
      | none =>
        k (r.1.filterMap fun p => match p.2 with
          | .loc l => some (p.1, l)
          | _ => none) r.2

/-- The global virtual address of an access, through its window too; 0 where it reaches none (09 R106). -/
def Loc.va : Loc → Nat
  | .glob va _ _ => va
  | .win _ va _ _ => va
  | _ => 0

/-- The line of a global access. -/
def Loc.line : Loc → Option (Nat × BitVec 64)
  | .glob _ pa leaf => some (lineOf pa, leaf)
  | .win _ _ pa leaf => some (lineOf pa, leaf)
  | _ => none

/-- The line requests of an instruction whose policy R164 replaced, one for each distinct line of each pass, counted (11 R164). -/
def Ctx.countPol (c : Ctx) (cpol : Nat) (ls : List (Want × Loc)) (s : State) : State :=
  let keys := ls.foldl (fun (a : List (Nat × Nat)) p => match p.2.line with
    | some (n, leaf) =>
      if (effCpol leaf cpol).2 && !a.any fun k => decide (k = (p.1.lane / 32, n)) then a ++ [(p.1.lane / 32, n)] else a
    | none => a) []
  s.countCore c.core 0x01 keys.length

/-! ### Reads -/

/-- What the one request for a line of a pass gave, and for a fill the window and its line that took it (11 R157, R165). A generated line
may leave the cache again within the instruction. -/
structure LineGot where
  pass : Nat
  line : Nat
  win  : Option (Nat × Nat)
  rd   : Rd
deriving DecidableEq, Repr

/-- Bytes were read. -/
def Rd.isBytes : Rd → Bool
  | .bytes _ => true
  | _ => false

/-- Some bytes of what was read. -/
def Rd.slice (r : Rd) (o n : Nat) : Rd :=
  match r with
  | .bytes l => .bytes ((l.drop o).take n)
  | _ => r

/-- The line at `pa` as a pass has it: from its one request, made now where none of `seen` is for it (11 R157). -/
def Ctx.lineOnce (c : Ctx) (cpol : Nat) (l1 : Bool) (seen : List LineGot) (s : State) (pass pa : Nat) (leaf : BitVec 64) : Rd × State :=
  match seen.find? fun g => decide (g.pass = pass ∧ g.line = lineOf pa) with
  | some g => (g.rd, s)
  | none => s.readLine c.agent c.sp.served leaf (pa - pa % 128) 128 cpol l1

/-- A global access's bytes, from the line of its pass (11 R157). -/
def Ctx.readGlobal (c : Ctx) (cpol : Nat) (l1 : Bool) (seen : List LineGot) (s : State) (q : Want) (pa : Nat) (leaf : BitVec 64) :
    Rd × List LineGot × State :=
  let r := c.lineOnce cpol l1 seen s (q.lane / 32) pa leaf
  (r.1.slice (pa % 128) q.size, seen ++ [{ pass := q.lane / 32, line := lineOf pa, win := none, rd := r.1 }], r.2)

/-- A window line filled on its touch, once in a pass, and the access's bytes in the stash (11 R165, Fill). -/
def Ctx.readWindow (c : Ctx) (cpol : Nat) (seen : List LineGot) (s : State) (q : Want) (off pa : Nat) (leaf : BitVec 64) :
    Rd × List LineGot × State :=
  let here (s : State) : Rd := .bytes ((c.crewIn s).stashBytes off q.size)
  match (c.crewIn s).windowAt off with
  | none => (here s, seen, s)
  | some (i, w) =>
    let k := w.lineNo off
    if (w.line k).valid || seen.any fun g => decide (g.pass = q.lane / 32 ∧ g.win = some (i, k)) && g.rd.isBytes then (here s, seen, s)
    else
      let r := c.lineOnce cpol false seen s (q.lane / 32) pa leaf
      let seen := seen ++ [{ pass := q.lane / 32, line := lineOf pa, win := some (i, k), rd := r.1 }]
      match r.1 with
      | .bytes bs =>
        let s := c.setCrew r.2 fun cr => cr.fillWLine i w k (leaf.getLsbD 5) bs
        (here s, seen, s)
      | x => (x, seen, r.2)

/-! ### Undefined bytes (11 R175, R176) -/

/-- The bytes of the const space are read by the instruction (11 R144). -/
def Ctx.isConst (c : Ctx) : Bool :=
  match c.instr with
  | .ld _ w | .ldg4 _ w => decide (w.space = 2)
  | _ => false

/-- The physical address of a stash offset in a window, by the tables as they stand. -/
def Ctx.windowPa (c : Ctx) (s : State) (off : Nat) : Option Nat := s.stashPa c.agent (c.crewIn s) off

/-- A lane of the issuing warp as a thread (11 R166). -/
def Ctx.thr (c : Ctx) (lane : Nat) : Thr := .lane c.cr.uid c.wi lane

/-- The lanes of `Mask()` as threads. -/
def Ctx.threads (c : Ctx) : List Thr := c.mask.map c.thr

/-- The key of an access's first byte among memory events: its physical address, through a window too, or its place in the crew's stash; a frame
is seen by its own thread alone (11 R175). -/
def Ctx.evKey (c : Ctx) (s : State) (l : Loc) : Option Nat :=
  match l with
  | .glob _ pa _ => some pa
  | .win _ _ pa _ => some pa
  | .stash off => some (s.stashEv c.agent (c.crewIn s) off)
  | .frame _ _ => none

/-- The byte at a key that a lane reads with an access of `n` bytes at `a` is undefined: it was left so, it races, or it is read through the const
space and has been stored to since the job's launch (11 R175, R176; notes/assumptions/40.md). -/
def Ctx.undefinedByte (c : Ctx) (s : State) (lane a n key : Nat) : Bool :=
  s.ledger.races (c.thr lane) a n key || (c.isConst &&
    match Store.look (s.part c.cr.part).jobs c.cr.job with
    | some j => c.cr.fill.isNone && decide (j.stamp < s.ledger.lastOf key)
    | none => false)

/-- What a lane has read at a key, with free values of a draw for its undefined bytes: one value of each byte for every lane that reads it (11
R157, R176). -/
def Ctx.blur (c : Ctx) (draw : Nat) (s : State) (q : Want) (key : Nat) (r : Rd) : Rd :=
  match r with
  | .bytes bs => .bytes (((List.range bs.length).zip bs).map fun p =>
      if c.undefinedByte s q.lane key q.size (key + p.1) then Config.freeByte draw (key + p.1) else p.2)
  | _ => r

/-- The stash offset of an access that lies in the stash. -/
def Loc.off : Loc → Option Nat
  | .win off _ _ _ => some off
  | .stash off => some off
  | _ => none

/-- The bytes of an access that `bad` names by their keys take free values. -/
def Ctx.loosen (c : Ctx) (s : State) (q : Want) (l : Loc) (bad : Nat → Bool) : State :=
  match c.evKey s l with
  | some k => s.loosen c.cr.uid l.off k q.size bad
  | none => s

/-- The bytes that a lane's read-modify-write finds undefined take free values first (11 R176). -/
def Ctx.unsettle (c : Ctx) (s : State) (q : Want) (l : Loc) : State :=
  match c.evKey s l with
  | some k => c.loosen s q l (c.undefinedByte s q.lane k q.size)
  | none => s

/-- The scope at which an access acquires (`ORDER` bit 0) or releases (bit 1), 0 where it does not: in the stash itself, at most the crew (11 R170,
R175). -/
def Ctx.scopeOf (c : Ctx) (s : State) (w : WM) (bit : Nat) (l : Loc) : Nat :=
  if !w.order.getLsbD bit then 0
  else match l with
    | .stash off => if ((c.crewIn s).windowAt off).isSome then w.scope.toNat else Nat.min 2 w.scope.toNat
    | _ => w.scope.toNat

/-- The lanes' reads as memory events: they acquire as their order and what they read have it (11 R170, R177). -/
def Ctx.observe (c : Ctx) (w : WM) (ls : List (Want × Loc)) (s : State) : State :=
  { s with
    ledger := ls.foldl (fun g p => match c.evKey s p.2 with
      | some k => g.read (c.thr p.1.lane) (c.scopeOf s w 0 p.2) k p.1.size
      | none => g) s.ledger }

/-- The lanes' stores as memory events (11 R166, R170). -/
def Ctx.noteStores (c : Ctx) (w : WM) (ls : List (Want × Loc)) (s : State) : State :=
  { s with
    ledger := ls.foldl (fun g p => match c.evKey s p.2 with
      | some k => g.store c.cr.uid c.wi p.1.lane (c.scopeOf s w 1 p.2) k p.1.size fun _ => 0
      | none => g) s.ledger }

/-- A lane's read-modify-write as a memory event; one that writes nothing only reads (11 R170, 13 R189). -/
def Ctx.noteRmw (c : Ctx) (w : WM) (q : Want) (l : Loc) (writes : Bool) (s : State) : State :=
  { s with
    ledger := match c.evKey s l with
      | some k => s.ledger.rmw c.cr.uid c.wi q.lane (c.scopeOf s w 0 l) (c.scopeOf s w 1 l) k q.size writes
      | none => s.ledger }

/-- The lanes of `Mask()` release to a point (11 R177). -/
def Ctx.send (c : Ctx) (p : Point) (s : State) : State := { s with ledger := s.ledger.send c.threads p }

/-- The lanes of `Mask()` acquire from a point (11 R177). -/
def Ctx.meet (c : Ctx) (p : Point) (s : State) : State := { s with ledger := s.ledger.meet c.threads p }

/-- One read: its bytes, the lines that its instruction has been given by now, and the state after it. A line that the instruction was given
before it parked is not asked for again (11 R157). -/
def Ctx.readOne (c : Ctx) (cpol draw : Nat) (seen : List LineGot) (s : State) (q : Want) (l : Loc) : Rd × List LineGot × State :=
  let given (pa : Nat) : Option Got := c.sp.got.find? fun g => decide (g.pass = q.lane / 32 ∧ g.line = lineOf pa)
  let a : Rd × List LineGot × State := match l with
    | .glob _ pa leaf =>
      match given pa with
      | some g => (rdOf g.data pa q.size, seen, s)
      | none => c.readGlobal cpol true seen s q pa leaf
    | .win off _ pa leaf =>
      match given pa with
      | some { data := none, .. } => (.poison, seen, s)
      | some _ => (.bytes ((c.crewIn s).stashBytes off q.size), seen, s)
      | none => c.readWindow cpol seen s q off pa leaf
    | .stash off => (.bytes ((c.crewIn s).stashBytes off q.size), seen, s)
    | .frame lane off => (.bytes ((List.range q.size).map fun k => (c.crewIn s).frameByte c.wi lane (off + k)), seen, s)
  match c.evKey s l with
  | some k => (c.blur draw a.2.2 q k a.1, a.2)
  | none => a

/-- The reads of an instruction in order: what each gave, the lines given, and the state after them. -/
def Ctx.readEach (c : Ctx) (cpol draw : Nat) : List LineGot → State → List (Want × Loc) → List (Want × Rd) × List LineGot × State
  | seen, s, [] => ([], seen, s)
  | seen, s, (q, l) :: r =>
    let a := c.readOne cpol draw seen s q l
    let t := Ctx.readEach c cpol draw a.2.1 a.2.2 r
    ((q, a.1) :: t.1, t.2)

/-- The reads of an instruction, line by line in the order of R157, under one draw of free values. -/
def Ctx.readAll (c : Ctx) (cpol : Nat) (s : State) (ls : List (Want × Loc)) : List (Want × Rd) × List LineGot × State :=
  c.readEach cpol s.freeCtr [] { s with freeCtr := s.freeCtr + 1 } ls

/-- The lines that the accesses of an instruction have been given, as it parks on others: those it does not wait for, as they were given (11
R157). -/
def Ctx.gotLines (c : Ctx) (seen : List LineGot) : List Got :=
  seen.foldl (fun l g =>
    if l.any fun h => decide (h.pass = g.pass ∧ h.line = g.line) then l
    else match g.rd with
      | .bytes bs => l ++ [{ pass := g.pass, line := g.line, data := some bs }]
      | .poison => l ++ [{ pass := g.pass, line := g.line, data := none }]
      | _ => l) c.sp.got

/-- The issuing split with the lines that it has been given. -/
def Ctx.setGot (c : Ctx) (s : State) (l : List Got) : State :=
  let w := c.warpIn s
  match w.splitOf c.low with
  | some sp => c.setWarp s (w.replaceSplit c.low [{ sp with got := l }])
  | none => s

/-- The fill records that reads wait for. -/
def waitsOf (rs : List (Want × Rd)) : List (Nat × Nat × Nat) :=
  rs.filterMap fun r => match r.2 with
    | .wait h l b => some (h, l, b)
    | _ => none

/-- The number read by lane `l`, its reads lowest first. -/
def valueOf (rs : List (Want × Rd)) (l : Nat) : Nat :=
  natOf (rs.filterMap fun r => if r.1.lane = l then (match r.2 with
    | .bytes b => some b
    | _ => none) else none).flatten

/-- Lanes that read poison. -/
def poisonLanes (rs : List (Want × Rd)) : List Nat :=
  rs.foldl (fun a r => if r.2 = .poison then insertLane r.1.lane a else a) []

/-- A free value of `n` registers for a lane (notes/assumptions/4.md). -/
def freeVal (draw lane : Nat) : Nat → Nat
  | 0 => 0
  | n + 1 => (Config.freeWord draw (lane * 4 + n)).toNat + 2 ^ 32 * freeVal draw lane n

/-- Lanes whose poison mark is set (15 R227). -/
def Ctx.markPoison (c : Ctx) (ls : List Nat) (s : State) : State :=
  let w := c.warpIn s
  if ls.isEmpty then s else c.setWarp s { w with pmark := mergeLanes ls w.pmark }

/-- The faults that reads find after issue: 0x07, 0x0A or 0x0B of a block home, and 0x09 of poison but in a fill task (09 R107, 15
R227). -/
def Ctx.lateFaults (c : Ctx) (ls : List (Want × Loc)) (rs : List (Want × Rd)) : List LaneFault :=
  (ls.zip rs).foldl (fun fs p =>
    let add (code : Nat) : List LaneFault :=
      if fs.any fun f => decide (f.lane = p.1.1.lane) then fs else fs ++ [{ lane := p.1.1.lane, code, va := p.1.2.va }]
    match p.2.2 with
    | .poison => if c.cr.fill.isSome then fs else add 0x09
    | .late code => add code
    | _ => fs) []

/-- What reads leave when none waits: in a fill task the lanes that read poison are marked and hold a free value. -/
def Ctx.marked (c : Ctx) (rs : List (Want × Rd)) (s : State) : State :=
  if c.cr.fill.isSome ∧ !(poisonLanes rs).isEmpty then
    { c.markPoison (poisonLanes rs) s with freeCtr := s.freeCtr + 1 }
  else s

/-- The value of a lane after its reads: free where it read poison. -/
def Ctx.laneValue (c : Ctx) (rs : List (Want × Rd)) (draw n l : Nat) : Nat :=
  if c.cr.fill.isSome && (poisonLanes rs).any fun k => decide (k = l) then freeVal draw l n else valueOf rs l

/-! ### Ordering duties (11 R165, R170, R174, R176) -/

/-- What a failed write-back does to the instruction that asked for it: it acts as a store of the lowest lane of `Mask()` (13 R197). -/
def Ctx.backFail (c : Ctx) (s : State) (va : Nat) (x : Chk) : Res :=
  match x with
  | .page ref => c.parkPages s [(c.lowMask, va, ref)] c.sp.ans
  | .flip n => .park (s.flipWait n).2 (s.flipWait n).1 c.sp.ans
  | .fault code detail => .fault s [{ lane := c.lowMask, code, detail, va }]
  | .ok _ _ => .done s .next [] []

/-- A device- or system-scope release writes the crew's windows back first (11 R165). -/
def Ctx.released (c : Ctx) (need : Bool) (s : State) (k : State → Res) : Res :=
  if need then
    match s.writeBack c.agent false with
    | (none, s') => k s'
    | (some (va, x), s') => c.backFail s' va x
  else k s

/-- A device- or system-scope acquire invalidates the clean lines of the crew's windows (11 R165). -/
def Ctx.acquired (c : Ctx) (need : Bool) (s : State) : State := if need then c.setCrew s Crew.refresh else s

/-- Some access reaches global memory: in the global space, or through a window of the stash, where it has the encoded scope (11
R144, R165). -/
def Ctx.global (c : Ctx) (w : WM) (ls : List (Want × Loc)) (s : State) : Bool :=
  decide (w.space = 0) || ls.any fun p => match p.2 with
    | .win _ _ _ _ => true
    | .stash o => ((c.crewIn s).windowAt o).isSome
    | _ => false

/-- An access to global memory at device or system scope whose order releases. -/
def Ctx.relDev (c : Ctx) (w : WM) (ls : List (Want × Loc)) (s : State) : Bool :=
  w.order.getLsbD 1 && decide (3 ≤ w.scope.toNat) && c.global w ls s

/-- An access of `n` bytes at `off`, in a window over physical address `pa`, reads the value of a resolved future: the window's bytes are
those of the future since it was resolved, bit [63] clear (11 R165, R177, 13 R200). -/
def Ctx.windowReads (c : Ctx) (s : State) (dev : Bool) (off pa n : Nat) : Bool :=
  s.resolved.any fun p => decide (p.1 < pa + n) && decide (pa < p.1 + 8) && (!dev || p.2) &&
    decide (((c.crewIn s).stashByte (off + p.1 + 7 - pa)).toNat < 128)

/-- The lanes whose accesses read a future that is resolved; with `dev`, by an `fset` of device or system scope (11 R177). -/
def Ctx.futureLanes (c : Ctx) (s : State) (dev : Bool) (ls : List (Want × Loc)) : List Nat :=
  ls.filterMap fun p =>
    let reads := match p.2 with
      | .glob _ pa _ => futureIn s.resolved dev pa p.1.size
      | .win off _ pa _ => c.windowReads s dev off pa p.1.size
      | .stash off => (c.windowPa s off).any fun pa => c.windowReads s dev off pa p.1.size
      | .frame _ _ => false
    if reads then some p.1.lane else none

/-- An access to global memory at device or system scope whose order acquires. -/
def Ctx.acqDev (c : Ctx) (w : WM) (ls : List (Want × Loc)) (s : State) : Bool :=
  w.order.getLsbD 0 && decide (3 ≤ w.scope.toNat) && c.global w ls s

/-- The accesses that ask a home for their line: not those to a window line that is valid (11 R164, R165). -/
def Ctx.asking (c : Ctx) (s : State) (ls : List (Want × Loc)) : List (Want × Loc) :=
  ls.filter fun p => match p.2 with
    | .win off _ _ _ => (match (c.crewIn s).windowAt off with
      | some (_, v) => !(v.line (v.lineNo off)).valid
      | none => true)
    | _ => true

/-- Strong accesses in mixed-size debug mode: fault 0x17 of the lanes that overlap a record with another address or size, or the
instruction goes on (11 R176). -/
def Ctx.unmixed (c : Ctx) (strong : Bool) (ls : List (Want × Loc)) (s : State) (k : Res) : Res :=
  let fs : List LaneFault := if strong then ls.filterMap fun p => match p.2 with
    | .glob va pa _ => if s.mixed c.cr.part pa p.1.size then some { lane := p.1.lane, code := 0x17, va } else none
    | _ => none else []
  if fs.isEmpty then k else .fault s fs

/-- The records of strong accesses (11 R176). -/
def Ctx.recordMixed (c : Ctx) (strong : Bool) (ls : List (Want × Loc)) (s : State) : State :=
  if strong then ls.foldl (fun s p => match p.2 with
    | .glob _ pa _ => s.setMixed c.cr.part pa p.1.size
    | _ => s) s else s

/-! ### `ld` and `ldg4` (13 R185, R187, R188) -/

/-- A load: reads, records, late faults, and `val` of each lane's number written to D. -/
def Ctx.loadInto (c : Ctx) (w : WM) (n : Nat) (val : Nat → Nat) (ls : List (Want × Loc)) (s : State) : Res :=
  let strong := decide (w.scope ≠ 0) && decide (w.space = 0)
  c.unmixed strong ls s <|
    let r := c.readAll w.cpol.toNat s ls
    let t := r.2.2
    let ws := waitsOf r.1
    if !ws.isEmpty then .park (c.setGot t (c.gotLines r.2.1)) (.fill ws) c.sp.ans
    else
      let draw := t.freeCtr
      let need := c.acqDev w ls s || !(c.futureLanes t true ls).isEmpty
      let s := c.acquired need (c.recordMixed strong ls (c.countPol w.cpol.toNat ls (c.marked r.1 t)))
      let s := c.observe w ls s
      .done (c.setWarp s (c.put n (fun l => val (c.laneValue r.1 draw n l)) (c.warpIn s))) .next (c.lateFaults ls r.1) []

/-- The value of `ld` in its registers: 8 and 16 bits extended (13 R185). -/
def extendLoad (w : WM) (x : Nat) : Nat :=
  match w.size.toNat with
  | 0 => if w.sign then toBits 32 (signExt x 8) else x % 2 ^ 8
  | 1 => if w.sign then toBits 32 (signExt x 16) else x % 2 ^ 16
  | _ => x

/-- `ld`: every lane of `Mask()`, or the lowest for a scalar destination (13 R185). -/
def ldBody (w : WM) (c : Ctx) (s : State) : Res :=
  let lanes := match c.x.d with
    | .s _ => c.mask.take 1
    | _ => c.mask
  c.checked w.space.toNat { acc := .read } s (c.wants w lanes) fun ls s =>
    c.loadInto w (sizeRegs w.size.toNat) (extendLoad w) ls s

/-- `ld` (13 R185). -/
def execLd (x : Head) (w : WM) (s : State) : Host.Outcome State Fault Refusal := issue (.ld x w) s noBad (ldBody w)

/-- `Fold` (13 R188). -/
def foldCoord (c : Int) (n mode : Nat) : Nat :=
  match mode with
  | 0 => (c % (n : Int)).toNat
  | 1 => (clamp 0 ((n : Int) - 1) c).toNat
  | _ =>
    let q := (c % (2 * n : Int)).toNat
    if n ≤ q then 2 * n - 1 - q else q

/-- `Offset` of a texel of 2^`e` bytes on a surface 2^`lw` texels wide (13 R187). -/
def texelOffset (e lw x y : Nat) : Nat :=
  let m := bits x 0 0 + 2 * bits y 0 0 + 4 * bits x 1 1 + 8 * bits y 1 1 + 16 * bits x 2 2 + 32 * bits y 2 2
  2 ^ e * (64 * (y / 8 * 2 ^ (lw - 3) + x / 8) + m)

/-- The shape operand is one of R187. -/
def shapeOk (c : Nat) : Bool :=
  decide (c < 256) && decide (3 ≤ c % 16) && decide (c % 16 ≤ 14) && decide (3 ≤ c / 16) && decide (c / 16 ≤ 14)

/-- The four texels of a lane (13 R188). -/
def Ctx.texels (c : Ctx) (w : WM) (sub l : Nat) : List Want :=
  let u := signExt (c.b l) 16
  let v := signExt (c.b l / 2 ^ 16) 16
  let lw := c.c l % 16
  let lh := c.c l / 16
  (List.range 4).map fun k =>
    let x := foldCoord (u + (k % 2 : Nat)) (2 ^ lw) (sub % 4)
    let y := foldCoord (v + (k / 2 : Nat)) (2 ^ lh) (sub / 4)
    { lane := l, addr := (c.addr w l + texelOffset w.size.toNat lw x y) % 2 ^ 64, size := 2 ^ w.size.toNat }

/-- The faults of `ldg4` before translation: the shape, canonical texel addresses, and a base that is a multiple of 128 (13 R187,
R188). -/
def Ctx.texelFault (c : Ctx) (w : WM) (sub l : Nat) : Option LaneFault :=
  if !shapeOk (c.c l) then some { lane := l, code := 0x01 }
  else
    match (c.texels w sub l).find? fun q => !canonical q.addr with
    | some q => some { lane := l, code := 0x1E, va := q.addr }
    | none => if c.addr w l % 128 ≠ 0 then some { lane := l, code := 0x06, detail := 7, va := c.addr w l } else none

/-- `ldg4` (13 R188). -/
def ldg4Body (sub : Nat) (w : WM) (c : Ctx) (s : State) : Res :=
  let own := c.mask.filterMap (c.texelFault w sub)
  let ws := (c.mask.map (c.texels w sub)).flatten
  if own.isEmpty then
    c.checked w.space.toNat { acc := .read } s ws fun ls s => c.loadInto w (2 ^ w.size.toNat) (fun v => v) ls s
  else
    let good := ws.filter fun q => !own.any fun f => decide (f.lane = q.lane)
    let r := c.placeAll w.space.toNat { acc := .read } 0 [] s good
    .fault r.2 (mergeFaults own (placedFaults r.1))

/-- `ldg4` (13 R188). -/
def execLdg4 (x : Head) (w : WM) (s : State) : Host.Outcome State Fault Refusal :=
  issue (.ldg4 x w) s noBad (ldg4Body x.sub.toNat w)

/-! ### `st` (13 R186) -/

/-- The requests of writes, one for each distinct line of a pass, in the order of R157. -/
def Ctx.writeReqs (c : Ctx) (cpol : Nat) : List (Nat × Nat) → State → List (Want × Loc) → State
  | _, s, [] => s
  | seen, s, (q, l) :: r =>
    match l with
    | .glob va pa leaf =>
      let key := (q.lane / 32, lineOf pa)
      if seen.any fun k => decide (k = key) then Ctx.writeReqs c cpol seen s r
      else Ctx.writeReqs c cpol (key :: seen) (s.writeReq c.agent leaf va pa cpol) r
    | _ => Ctx.writeReqs c cpol seen s r

/-- The window lines that stores touch are filled (11 R165); a poisoned line is left as it is. -/
def Ctx.touchWindows (c : Ctx) (cpol : Nat) (s : State) (ls : List (Want × Loc)) : State :=
  (c.readAll cpol s (ls.filter fun p => match p.2 with
    | .win _ _ _ _ => true
    | _ => false)).2.2

/-- The bytes of lanes that lie in the stash, by offset. -/
def stashPart (ls : List (Want × Loc × List Byte)) : List (Nat × List Byte) :=
  ls.filterMap fun p => match p.2.1 with
    | .stash o => some (o, p.2.2)
    | .win o _ _ _ => some (o, p.2.2)
    | _ => none

/-- The bytes of lanes that lie in global memory. -/
def globPart (ls : List (Want × Loc × List Byte)) : List (Nat × List Byte) :=
  ls.filterMap fun p => match p.2.1 with
    | .glob _ pa _ => some (pa, p.2.2)
    | _ => none

/-- Stores of lanes, each with its offset and size, poison the fill window where a lane's poison mark is set (15 R227). -/
def Ctx.dirtyFill (c : Ctx) (ls : List (Nat × Nat × Nat)) (s : State) : State :=
  match (c.crewIn s).fill with
  | none => s
  | some f =>
    let bad := ls.any fun p => decide (p.2.1 < f.size) && (c.warpIn s).pmark.any fun k => decide (k = p.1)
    c.setCrew s fun cr => { cr with fill := some { f with dirty := f.dirty || bad } }

/-- The bytes of one pass stored: where two lanes write a byte, the higher lane's is stored (11 R157). -/
def Ctx.putPass (c : Ctx) (ls : List (Want × Loc × List Byte)) (s : State) : State :=
  let s := s.storeMany (globPart ls)
  let s := if (stashPart ls).isEmpty then s else c.setCrew s fun cr => cr.stashPut (stashPart ls)
  let s := ls.foldl (fun s p => match p.2.1 with
    | .win o _ _ _ => c.setCrew s fun cr =>
        match cr.windowAt o with
        | some (i, w) => cr.dirtyWLine i w o p.2.2.length
        | none => cr
    | .frame lane o => c.setCrew s fun cr => cr.framePut c.wi lane o p.2.2
    | _ => s) s
  c.dirtyFill (ls.filterMap fun p => match p.2.1 with
    | .stash o => some (p.1.lane, o, p.2.2.length)
    | .win o _ _ _ => some (p.1.lane, o, p.2.2.length)
    | _ => none) s

/-- The bytes of every pass stored, in order. -/
def Ctx.putAll (c : Ctx) (ls : List (Want × Loc × List Byte)) (s : State) : State :=
  (List.range 4).foldl (fun s p => c.putPass (ls.filter fun q => decide (q.1.lane / 32 = p)) s) s

/-- `st` (13 R186). -/
def stBody (w : WM) (c : Ctx) (s : State) : Res :=
  let strong := decide (w.scope ≠ 0) && decide (w.space = 0)
  c.checked w.space.toNat { acc := .write } s (c.wants w c.mask) fun ls s =>
    c.unmixed strong ls s <|
      c.released (c.relDev w ls s && !c.mask.isEmpty) s fun s =>
        let s := c.countPol w.cpol.toNat (c.asking s ls) s
        let s := c.touchWindows w.cpol.toNat (c.writeReqs w.cpol.toNat [] s ls) ls
        let s := c.putAll (ls.map fun p => (p.1, p.2, bytesLE p.1.size (c.b p.1.lane))) (c.noteStores w ls s)
        .done (c.recordMixed strong ls s) .next [] []

/-- `st` (13 R186). -/
def execSt (x : Head) (w : WM) (s : State) : Host.Outcome State Fault Refusal := issue (.st x w) s noBad (stBody w)

/-! ### `atom` and `red` (13 R189-R191) -/

/-- The new value of a read-modify-write of `n` bits, none where `cas` writes nothing (13 R189). -/
def atomNew (op : Nat) (sg : Bool) (n old b c : Nat) : Option Nat :=
  let less (x y : Nat) : Bool := if sg then decide (signExt x n < signExt y n) else decide (x < y)
  match op with
  | 0 => some ((old + b) % 2 ^ n)
  | 1 => some (if less b old then b else old)
  | 2 => some (if less old b then b else old)
  | 3 => some (old &&& b)
  | 4 => some (old ||| b)
  | 5 => some (old ^^^ b)
  | 6 => some b
  | 7 => if old = b then some c else none
  | _ => some (Nat.min old b)

/-- One lane's read-modify-write: its old value, none where the line is poisoned (13 R190). Bytes that it finds undefined take free values
first; a `cas` that fails writes nothing (13 R189). -/
def Ctx.rmw (c : Ctx) (w : WM) (op : Nat) (sg : Bool) (q : Want) (l : Loc) (s : State) : Option Nat × State :=
  let new (old : Nat) : Option (List Byte) :=
    (atomNew op sg (8 * q.size) old (c.b q.lane) (c.c q.lane)).map fun v => bytesLE q.size v
  match l with
  | .glob _ pa _ =>
    if s.poisoned pa then (none, s)
    else
      let s := c.unsettle s q l
      let old := s.natAt pa q.size
      let s := c.noteRmw w q l (new old).isSome s
      (some old, match new old with
        | some bs => s.storeRaw pa bs
        | none => s)
  | .stash off =>
    let s := c.unsettle s q l
    let old := (c.crewIn s).stashNat off q.size
    let s := c.noteRmw w q l (new old).isSome s
    (some old, match new old with
      | some bs => c.dirtyFill [(q.lane, off, q.size)] (c.setCrew s fun cr => cr.stashPut [(off, bs)])
      | none => s)
  | _ => (none, s)

/-- The lanes' read-modify-writes in increasing lane order: their old values. -/
def Ctx.rmwAll (c : Ctx) (w : WM) (op : Nat) (sg : Bool) : State → List (Want × Loc) → List (Nat × Option Nat) × State
  | s, [] => ([], s)
  | s, (q, l) :: r =>
    let a := c.rmw w op sg q l s
    let t := Ctx.rmwAll c w op sg a.2 r
    ((q.lane, a.1) :: t.1, t.2)

/-- `atom` and `red`: `red` writes no register and raises no fault for a poisoned line (13 R190, R191). In a fill task a poisoned line
gives a free value and the poison mark (15 R227). -/
def atomBody (red : Bool) (sub : Nat) (w : WM) (c : Ctx) (s : State) : Res :=
  c.checked w.space.toNat { acc := .write, atomic := true } s (c.wants w c.mask) fun ls s =>
    c.unmixed (decide (w.space = 0)) ls s <|
      c.released (c.relDev w ls s && !c.mask.isEmpty) s fun s =>
        let r := c.rmwAll w (sub % 16) (decide (16 ≤ sub)) (c.writeReqs w.cpol.toNat [] s ls) ls
        let s := c.acquired (c.acqDev w ls s) (c.recordMixed (decide (w.space = 0)) ls (c.countPol w.cpol.toNat ls r.2))
        if red then .done s .next [] []
        else
          let bad := r.1.filterMap fun p => if p.2.isNone then some p.1 else none
          let n := sizeRegs w.size.toNat
          let draw := s.freeCtr
          let val (l : Nat) : Nat := match r.1.find? fun p => decide (p.1 = l) with
            | some (_, some v) => v
            | _ => freeVal draw l n
          let s := if bad.isEmpty then s else { s with freeCtr := s.freeCtr + 1 }
          let s := if c.cr.fill.isSome then c.markPoison bad s else s
          .done (c.setWarp s (c.put n val (c.warpIn s))) .next
            (if c.cr.fill.isSome then [] else bad.map fun l => { lane := l, code := 0x09, va := c.addr w l }) []

/-- `atom` (13 R190). -/
def execAtom (x : Head) (w : WM) (s : State) : Host.Outcome State Fault Refusal :=
  issue (.atom x w) s noBad (atomBody false x.sub.toNat w)

/-- `red` (13 R191). -/
def execRed (x : Head) (w : WM) (s : State) : Host.Outcome State Fault Refusal :=
  issue (.red x w) s noBad (atomBody true x.sub.toNat w)

/-! ### `prefetch` and `cflush` (13 R192, R193) -/

/-- `prefetch`: a lane that fails a check or takes a page fault is dropped; a generated block is asked for without parking (13 R192). -/
def prefetchBody (w : WM) (c : Ctx) (s : State) : Res :=
  let r := c.placeAll w.space.toNat { acc := .read, align := false } 0 [] s (c.wants w c.mask)
  let ls := r.1.filterMap fun p => match p.2 with
    | .loc l => some (p.1, l)
    | _ => none
  .done (c.countPol w.cpol.toNat ls (c.readAll w.cpol.toNat r.2 ls).2.2) .next [] []

/-- `prefetch` (13 R192). -/
def execPrefetch (x : Head) (w : WM) (s : State) : Host.Outcome State Fault Refusal :=
  issue (.prefetch x w) s noBad (prefetchBody w)

/-- A resident line written back; with `keep` it stays, pinned it leaves when its last pin goes, otherwise it leaves now (13 R193). -/
def State.flushLine (s : State) (pa : Nat) (keep : Bool) : State :=
  match s.wayOf pa, s.lineAt pa with
  | some w, some l =>
    let h := homeOf pa
    let n := setOf pa
    let s := if l.dirty then s.grant pa l.tag else s
    let set := Store.get (s.slice h).sets {} n
    let s := s.setSet h n
      { set with ways := Store.put set.ways w { l with dirty := false, leave := l.leave || (!keep && !l.pins.isEmpty) } }
    if keep || !l.pins.isEmpty then s else s.dropWay h n w
  | _, _ => s

/-- `cflush` (13 R193). -/
def cflushBody (w : WM) (c : Ctx) (s : State) : Res :=
  c.checked 0 { acc := .read, align := false } s (c.wants w c.mask) fun ls s =>
    .done (ls.foldl (fun s p => match p.2 with
      | .glob _ pa _ => s.flushLine pa (decide (w.cpol = 2))
      | _ => s) s) .next [] []

/-- `cflush` (13 R193). -/
def execCflush (x : Head) (w : WM) (s : State) : Host.Outcome State Fault Refusal := issue (.cflush x w) s noBad (cflushBody w)

/-! ### `fence`, `swb`, `smap` (13 R194, R196, R197) -/

/-- Results of long operations of the split's lanes that have not returned. -/
def Ctx.waiting (c : Ctx) : Bool := c.w.pends.any fun p => p.lanes.any fun l => c.sp.lanes.any fun m => decide (m = l)

/-- A fence of the lanes of `Mask()` as a memory event (11 R170). -/
def Ctx.fenced (c : Ctx) (w : WM) (s : State) : State :=
  { s with
    ledger := c.threads.foldl (fun g t => g.fence t w.scope.toNat (w.order.getLsbD 0) (w.order.getLsbD 1)) s.ledger }

/-- `fence`: an acquire waits for the values of earlier loads; at device or system scope it writes windows back, and an acquire invalidates
their clean lines (13 R194, 11 R165). -/
def fenceBody (w : WM) (c : Ctx) (s : State) : Res :=
  let dev := decide (3 ≤ w.scope.toNat)
  if c.mask.isEmpty then .done s .next [] []
  else if w.order.getLsbD 0 && c.waiting then .park s .results c.sp.ans
  else c.released dev s fun s => .done (c.acquired (w.order.getLsbD 0 && dev) (c.fenced w s)) .next [] []

/-- `fence` (13 R194). -/
def execFence (x : Head) (w : WM) (s : State) : Host.Outcome State Fault Refusal := issue (.fence x w) s noBad (fenceBody w)

/-- `swb` (13 R197). -/
def execSwb (x : Head) (w : WM) (s : State) : Host.Outcome State Fault Refusal :=
  issue (.swb x w) s noBad fun c s => c.released (!c.mask.isEmpty) s fun s => .done s .next [] []

/-- Two ranges of stash offsets overlap. -/
def overlap (a n b m : Nat) : Bool := decide (a < b + m) && decide (b < a + n)

/-- The fault of `smap`, if its operands have one, in the order of its description (13 R196, 07 R82). -/
def Ctx.smapFault (c : Ctx) (cr : Crew) (va off len : Nat) : Option LaneFault :=
  let f (code detail : Nat) : Option LaneFault := some { lane := c.lowMask, code, detail, va }
  if va % 128 ≠ 0 ∨ off % 128 ≠ 0 ∨ len % 128 ≠ 0 then f 0x06 7
  else if (if len = 0 then !cr.windows.any fun w => decide (w.off = off)
    else decide (65536 < len ∨ c.cr.shape.stash < off + len ∨ 8 ≤ cr.windows.length) ||
      cr.windows.any fun w => overlap off len w.off w.len) then f 0x08 0
  else if !canonical va then f 0x1E 0
  else none

/-- `smap`: a window mapped, or the one at B written back and unmapped (13 R196). -/
def smapBody (w : WM) (c : Ctx) (s : State) : Res :=
  if c.mask.isEmpty then .done s .next [] []
  else
    let va := c.addr w c.lowMask
    let off := c.b c.lowMask
    let len := c.c c.lowMask
    let cr := c.crewIn s
    match c.smapFault cr va off len with
    | some f => .fault s [f]
    | none =>
      if len = 0 then
        match ((List.range cr.windows.length).zip cr.windows).find? fun p => decide (p.2.off = off) with
        | none => .done s .next [] []
        | some (i, _) =>
          match s.writeBackLines c.agent false (cr.dirtyLines.filter fun l => decide (l.1 = i)) with
          | (some (va, x), s') => c.backFail s' va x
          | (none, s') =>
            .done (c.setCrew s' fun cr => { cr with windows := cr.windows.filter fun x => decide (x.off ≠ off) }) .next [] []
      else .done (c.setCrew s fun cr => { cr with windows := cr.windows ++ [{ va, off, len, lines := [] }] }) .next [] []

/-- `smap` (13 R196). -/
def execSmap (x : Head) (w : WM) (s : State) : Host.Outcome State Fault Refusal := issue (.smap x w) s noBad (smapBody w)

/-! ### `waita` (13 R195) -/

/-- The watch of a lane: at its line's home, or in the stash. -/
def watchOf (c : Ctx) (sub : Nat) (q : Want) (l : Loc) : Watch :=
  let mk (stash : Bool) (addr : Nat) : Watch :=
    { lane := q.lane, va := l.va, stash, addr, size := q.size, cond := sub % 8, signed := decide (8 ≤ sub), value := c.b q.lane }
  match l with
  | .glob _ pa _ => mk false pa
  | .win _ _ pa _ => mk false pa
  | .stash o => mk true o
  | .frame _ o => mk true o

/-- A `waita` that acquires at device or system scope, of global memory or through a window (11 R165, R170). -/
def Ctx.watchAcq (c : Ctx) (w : WM) (s : State) : Bool :=
  w.order.getLsbD 0 && decide (3 ≤ w.scope.toNat) &&
    (decide (w.space = 0) || c.mask.any fun l => ((c.crewIn s).windowAt (c.addr w l)).isSome)

/-- Where the lanes of a `waita` look, by the tables as they stand. -/
def Ctx.watched (c : Ctx) (w : WM) (s : State) : List (Want × Loc) :=
  (c.placeAll w.space.toNat { acc := .read, watch := true } 0 [] s (c.wants w c.mask)).1.filterMap fun p => match p.2 with
    | .loc l => some (p.1, l)
    | _ => none

/-- `waita`: each lane not yet met reads; a read that fails is a fault of the `waita` itself; lanes not met watch (13 R195). A section is
tested at the issue alone (21 R304). -/
def waitaBody (sub : Nat) (w : WM) (c : Ctx) (s : State) : Res :=
  if c.again.isNone && !c.w.secs.isEmpty && !c.mask.isEmpty then .fault s [{ lane := c.lowMask, code := 0x0D }]
  else
    let n := sizeRegs w.size.toNat
    let left := c.mask.filter fun l => (Store.look c.sp.ans l).isNone
    c.checked w.space.toNat { acc := .read, watch := true } s (c.wants w left) fun ls s =>
      let r := c.readAll 0 s ls
      let draw := r.2.2.freeCtr
      let s := c.marked r.1 r.2.2
      let fs := c.lateFaults ls r.1
      if !fs.isEmpty then .fault s fs
      else
        let isWait (l : Nat) : Bool := r.1.any fun p => decide (p.1.lane = l) && (match p.2 with
          | .wait _ _ _ => true
          | _ => false)
        let val (l : Nat) : Nat := c.laneValue r.1 draw n l
        let met := left.filter fun l => !isWait l && condMet (sub % 8) (decide (8 ≤ sub)) (32 * n) (val l) (c.b l)
        let ans := met.foldl (fun m l => Store.put m l (val l)) c.sp.ans
        let ws := waitsOf r.1
        let un := ls.filter fun p => !met.any fun l => decide (l = p.1.lane)
        let s := c.acquired ((c.futureLanes s true ls).any fun l => met.any fun m => decide (m = l)) s
        if !ws.isEmpty then .park s (.fill ws) ans
        else if !un.isEmpty then .park s (.watch (un.map fun p => watchOf c sub p.1 p.2)) ans
        else
          let s := c.acquired (c.watchAcq w s) (c.observe w (c.watched w s) s)
          .done (c.setWarp s (c.put n (fun l => Store.get ans 0 l) (c.warpIn s))) .next [] []

/-- `waita` (13 R195). -/
def execWaita (x : Head) (w : WM) (s : State) : Host.Outcome State Fault Refusal :=
  issue (.waita x w) s noBad (waitaBody x.sub.toNat w)

end Sys2Proof.Machine
end

