-- ==== Sys2Proof/Machine/Gen.lean ====
section
/-! DEFINITION. Generator-backed memory: `fdone`, `fpois`, and the steps of fill records and fill tasks (15 R215-R228); line requests of a
core on their own (11 R159-R164). -/

namespace Sys2Proof.Machine

/-! ### Waits on records -/

/-- A wait with the references `gone` removed: none where nothing is left to wait for. -/
def Wait.dropFill (gone : List FillRef) (w : Wait) : Option Wait :=
  match w with
  | .fill l =>
    let rest := l.filter fun r => !gone.any fun g => decide (g = r)
    if rest.isEmpty then none else some (.fill rest)
  | w => some w

/-- A wait that names one of some records. -/
def Wait.onFill (gone : List FillRef) (w : Wait) : Bool :=
  match w with
  | .fill l => l.any fun r => gone.any fun g => decide (g = r)
  | _ => false

/-- A split whose records are released keeps the block it was served, if it was served one, and goes on when it waits for no other (15
R219). -/
def Split.release (gone : List FillRef) (b : Option Served) (sp : Split) : Split :=
  match sp.st with
  | .parked w =>
    if w.onFill gone then
      { sp with
        served := sp.served ++ b.toList
        st := match w.dropFill gone with
          | some r => .parked r
          | none => .run }
    else sp
  | _ => sp

/-- The status of an operation after a release. -/
def OpSt.release (gone : List FillRef) (st : OpSt) : OpSt :=
  match st with
  | .waiting w => if w.onFill gone then (match w.dropFill gone with
      | some r => .waiting r
      | none => .queued) else st
  | st => st

/-- An operation waits for one of some records. -/
def OpSt.onFill (gone : List FillRef) (st : OpSt) : Bool :=
  match st with
  | .waiting w => w.onFill gone
  | _ => false

/-- A split is parked on one of some records. -/
def Split.onFill (gone : List FillRef) (sp : Split) : Bool :=
  match sp.st with
  | .parked w => w.onFill gone
  | _ => false

/-- A crew whose splits are released; where they are served a block, their resumption acquires at device scope (15 R219, 11 R165, R177). -/
def Crew.releaseFill (gone : List FillRef) (b : Option Served) (cr : Crew) : Crew :=
  let acq := b.isSome && cr.warps.any fun w => w.2.allSplits.any fun sp => sp.onFill gone
  let cr := cr.mapWarps fun w => w.mapSplits fun sp => sp.release gone b
  if acq then cr.refresh else cr

/-- The lanes of the splits that are parked on some records, as threads. -/
def State.fillThreads (s : State) (gone : List FillRef) : List Thr :=
  s.allCrews.flatMap fun cr => cr.warps.flatMap fun w => (w.2.allSplits.filter fun sp => sp.onFill gone).flatMap fun sp =>
    sp.lanes.map fun l => .lane cr.uid w.1 l

/-- Every access parked on some records released, with the block if it is served one, whose `fdone` the lanes acquire (15 R219, 11 R177). -/
def State.releaseFill (s : State) (gone : List FillRef) (b : Option Served) : State :=
  let s := match b with
    | some x => { s with ledger := s.ledger.meet (s.fillThreads gone) (.block x.block) }
    | none => s
  let s := s.mapCrews (Crew.releaseFill gone b)
  let srv (st : OpSt) (l : List Served) : List Served := if st.onFill gone then l ++ b.toList else l
  { s with
    cores := Store.mapV s.cores fun _ c =>
      { c with
        copyQ := Store.mapV c.copyQ fun _ q => q.map fun op =>
          { op with st := op.st.release gone, served := srv op.st op.served }
        hodQ := c.hodQ.map fun op => { op with st := op.st.release gone, served := srv op.st op.served } }
    raster := Store.mapV s.raster fun _ u =>
      { u with batches := u.batches.map fun x => { x with st := x.st.release gone, served := srv x.st x.served } } }

/-! ### FILL_RECORD_WAIT_SERVED (15 R217, 23 R323) -/

/-- The access of a level that has waited longest at a block home gets the next free record of that level; where its descriptor covers the block
no more it asks again, and takes its fault (15 R213, R214, R217). -/
def State.serveWait (s : State) (home level : Nat) : State :=
  let sl := s.slice home
  match sl.fwaits.find? fun w => decide (w.level = level) && !(s.part w.part).geninv with
  | none => s
  | some w =>
    if 16 ≤ (sl.fills.filter fun r => decide (r.level = level)).length then s
    else
      let rest := sl.fwaits.erase w
      let s := s.setSlice home { sl with fwaits := rest }
      match s.descNow w with
      | some d => (s.createFill home w d).joinWaits home level w.block
      | none =>
        if rest.any fun x => decide (x.block = w.block ∧ x.level = level) then s else s.releaseFill [(home, level, w.block)] none

/-- FILL_RECORD_WAIT_SERVED (15 R217). -/
def execFillRecordWaitServed (slice level : Nat) (s : State) : Host.Outcome State Fault Refusal := .next (s.serveWait slice level)

/-! ### FILL_TASK_PLACE (15 R218, R220) -/

/-- The first core in ring order from a block home that can take a fill task of a level (15 R218). -/
def State.fillCore (s : State) (home part level : Nat) : Option Nat :=
  ((List.range 96).map fun k => (home + k) % 96).find? fun n =>
    let c := s.core n
    decide (c.part = some part) && c.moving.isNone && (Store.look c.crews (28 + level)).isNone

/-- The scalar registers of a fill task (15 R220). -/
def fillRegs (g : GenFields) (r : FillRec) : Store Word :=
  let i := (r.block - g.gbase) / g.bsz
  let va := g.vbase + i * g.bsz
  let src := (g.sbase + i * g.stride) % 2 ^ 64
  let put (m : Store Word) (k x : Nat) : Store Word := Store.set m 0 k (BitVec.ofNat 32 x)
  put (put (put (put (put (put (put (put [] 0 va) 1 (va / 2 ^ 32)) 2 src) 3 (src / 2 ^ 32)) 4 g.param) 5 (g.param / 2 ^ 32)) 6 r.gen)
    7 r.level

/-- The fill task of a record (15 R220). -/
def fillCrew (uid home : Nat) (r : FillRec) : Crew :=
  let g := genFields r.desc.bytes
  { uid, kind := .fill, part := r.part, job := 0, asn := g.asn, root := r.desc.root, cx := 0, cy := 0, cz := 0, report := 0
    prio := r.cls, cls := r.cls, warps := [], s0 := fillRegs g r
    shape := { width := 32 * 2 ^ g.width, warps := g.warps, vregs := g.vregs, sregs := g.sregs, stash := r.size + g.stash
               entry := BitVec.ofNat 64 g.entry, handler := 0, param := BitVec.ofNat 64 g.param, cor := false, strict := false }
    fill := some { level := r.level, chain := r.chain, home, gen := r.gen, block := r.block, size := r.size, done := false
                   dirty := false } }

/-- A record of a block home changed. -/
def State.updFill (s : State) (home level block : Nat) (f : FillRec → FillRec) : State :=
  let sl := s.slice home
  s.setSlice home { sl with fills := sl.fills.map fun r => if r.level = level ∧ r.block = block then f r else r }

/-- `a` is placed before `b`: by class, then by creation (15 R218). -/
def FillRec.before (a b : FillRec) : Bool := decide (a.cls < b.cls) || (decide (a.cls = b.cls) && decide (a.order < b.order))

/-- A queued record's fill task placed on a core. -/
def State.placeFill (s : State) (home : Nat) (r : FillRec) (core : Nat) : State :=
  let cr := fillCrew s.crewCtr home r
  let s := s.updFill home r.level r.block fun r => { r with st := .running cr.uid }
  let s := { s with crewCtr := s.crewCtr + 1 }
  (s.startCrew core (28 + r.level) (List.replicate cr.shape.warps r.level) cr).countSlice home 0x20 1

/-- The first queued record of a slice, by class and creation, for which a core is free, placed (15 R218). -/
def State.placeNext (s : State) (home : Nat) : State :=
  let l := (s.slice home).fills.filterMap fun r =>
    if r.st = .queued then (s.fillCore home r.part r.level).map fun c => (r, c) else none
  let best := l.foldl (fun (b : Option (FillRec × Nat)) x => match b with
    | none => some x
    | some y => if x.1.before y.1 then some x else some y) none
  match best with
  | some (r, c) => s.placeFill home r c
  | none => s

/-- FILL_TASK_PLACE (15 R218, R220). -/
def execFillTaskPlace (slice : Nat) (s : State) : Host.Outcome State Fault Refusal := .next (s.whenReady (s.placeNext slice))

/-! ### FILL_RELEASE (15 R219, R226, R228) -/

/-- One committed line at its home: dropped where the line is resident, otherwise allocated; kept for the waiters alone where no way is
eligible (15 R226). -/
def State.commitLine (s : State) (part : Nat) (keep : Bool) (pa : Nat) (bs : List Byte) : State :=
  if (s.wayOf pa).isSome then s.countSlice (homeOf pa) 0x26 1
  else
    let a := s.allocate pa 0 part false none (some keep)
    if a.2 then a.1.placeAt pa bs else a.1.countSlice (homeOf pa) 0x27 1

/-- One line of a poisoned block at its home, a resident line included (15 R228). -/
def State.poisonLine (s : State) (part : Nat) (keep : Bool) (pa : Nat) : State :=
  if (s.wayOf pa).isSome then s.addPoison pa
  else
    let a := s.allocate pa 0 part false none (some keep)
    if a.2 then a.1.addPoison pa else a.1

/-- The lines of a block placed (15 R226, R228). -/
def State.placeLines (s : State) (r : FillRec) (data : Option (List Byte)) : State :=
  let keep := (genFields r.desc.bytes).keep
  (List.range (r.size / 128)).foldl (fun s k =>
    match data with
    | some d => s.commitLine r.part keep (r.block + 128 * k) ((d.drop (128 * k)).take 128)
    | none => s.poisonLine r.part keep (r.block + 128 * k)) s

/-- The lines of a placed block as its waiters are served them: each as it stands at its home, or as placed where it is not there; none for a
poisoned one (15 R219, R226). -/
def State.servedLines (s : State) (block size : Nat) (data : Option (List Byte)) : Served :=
  { block, size
    lines := (List.range (size / 128)).map fun k =>
      let pa := block + 128 * k
      if (s.wayOf pa).isSome then (if s.poisoned pa then none else some (s.bytesAt pa 128))
      else data.map fun d => (d.drop (128 * k)).take 128 }

/-- A record whose block has reached placing: its lines are placed, and it and the queued records of the block release their waiters
(15 R219). -/
def State.fillRelease (s : State) (home block level : Nat) : State :=
  match (s.slice home).fills.find? fun r => decide (r.level = level ∧ r.block = block) with
  | none => s
  | some r =>
    match r.st with
    | .placing data =>
      let s := s.placeLines r data
      let s := if data.isNone then s.countSlice home 0x23 1 else s
      let sl := s.slice home
      let ends (x : FillRec) : Bool := decide (x.block = block) && (decide (x.level = level) || decide (x.st = .queued))
      let gone := (sl.fills.filter ends).map fun x => (home, x.level, block)
      let s := s.setSlice home { sl with fills := sl.fills.filter fun x => !ends x }
      s.releaseFill gone (some (s.servedLines block r.size data))
    | _ => s

/-- FILL_RELEASE (15 R219, R226, R228). -/
def execFillRelease (slice : Nat) (block : BitVec 48) (level : Nat) (s : State) : Host.Outcome State Fault Refusal :=
  .next (s.fillRelease slice block.toNat level)

/-! ### `fdone` and `fpois` (15 R223) -/

/-- The record that the fill task of crew `uid` runs for goes to placing with the bytes of its block, none for poison. -/
def State.endFill (s : State) (uid : Nat) (f : FillInfo) (data : Option (List Byte)) : State :=
  s.updFill f.home f.level f.block fun r => if r.st = .running uid then { r with st := .placing data } else r

/-- A byte as a thread of a warp sees it that stands as `now` after some writes, newest first: a write of an engine that does not happen before is
not there, and one of another warp leaves it undefined (15 R223). -/
def seenBy (own : Thr → Bool) (known : Ev → Bool) (free : Byte) : Byte → List Ev → Byte
  | now, [] => now
  | now, e :: r =>
    if own e.thr || known e then now
    else match e.thr with
      | .op _ _ => seenBy own known free e.old r
      | _ => free

/-- Byte `k` of the fill window as `fdone` sees it: what another warp has stored is undefined unless it happens before, and what an engine has
written is not there unless its completion does (15 R223, 11 R171). -/
def Ctx.windowByte (c : Ctx) (s : State) (k : Nat) : Byte :=
  let now := (c.crewIn s).stashByte k
  let own (t : Thr) : Bool := match t with
    | .lane uid wi _ => decide (uid = c.cr.uid) && decide (wi = c.wi)
    | _ => false
  match Store.look s.ledger.hist (stashKey c.cr.uid k) with
  | none => now
  | some h =>
    if h.race then Config.freeByte s.freeCtr k
    else seenBy own (fun e => c.threads.any fun t => s.ledger.knows t e) (Config.freeByte s.freeCtr k) now h.evs

/-- The fill window as `fdone` sees it (15 R223). -/
def Ctx.windowBytes (c : Ctx) (s : State) (f : FillInfo) : List Byte := (List.range f.size).map (c.windowByte s)

/-- `fdone` and `fpois` (15 R223). An `fdone` that waits for the results of its split, or for a page of the write-back that its release
asks for (11 R165, R177), is marked by its answers. -/
def fdoneBody (pois : Bool) (c : Ctx) (s : State) : Res :=
  match (c.crewIn s).fill with
  | none => .fault s [{ lane := c.lowMask, code := 0x1D }]
  | some f =>
    if c.mask.isEmpty then .done s .next [] []
    else if f.done && c.sp.ans.isEmpty then .fault s [{ lane := c.lowMask, code := 0x1D }]
    else
      let s := c.setCrew s fun cr => { cr with fill := some { f with done := true } }
      let c' : Ctx := { c with sp := { c.sp with ans := [(0, 1)] } }
      if pois then .done (s.endFill c.cr.uid f none) .next [] []
      else if c.waiting then .park s .results c'.sp.ans
      else c'.released true s fun s =>
        let y := c.send (.block f.block) { s with ledger := s.ledger.setPoint (.block f.block) {} }
        let data := if f.dirty then none else some (c.windowBytes s f)
        .done (({ y with freeCtr := y.freeCtr + 1 } : State).endFill c.cr.uid f data) .next [] []

/-- `fdone` (15 R223). -/
def execFdone (x : Head) (w : WS) (s : State) : Host.Outcome State Fault Refusal := issue (.fdone x w) s noBad (fdoneBody false)

/-- `fpois` (15 R223). -/
def execFpois (x : Head) (w : WS) (s : State) : Host.Outcome State Fault Refusal := issue (.fpois x w) s noBad (fdoneBody true)

/-! ### LINE_REQUEST (11 R159-R164, 15 R215) -/

/-- A leaf under which a request of its own is made: cacheable, over generated space with the descriptor whose blocks cover the
address. -/
def State.ownLeaf (s : State) (part pa : Nat) : BitVec 64 :=
  let covers (d : GenDesc) : Bool :=
    let g := genFields d.bytes
    decide (g.gbase ≤ pa) && decide (pa < g.gbase + g.nblk * g.bsz)
  match (s.part part).gens.find? fun e => covers e.2 with
  | some e => BitVec.ofNat 64 (2 ^ 4 + (if inGen pa then 2 ^ 3 + 2 ^ 48 * e.1 else 0))
  | none => BitVec.ofNat 64 (2 ^ 4 + (if inGen pa then 2 ^ 3 else 0))

/-- A line request of a core that reaches its home (11 R159-R164, 15 R215): a line of generated space is served, reloaded, or asked for
at its block home without parking. -/
def State.lineRequest (s : State) (core pa cpol : Nat) (write : Bool) : State :=
  match (s.core core).part with
  | none => s
  | some p =>
    if inGen pa then
      if genPart pa = p ∧ !write then
        let ag : Agent := { core, uid := 0, part := p, asn := 0, root := 0, need := 0, chain := [], cls := 3, fill := false }
        (s.genRequest ag (s.ownLeaf p pa) pa (if cpol = 4 ∨ cpol = 5 then 0 else cpol)).2
      else s
    else if inHbm pa ∨ inHost pa then s.request pa cpol p write none
    else s

/-- LINE_REQUEST (11 R159). -/
def execLineRequest (core : Nat) (pa : BitVec 48) (cpol : BitVec 3) (write : Bool) (s : State) : Host.Outcome State Fault Refusal :=
  .next (s.whenReady (s.lineRequest core pa.toNat cpol.toNat write))

end Sys2Proof.Machine
end

