-- ==== Sys2Proof/Machine/Flags.lean ====
section
/-! DEFINITION. Every flag and the arithmetic it follows from: integer ranges and overflow (05 R53, R55, 09 R111), conditions
(07 R84), and the bits of `%fpf` (05 R66). -/

namespace Sys2Proof.Machine

/-! ### Integers (05 R53, R55) -/

/-- Element `k` of a value read in a type, as bits (05 R53). -/
def elem (t : Ty) (x k : Nat) : Nat := x / 2 ^ (tyWidth t * k) % 2 ^ tyWidth t

/-- Element `k` of a value, read in an integer type. -/
def elemVal (t : Ty) (x k : Nat) : Int := if tySigned t then signExt (elem t x k) (tyWidth t) else (elem t x k : Nat)

/-- The least value of an integer of `w` bits. -/
def intMin (signed : Bool) (w : Nat) : Int := if signed then -(2 ^ (w - 1) : Nat) else 0

/-- The greatest value of an integer of `w` bits. -/
def intMax (signed : Bool) (w : Nat) : Int := if signed then (2 ^ (w - 1) : Nat) - 1 else (2 ^ w : Nat) - 1

/-- The overflow flag: the exact result lies outside the range of the element type (09 R111). -/
def overflows (t : Ty) (x : Int) : Bool :=
  decide (x < intMin (tySigned t) (tyWidth t)) || decide (intMax (tySigned t) (tyWidth t) < x)

/-- The exact result clamped to the element type's range under `SAT`, and reduced modulo 2^w otherwise (05 R55, 09 R111). -/
def reduceInt (t : Ty) (sat : Bool) (x : Int) : Nat :=
  toBits (tyWidth t) (if sat then clamp (intMin (tySigned t) (tyWidth t)) (intMax (tySigned t) (tyWidth t)) x else x)

/-- Elements put side by side, the first lowest (05 R53). -/
def joinElems (w : Nat) : List Nat → Nat
  | [] => 0
  | e :: r => e + 2 ^ w * joinElems w r

/-- A packed value of an element computed for each place. -/
def packT (t : Ty) (f : Nat → Nat) : Nat := joinElems (tyWidth t) ((List.range (tyElems t)).map f)

/-- The integer conditions `COND` 0 to 5: eq, ne, lt, le, gt, ge (07 R84). -/
def intCond (cond : Nat) (a b : Int) : Bool :=
  match cond with
  | 0 => decide (a = b)
  | 1 => decide (a ≠ b)
  | 2 => decide (a < b)
  | 3 => decide (a ≤ b)
  | 4 => decide (b < a)
  | _ => decide (b ≤ a)

/-! ### `%fpf` (05 R66) -/

/-- Flags raised by an operation. -/
structure Fl where
  iv : Bool := false
  dz : Bool := false
  of : Bool := false
  uf : Bool := false
  nx : Bool := false
  id : Bool := false
deriving DecidableEq, Repr

/-- Flags of two operations together. -/
def Fl.or (a b : Fl) : Fl :=
  ⟨a.iv || b.iv, a.dz || b.dz, a.of || b.of, a.uf || b.uf, a.nx || b.nx, a.id || b.id⟩

/-- The word that the flags set in `%fpf` (05 R66). -/
def Fl.word (f : Fl) : Word :=
  BitVec.ofNat 32 (f.iv.toNat + 2 * f.dz.toNat + 4 * f.of.toNat + 8 * f.uf.toNat + 16 * f.nx.toNat + 32 * f.id.toNat)

end Sys2Proof.Machine
end

