-- ==== Sys2Proof/Machine/Float.lean ====
section
/-! DEFINITION. Floating-point values and their one rounding (05 R56-R68), and the correctly rounded functions (05 R69). Every
finite value is an exact dyadic number, so that a result is rounded once from its exact value. -/

namespace Sys2Proof.Machine

/-! ### Formats (05 R56, R57) -/

/-- What the encodings of highest exponent mean: IEEE infinities and NaN, the one E4M3 NaN, or plain values. -/
inductive Special where
  | ieee | e4m3 | plain
deriving DecidableEq, Repr

/-- A format: exponent bits, fraction bits, bias, special encodings. -/
structure Fmt where
  eb : Nat
  fb : Nat
  bias : Nat
  spec : Special
deriving DecidableEq, Repr

def fmtF32 : Fmt := ⟨8, 23, 127, .ieee⟩
def fmtF16 : Fmt := ⟨5, 10, 15, .ieee⟩
def fmtBf16 : Fmt := ⟨8, 7, 127, .ieee⟩
def fmtE4m3 : Fmt := ⟨4, 3, 7, .e4m3⟩
def fmtE5m2 : Fmt := ⟨5, 2, 15, .ieee⟩
def fmtE2m3 : Fmt := ⟨2, 3, 1, .plain⟩
def fmtE3m2 : Fmt := ⟨3, 2, 3, .plain⟩
def fmtE2m1 : Fmt := ⟨2, 1, 1, .plain⟩

/-- The format of a floating-point type (05 R56). -/
def fmtOf (t : Ty) : Fmt :=
  match t with
  | .f16x2 => fmtF16
  | .bf16x2 => fmtBf16
  | .e4m3x4 => fmtE4m3
  | .e5m2x4 => fmtE5m2
  | _ => fmtF32

/-- `FTZ` acts on FP32, FP16 and BF16 alone (05 R64). -/
def Fmt.flushes (f : Fmt) : Bool := decide (f = fmtF32) || decide (f = fmtF16) || decide (f = fmtBf16)

/-- The bits above the fraction, of an infinity. -/
def Fmt.infBits (f : Fmt) : Nat := (2 ^ f.eb - 1) * 2 ^ f.fb

/-- The canonical NaN (05 R56, R65). -/
def Fmt.nanBits (f : Fmt) : Nat :=
  match f.spec with
  | .e4m3 => 0x7F
  | _ => f.infBits + 2 ^ (f.fb - 1)

/-- The sign bit. -/
def Fmt.signBit (f : Fmt) : Nat := 2 ^ (f.eb + f.fb)

/-- The largest finite value: significand, exponent (05 R56, R57). -/
def Fmt.maxSig (f : Fmt) : Nat × Int :=
  match f.spec with
  | .ieee => (2 ^ (f.fb + 1) - 1, ((2 ^ f.eb - 2 : Nat) : Int) - f.bias - f.fb)
  | .e4m3 => (2 ^ (f.fb + 1) - 2, ((2 ^ f.eb - 1 : Nat) : Int) - f.bias - f.fb)
  | .plain => (2 ^ (f.fb + 1) - 1, ((2 ^ f.eb - 1 : Nat) : Int) - f.bias - f.fb)

/-- The bits of the largest finite value. -/
def Fmt.maxBits (f : Fmt) : Nat :=
  match f.spec with
  | .ieee => f.infBits - 1
  | .e4m3 => f.signBit - 2
  | .plain => f.signBit - 1

/-! ### Values -/

/-- A value: NaN, an infinity, or (−1)^neg × m × 2^e exactly, zeros keeping their sign. -/
inductive FVal where
  | nan
  | inf (neg : Bool)
  | fin (neg : Bool) (m : Nat) (e : Int)
deriving DecidableEq, Repr

/-- The value of an encoding (05 R56, R57). -/
def Fmt.decode (f : Fmt) (x : Nat) : FVal :=
  let neg := bit x (f.eb + f.fb)
  let e := x / 2 ^ f.fb % 2 ^ f.eb
  let m := x % 2 ^ f.fb
  let top := decide (e = 2 ^ f.eb - 1)
  if top && decide (f.spec = .ieee) then (if m = 0 then .inf neg else .nan)
  else if top && decide (f.spec = .e4m3) && decide (m = 2 ^ f.fb - 1) then .nan
  else if e = 0 then .fin neg m (1 - (f.bias : Int) - f.fb)
  else .fin neg (m + 2 ^ f.fb) ((e : Int) - f.bias - f.fb)

/-- The encoding is of a subnormal number. -/
def Fmt.subnormal (f : Fmt) (x : Nat) : Bool :=
  decide (x / 2 ^ f.fb % 2 ^ f.eb = 0) && decide (x % 2 ^ f.fb ≠ 0)

/-- An input with subnormals flushed to zero of their sign under `FTZ`, and `ID` (05 R64). -/
def Fmt.flushIn (f : Fmt) (ftz : Bool) (x : Nat) : Nat × Fl :=
  if ftz && f.flushes && f.subnormal x then (if bit x (f.eb + f.fb) then f.signBit else 0, { id := true }) else (x, {})

/-- `ABS`, then `NEG` (07 R84). -/
def Fmt.signOps (f : Fmt) (neg abs : Bool) (x : Nat) : Nat :=
  let x := if abs then x % f.signBit else x
  if neg then (if bit x (f.eb + f.fb) then x % f.signBit else x % f.signBit + f.signBit) else x

/-- The integer nearest `m / 2^k` by a rounding mode, for a value of sign `neg` (05 R62). -/
def roundShift (rnd : Rnd) (neg : Bool) (m k : Nat) : Nat :=
  let q := m / 2 ^ k
  let r := m % 2 ^ k
  match rnd with
  | .ne => if 2 ^ k < 2 * r ∨ (2 * r = 2 ^ k ∧ q % 2 = 1) then q + 1 else q
  | .tz => q
  | .dn => if neg ∧ r ≠ 0 then q + 1 else q
  | .up => if !neg ∧ r ≠ 0 then q + 1 else q

/-- `m × 2^e` as a multiple of `2^q`, rounded. -/
def roundAt (rnd : Rnd) (neg : Bool) (m : Nat) (e q : Int) : Nat :=
  if q ≤ e then m * 2 ^ (e - q).toNat else roundShift rnd neg m (q - e).toNat

/-- An overflowing result becomes the infinity, or the largest finite value (05 R62). -/
def overflowsToInf (rnd : Rnd) (neg : Bool) : Bool :=
  match rnd with
  | .ne => true
  | .tz => false
  | .dn => neg
  | .up => !neg

/-- A value rounded once to a format, with its flags (05 R62, R64-R68): `ftz` flushes a tiny result, `sat` clamps what would be
infinite, also an infinite input. Tininess is found after rounding with unbounded exponent. -/
def Fmt.round (f : Fmt) (rnd : Rnd) (ftz sat : Bool) (v : FVal) : Nat × Fl :=
  let sgn (neg : Bool) : Nat := if neg then f.signBit else 0
  match v with
  | .nan => (f.nanBits, {})
  | .inf neg =>
    if sat then (sgn neg + f.maxBits, { of := true, nx := true })
    else
      match f.spec with
      | .ieee => (sgn neg + f.infBits, {})
      | _ => (f.nanBits, { iv := true })
  | .fin neg m e =>
    if m = 0 then (sgn neg, {})
    else
      let top : Int := (m.log2 : Int) + e
      let emin : Int := 1 - (f.bias : Int)
      let u := roundAt rnd neg m e (top - f.fb)
      let tiny := decide (top < emin) && !(decide (top = emin - 1) && decide (u = 2 ^ (f.fb + 1)))
      let q : Int := (if top < emin then emin else top) - f.fb
      let n := roundAt rnd neg m e q
      let nx := if q ≤ e then false else decide (m % 2 ^ (q - e).toNat ≠ 0)
      if ftz && f.flushes && tiny then (sgn neg, { uf := true, nx := true })
      else if decide (f.maxSig.2 < q) || (decide (f.maxSig.2 = q) && decide (f.maxSig.1 < n)) then
        if sat || !overflowsToInf rnd neg then (sgn neg + f.maxBits, { of := true, nx := true })
        else
          match f.spec with
          | .ieee => (sgn neg + f.infBits, { of := true, nx := true })
          | _ => (f.nanBits, { of := true, nx := true })
      else
        let fl : Fl := { uf := tiny && nx, nx }
        if n < 2 ^ f.fb then (sgn neg + n, fl)
        else if n = 2 ^ (f.fb + 1) then (sgn neg + (q + 1 + f.fb + f.bias).toNat * 2 ^ f.fb, fl)
        else (sgn neg + (q + f.fb + f.bias).toNat * 2 ^ f.fb + (n - 2 ^ f.fb), fl)

/-! ### Exact arithmetic (05 R62, R65, R66) -/

/-- The integer that `m × 2^e` is a multiple of `2^q` by, signed. -/
def scaled (neg : Bool) (m : Nat) (e q : Int) : Int :=
  let x : Int := (m * 2 ^ (e - q).toNat : Nat)
  if neg then -x else x

/-- The sign of an exact zero sum of terms: theirs, where all are zeros of one sign; else +0, and −0 in RD (05 R62). -/
def zeroSign (rnd : Rnd) (ts : List (Bool × Nat × Int)) : Bool :=
  if ts.all fun t => decide (t.2.1 = 0) && t.1 then true
  else if ts.all fun t => decide (t.2.1 = 0) && !t.1 then false
  else decide (rnd = .dn)

/-- The exact sum of finite terms. -/
def sumFin (rnd : Rnd) (ts : List (Bool × Nat × Int)) : FVal :=
  let q := ts.foldl (fun (q : Int) t => if t.2.2 < q then t.2.2 else q) 0
  let x := ts.foldl (fun (a : Int) t => a + scaled t.1 t.2.1 t.2.2 q) 0
  if x = 0 then .fin (zeroSign rnd ts) 0 0 else .fin (decide (x < 0)) x.natAbs q

/-- The exact sum of terms: NaN for a NaN; for infinities of both signs NaN with `IV`; an infinity; or the finite sum. A NaN among the terms
comes first, without `IV`: R66 does not say what infinities of both signs beside a NaN set (DESIGN CHOICE, notes/assumptions/42.md). -/
def sumVals (rnd : Rnd) (vs : List FVal) : FVal × Fl :=
  let hasInf (neg : Bool) : Bool := vs.any fun v => decide (v = .inf neg)
  if vs.any fun v => decide (v = .nan) then (.nan, {})
  else if hasInf true && hasInf false then (.nan, { iv := true })
  else if hasInf true then (.inf true, {})
  else if hasInf false then (.inf false, {})
  else (sumFin rnd (vs.filterMap fun v => match v with
    | .fin neg m e => some (neg, m, e)
    | _ => none), {})

/-- The exact product; 0 × ∞ is NaN with `IV` (05 R66). -/
def mulVals (a b : FVal) : FVal × Fl :=
  match a, b with
  | .nan, _ | _, .nan => (.nan, {})
  | .inf s, .inf t => (.inf (s != t), {})
  | .inf s, .fin t m _ => if m = 0 then (.nan, { iv := true }) else (.inf (s != t), {})
  | .fin s m _, .inf t => if m = 0 then (.nan, { iv := true }) else (.inf (s != t), {})
  | .fin s m e, .fin t n k => (.fin (s != t) (m * n) (e + k), {})

/-- The value with its sign turned. -/
def FVal.negate : FVal → FVal
  | .nan => .nan
  | .inf s => .inf (!s)
  | .fin s m e => .fin (!s) m e

/-- A product and an addend, exact (05 R62 `ffma`). -/
def fmaVals (rnd : Rnd) (a b c : FVal) : FVal × Fl :=
  let p := mulVals a b
  let r := sumVals rnd [p.1, c]
  (r.1, p.2.or r.2)

/-- Two products and an addend, exact (09 R131). -/
def dot2Vals (rnd : Rnd) (a b c d e : FVal) : FVal × Fl :=
  let p := mulVals a b
  let q := mulVals c d
  let r := sumVals rnd [p.1, q.1, e]
  (r.1, (p.2.or q.2).or r.2)

/-- The comparison of two finite or infinite values: less, with −0 equal to +0. -/
def FVal.lt : FVal → FVal → Bool
  | .nan, _ | _, .nan => false
  | .inf s, .inf t => s && !t
  | .inf s, .fin _ _ _ => s
  | .fin _ _ _, .inf t => !t
  | .fin s m e, .fin t n k =>
    let q := if e < k then e else k
    decide (scaled s m e q < scaled t n k q)

/-- The conditions `COND` 0 to 7 (07 R84, 09 R128). -/
def floatCond (cond : Nat) (a b : FVal) : Bool :=
  if a = .nan ∨ b = .nan then decide (cond = 1 ∨ cond = 7)
  else
    match cond with
    | 0 => !a.lt b && !b.lt a
    | 1 => a.lt b || b.lt a
    | 2 => a.lt b
    | 3 => !b.lt a
    | 4 => b.lt a
    | 5 => !a.lt b
    | 6 => true
    | _ => false

/-- −0 before +0, and otherwise by value (09 R127). -/
def FVal.below (a b : FVal) : Bool :=
  match a, b with
  | .fin s 0 _, .fin t 0 _ => s && !t
  | _, _ => a.lt b

/-- The lesser (`max` false) or the greater of two encodings (09 R127). -/
def Fmt.minMax (f : Fmt) (max : Bool) (x y : Nat) : Nat :=
  let a := f.decode x
  let b := f.decode y
  if a = .nan then (if b = .nan then f.nanBits else y)
  else if b = .nan then x
  else if max then (if a.below b then y else x)
  else (if b.below a then y else x)

/-- The integral value of a value by a rounding mode; a zero keeps the sign (09 R129). -/
def FVal.integral (rnd : Rnd) : FVal → FVal
  | .fin s m e => .fin s (roundAt rnd s m e 0) 0
  | v => v

/-- A value scaled by 2^n. An exponent beyond ±1000 puts every finite value of the formats out of range on the same side (09 R129). -/
def FVal.scaleBy (n : Int) : FVal → FVal
  | .fin s m e => .fin s m (e + clamp (-1000) 1000 n)
  | v => v

/-- A float to an integer type, saturating (05 R68): `IV` alone for NaN, infinities and values outside the range. -/
def toIntBits (signed : Bool) (w : Nat) (rnd : Rnd) (v : FVal) : Nat × Fl :=
  match v with
  | .nan => (0, { iv := true })
  | .inf s => (toBits w (if s then intMin signed w else intMax signed w), { iv := true })
  | .fin s m e =>
    let n := roundAt rnd s m e 0
    let x : Int := if s then -(n : Int) else n
    if x < intMin signed w then (toBits w (intMin signed w), { iv := true })
    else if intMax signed w < x then (toBits w (intMax signed w), { iv := true })
    else (toBits w x, { nx := if 0 ≤ e then false else decide (m % 2 ^ (-e).toNat ≠ 0) })

/-- An integer as a value. -/
def intVal (x : Int) : FVal := .fin (decide (x < 0)) x.natAbs 0

/-! ### Correctly rounded functions (05 R69) -/

/-- A value known to lie strictly between `m × 2^e` and `(m + 1) × 2^e`, as one that no rounding tells from it: `m` has many more bits
than any format. -/
def between (neg : Bool) (m : Nat) (e : Int) : FVal := .fin neg (2 * m + 1) (e - 1)

/-- `m × 2^e`, exact or not. -/
def approx (neg exact : Bool) (m : Nat) (e : Int) : FVal := if exact then .fin neg m e else between neg m e

/-- The integer square root, from bit `k − 1` down. -/
def isqrt (x : Nat) : Nat → Nat → Nat
  | 0, r => r
  | k + 1, r => if (r + 2 ^ k) * (r + 2 ^ k) ≤ x then isqrt x k (r + 2 ^ k) else isqrt x k r

/-- `rcp` (05 R69). -/
def rcpVal : FVal → FVal × Fl
  | .nan => (.nan, {})
  | .inf s => (.fin s 0 0, {})
  | .fin s m e =>
    if m = 0 then (.inf s, { dz := true })
    else (approx s (decide (2 ^ 100 % m = 0)) (2 ^ 100 / m) (-e - 100), {})

/-- `sqrt` (05 R69). -/
def sqrtVal : FVal → FVal × Fl
  | .nan => (.nan, {})
  | .inf s => if s then (.nan, { iv := true }) else (.inf false, {})
  | .fin s m e =>
    if m = 0 then (.fin s 0 0, {})
    else if s then (.nan, { iv := true })
    else
      let m := if e % 2 = 0 then m else 2 * m
      let e := if e % 2 = 0 then e else e - 1
      let x := m * 2 ^ 80
      let r := isqrt x 64 0
      (approx false (decide (r * r = x)) r (e / 2 - 40), {})

/-- `rsqrt` (05 R69). -/
def rsqrtVal : FVal → FVal × Fl
  | .nan => (.nan, {})
  | .inf s => if s then (.nan, { iv := true }) else (.fin false 0 0, {})
  | .fin s m e =>
    if m = 0 then (.inf s, { dz := true })
    else if s then (.nan, { iv := true })
    else
      let m := if e % 2 = 0 then m else 2 * m
      let e := if e % 2 = 0 then e else e - 1
      let r := isqrt (2 ^ 160 / m) 82 0
      (approx false (decide (r * r * m = 2 ^ 160)) r (-(e / 2) - 80), {})

/-- Fraction bits of the fixed-point series below (notes/assumptions/14.md). -/
def seriesBits : Nat := 384

/-- The unit of the series. -/
def one : Nat := 2 ^ seriesBits

/-- ln 2 = Σ 1 / (k 2^k), for `n` terms from term `k`. -/
def ln2Series : Nat → Nat → Nat
  | 0, _ => 0
  | n + 1, k => one / (k * 2 ^ k) + ln2Series n (k + 1)

/-- ln 2 in units of 2^−384. -/
def ln2 : Nat := ln2Series 390 1

/-- Σ y^j / j! from term `t` on. -/
def expSeries (y : Nat) : Nat → Nat → Nat → Nat
  | 0, _, _ => 0
  | n + 1, k, t => t + expSeries y n (k + 1) (t * y / (one * k))

/-- Σ t^(2j+1) / (2j+1), from power `p` = t^k on, `t2` = t². -/
def atanhSeries (t2 : Nat) : Nat → Nat → Nat → Nat
  | 0, _, _ => 0
  | n + 1, k, p => p / k + atanhSeries t2 n (k + 2) (p * t2 / one)

/-- atan(1/q) = Σ (−1)^j / ((2j+1) q^(2j+1)); `p` = 1/q^k. -/
def atanSeries (q : Nat) : Nat → Nat → Nat → Int
  | 0, _, _ => 0
  | n + 1, k, p => (p / k : Nat) - atanSeries q n (k + 2) (p / (q * q))

/-- π by Machin's formula, in units of 2^−384. -/
def piFix : Nat := (16 * atanSeries 5 90 1 (one / 5) - 4 * atanSeries 239 30 1 (one / 239)).toNat

/-- sin y = Σ (−1)^j y^(2j+1) / (2j+1)! from term `t` on, `y2` = y². -/
def sinSeries (y2 : Nat) : Nat → Nat → Nat → Int
  | 0, _, _ => 0
  | n + 1, k, t => (t : Int) - sinSeries y2 n (k + 2) (t * y2 / one / ((k + 1) * (k + 2)))

/-- `exp2` (05 R69): 2^n × 2^f with 0 ≤ f < 1; results beyond every format's range are bounded. -/
def exp2Val : FVal → FVal × Fl
  | .nan => (.nan, {})
  | .inf s => (if s then .fin false 0 0 else .inf false, {})
  | .fin s m e =>
    let e' := clamp (-400) 400 e
    let x : Int := scaled s m e' (-seriesBits)
    let n := clamp (-2000) 2000 (x / (one : Int))
    let f := (x % (one : Int)).toNat
    if f = 0 then (.fin false 1 n, {})
    else (between false (expSeries (f * ln2 / one) 110 1 one) (n - seriesBits), {})

/-- `log2` (05 R69): k + ln z / ln 2 with 1 ≤ z < 2. -/
def log2Val : FVal → FVal × Fl
  | .nan => (.nan, {})
  | .inf s => if s then (.nan, { iv := true }) else (.inf false, {})
  | .fin s m e =>
    if m = 0 then (.inf true, { dz := true })
    else if s then (.nan, { iv := true })
    else
      let k : Int := (m.log2 : Int) + e
      let z := m * one / 2 ^ m.log2
      if z = one then (.fin (decide (k < 0)) k.natAbs 0, {})
      else
        let t := (z - one) * one / (z + one)
        let l := 2 * atanhSeries (t * t / one) 130 1 t * one / ln2
        let x : Int := k * (one : Int) + l
        (between (decide (x < 0)) x.natAbs (-seriesBits), {})

/-- sin(π r) for 0 ≤ r ≤ 1/2, r in units of 2^−384; exact at 0 and 1/2. -/
def sinPiFix (neg : Bool) (r : Nat) : FVal :=
  if r = 0 then .fin neg 0 0
  else if 2 * r = one then .fin neg 1 0
  else
    let y := r * piFix / one
    between neg (sinSeries (y * y / one) 60 1 y).toNat (-seriesBits)

/-- The magnitude of a finite input modulo 2, in units of 2^−384. -/
def modTwo (m : Nat) (e : Int) : Nat :=
  if 2 ≤ e then 0 else (m * 2 ^ (e + seriesBits).toNat) % (2 * one)

/-- `sinpi` (05 R69): an integer gives zero of its sign. -/
def sinpiVal : FVal → FVal × Fl
  | .nan => (.nan, {})
  | .inf _ => (.nan, { iv := true })
  | .fin s m e =>
    let r := modTwo m e
    if r % one = 0 then (.fin s 0 0, {})
    else
      let neg := s != decide (one < r)
      let r := r % one
      (sinPiFix neg (if 2 * r ≤ one then r else one - r), {})

/-- `cospi` (05 R69): cos(π r) = sin(π (1/2 − r)); +0 at n + 1/2. -/
def cospiVal : FVal → FVal × Fl
  | .nan => (.nan, {})
  | .inf _ => (.nan, { iv := true })
  | .fin _ m e =>
    let r := modTwo m e
    let r := if r ≤ one then r else 2 * one - r
    if 2 * r = one then (.fin false 0 0, {})
    else if 2 * r < one then (sinPiFix false (one / 2 - r), {})
    else (sinPiFix true (r - one / 2), {})

/-! ### Classes (09 R136) -/

/-- The number of the class of an encoding. -/
def Fmt.classOf (f : Fmt) (x : Nat) : Nat :=
  let c (neg : Bool) (k : Nat) : Nat := if neg then k else 7 - k
  match f.decode x with
  | .nan => 8
  | .inf s => c s 0
  | .fin s m _ => if m = 0 then c s 3 else if f.subnormal x then c s 2 else c s 1

end Sys2Proof.Machine
end

