-- ==== Sys2Proof/Machine/Mx.lean ====
section
/-! DEFINITION. The element formats of matrices and copies: their values, their scales and quantisation to MX (05 R57-R61, R70). -/

namespace Sys2Proof.Machine

/-- The bits of one element of a format code (05 R61). -/
def elemBits (code : Nat) : Nat :=
  match code with
  | 0 => 32
  | 1 | 2 => 16
  | 7 | 8 => 6
  | 9 => 4
  | _ => 8

/-- The format code has a block scale (05 R61). -/
def hasScale (code : Nat) : Bool := decide (5 ≤ code) && decide (code ≤ 11)

/-- The floating-point format of a code (05 R61); codes 10 to 12 have none. -/
def codeFmt (code : Nat) : Fmt :=
  match code with
  | 0 => fmtF32
  | 1 => fmtF16
  | 2 => fmtBf16
  | 3 | 5 => fmtE4m3
  | 4 | 6 => fmtE5m2
  | 7 => fmtE2m3
  | 8 => fmtE3m2
  | _ => fmtE2m1

/-- `Emax` of an MX code (05 R57). -/
def emaxOf (code : Nat) : Int :=
  match code with
  | 5 => 8
  | 6 => 15
  | 7 => 2
  | 8 => 4
  | 9 => 2
  | _ => 0

/-- A DS8 term in units of 2^−6 (05 R59). -/
def ds8Term (neg : Bool) (e : Nat) : Int := if e = 7 then 0 else if neg then -(2 ^ (6 - e) : Nat) else (2 ^ (6 - e) : Nat)

/-- An integer multiple of 2^e; zero is +0. -/
def fixVal (x e : Int) : FVal := .fin (decide (x < 0)) x.natAbs e

/-- The value of an element before its scale (05 R56-R59). -/
def elemValue (code x : Nat) : FVal :=
  match code with
  | 10 => fixVal (signExt x 8) (-6)
  | 11 => fixVal (ds8Term (bit x 7) (bits x 6 4) + ds8Term (bit x 3) (bits x 2 0)) (-6)
  | 12 => fixVal (signExt x 8) 0
  | _ => (codeFmt code).decode (x % 2 ^ elemBits code)

/-- A value under an E8M0 scale (05 R57): NaN for 0xFF. -/
def scaleVal (v : FVal) (scale : Nat) : FVal :=
  if scale = 0xFF then .nan
  else
    match v with
    | .fin s m e => .fin s m (e + scale - 127)
    | _ => v

/-- The scaled value of an element. -/
def scaledElem (code x scale : Nat) : FVal := if hasScale code then scaleVal (elemValue code x) scale else elemValue code x

/-- A quantised block: scale, element codes, the first NaN or infinity, and whether some element differs from its value. -/
structure QBlock where
  scale : Nat
  elems : List Nat
  first : Option Nat
  nx    : Bool
deriving DecidableEq, Repr

/-- The value is a NaN or an infinity. -/
def FVal.special : FVal → Bool
  | .fin _ _ _ => false
  | _ => true

/-- floor(log2 |v|) of a nonzero finite value. -/
def FVal.ilog : FVal → Option Int
  | .fin _ m e => if m = 0 then none else some ((m.log2 : Int) + e)
  | _ => none

/-- One element of a block under the exponent `x` (05 R70). An INT8 element is rounded and then clamped to [-2, 127/64], as R70's text says; its
pseudocode would clamp a value between -2 and -127/64 to the largest finite (DEDUCED, notes/assumptions/42.md). -/
def quantElem (code : Nat) (x : Int) (v : FVal) : Nat × Bool :=
  match v with
  | .fin s m e =>
    if code = 10 then
      let n := roundAt .ne s m (e - x) (-6)
      let k : Int := clamp (-128) 127 (if s then -(n : Int) else n)
      let q : Int := if e - x < -6 then e - x else -6
      (toBits 8 k, decide (k * (2 ^ (-6 - q).toNat : Nat) ≠ scaled s m (e - x) q))
    else
      let r := (codeFmt code).round .ne false true (.fin s m (e - x))
      (r.1, r.2.nx)
  | _ => (0, false)

/-- The index of the first element for which `p` holds. -/
def firstIdx (p : FVal → Bool) : List FVal → Option Nat
  | [] => none
  | v :: r => if p v then some 0 else (firstIdx p r).map (· + 1)

/-- Quantisation of a block of 32 values (05 R70). -/
def quantise (code : Nat) (vs : List FVal) : QBlock :=
  match firstIdx FVal.special vs with
  | some n => ⟨0xFF, vs.map fun _ => 0, some n, false⟩
  | none =>
    let top := (vs.filterMap FVal.ilog).foldl (fun (b : Option Int) e => match b with
      | none => some e
      | some x => some (if x < e then e else x)) none
    let x : Int := match top with
      | none => -127
      | some e => if e - emaxOf code < -127 then -127 else e - emaxOf code
    let es := vs.map (quantElem code x)
    ⟨(x + 127).toNat, es.map fun e => e.1, none, es.any fun e => e.2⟩

/-- `n` elements packed side by side as bytes (05 R58), `len` of them. -/
def packElems (code : Nat) (es : List Nat) (len : Nat) : List Nat :=
  let x := joinElems (elemBits code) es
  (List.range len).map fun k => x / 256 ^ k % 256

/-- Element `i` of packed bytes read as one little-endian number (05 R58). -/
def elemAt (code x i : Nat) : Nat := x / 2 ^ (elemBits code * i) % 2 ^ elemBits code

end Sys2Proof.Machine
end

