-- ==== Sys2Proof/Machine/Matrix.lean ====
section
/-! DEFINITION. The folded matrix engine and the hod (17 R230-R254). -/

namespace Sys2Proof.Machine

/-! ### Layers (17 R230, 01 R20) -/

/-- A layer of a core is in service. -/
def Core.inService (c : Core) (l : Nat) : Bool := !c.thr.getLsbD l && !c.resOut.getLsbD l

/-- The layers of a core in service. -/
def Core.layers (c : Core) : List Nat := (List.range 4).filter c.inService

/-- The operation at the head of the matrix queue has begun and has not completed. -/
def Core.inOp (c : Core) : Bool := c.matQ.head?.any fun op => op.begun

/-- What the adaptive loops and heat throttle takes effect, unless an operation of the matrix queue is in progress (17 R230). -/
def Core.settle (c : Core) : Core := if c.inOp then c else { c with thr := c.loop ||| (if c.heat then 0xE else 0) }

/-! ### Areas of the bin (17 R234, R235) -/

/-- Bytes of a row of elements. -/
def BinRec.rowBytes (r : BinRec) : Nat := r.k * elemBits r.fmt / 8

/-- Bytes of a row of an area: its elements or its scales. -/
def BinRec.rowLen (r : BinRec) (scales : Bool) : Nat := if scales then r.k / 32 else r.rowBytes

/-- First byte and length of an area. -/
def BinRec.area (r : BinRec) (scales : Bool) : Nat × Nat := (if scales then r.soff else r.eoff, r.rows * r.rowLen scales)

/-- The areas that a record has. -/
def BinRec.areas (r : BinRec) : List (Nat × Nat) := r.area false :: if hasScale r.fmt then [r.area true] else []

/-- Two byte ranges of the bin overlap. -/
def areasMeet (a b : Nat × Nat) : Bool := decide (a.1 < b.1 + b.2) && decide (b.1 < a.1 + a.2)

/-- Areas of a list that do not overlap one another. -/
def areasApart : List (Nat × Nat) → Bool
  | [] => true
  | a :: r => r.all (fun b => !areasMeet a b) && areasApart r

/-- The record number of a life: the key of a failure mark (17 R239). -/
def failKey (r : BinRec) (scales : Bool) : Nat := r.life * 2 + scales.toNat

/-- A byte of a bin claim; one that nothing has written is unspecified (17 R235). -/
def MatState.byte (m : MatState) (off : Nat) : Byte := (Store.look m.bytes off).getD (Config.freeByte m.epoch off)

/-- `n` bytes of a bin claim. -/
def MatState.bytesFrom (m : MatState) (off n : Nat) : List Byte := (List.range n).map fun k => m.byte (off + k)

/-- Element `idx` of a tile, row by row. -/
def MatState.tile (m : MatState) (t idx : Nat) : Word := Store.get m.tiles 0 (t * 4096 + idx)

/-- A tile written, its words row by row. -/
def MatState.setTile (m : MatState) (t : Nat) (ws : List Word) : MatState :=
  { m with tiles := ((List.range ws.length).zip ws).foldl (fun st p => Store.set st 0 (t * 4096 + p.1) p.2) m.tiles }

/-- A tile of zeros. -/
def MatState.zeroTile (m : MatState) (t : Nat) : MatState := { m with tiles := m.tiles.filter fun e => decide (e.1 / 4096 ≠ t) }

/-- The bytes of a core's accumulator store that its crews claim (17 R232). -/
def MatState.accBytes (m : MatState) : Nat :=
  match m.cfg with
  | some c => 32 * c.m * c.n
  | none => 0

/-- Accumulator and bin bytes that the resident crews of a core claim. -/
def Core.matUsed (c : Core) : Nat × Nat :=
  c.crews.foldl (fun (a : Nat × Nat) e => (a.1 + e.2.mat.accBytes, a.2 + e.2.mat.bin)) (0, 0)

/-- A crew's matrix state changed. -/
def State.updMat (s : State) (uid : Nat) (f : MatState → MatState) : State := s.updCrew uid fun cr => { cr with mat := f cr.mat }

/-! ### Pins (17 R238) -/

/-- A pin: crew, life of its record, scales. -/
abbrev Pin := Nat × Nat × Bool

/-- Pins released: a line that was to leave when its last pin went leaves now (13 R193, 17 R238). -/
def State.unpin (s : State) (gone : Pin → Bool) : State :=
  let due := (s.slices.map fun t => (t.2.sets.map fun n => n.2.ways.filterMap fun w =>
    if w.2.leave && w.2.pins.any gone && w.2.pins.all gone then some (t.1, n.1, w.1) else none).flatten).flatten
  let s := { s with slices := Store.mapV s.slices fun _ t =>
      { t with sets := Store.mapV t.sets fun _ n =>
          { n with ways := Store.mapV n.ways fun _ l => { l with pins := l.pins.filter fun p => !gone p } } } }
  due.foldl (fun s d => s.dropWay d.1 d.2.1 d.2.2) s

/-- Every pin of a crew released. -/
def State.unpinCrew (s : State) (uid : Nat) : State := s.unpin fun p => decide (p.1 = uid)

/-- The pins of an area of a crew's record released. -/
def State.unpinArea (s : State) (uid : Nat) (r : BinRec) (scales : Bool) : State :=
  s.unpin fun p => decide (p = (uid, r.life, scales))

/-- A line read by `tload.llc` pinned, when it is resident and its set holds fewer than 8 pinned lines (17 R238, R254). -/
def State.pinLine (s : State) (core pa : Nat) (p : Pin) : State :=
  match s.wayOf pa, s.lineAt pa with
  | some w, some l =>
    let set := Store.get (s.slice (homeOf pa)).sets {} (setOf pa)
    if l.pins.any fun q => decide (q = p) then s
    else if 8 ≤ (set.ways.filter fun e => !e.2.pins.isEmpty).length then s.countCore core 0x0D 1
    else
      (s.setSet (homeOf pa) (setOf pa) { set with ways := Store.put set.ways w { l with pins := l.pins ++ [p] } }).countCore core
        0x0C 1
  | _, _ => s

/-! ### `tcfg` (17 R247) -/

/-- The rows of a size code (07 R88, 17 R234). -/
def sizeOf3 (n : Nat) : Nat := 16 * 2 ^ n

/-- The configuration that word 2 of `tcfg` names. -/
def tcfgOf (w : Nat) : MatCfg :=
  { m := sizeOf3 (bits w 1 0), n := sizeOf3 (bits w 3 2), k := 32 * bits w 13 4, int := bit w 14, sati := bit w 15 }

/-- A fault of the lowest lane of `Mask()`, without an address. -/
def Ctx.matFault (c : Ctx) (s : State) (code detail va : Nat) : Res := .fault s [{ lane := c.lowMask, code, detail, va }]

/-- The predicate of `tcfg` written in every lane of `Mask()`. -/
def Ctx.tcfgPred (c : Ctx) (b : Bool) (s : State) : State := c.setWarp s (c.putPred c.dPred (fun _ => b) (c.warpIn s))

/-- An operation for the matrix queue of the issuing core. -/
def Ctx.matOp (c : Ctx) (s : State) (cfg : MatCfg) (kind : MatKind) : MatOp :=
  { uid := c.cr.uid, warp := c.wi, seq := (s.core c.core).seq, cfg, kind, done := 0, quant := none, st := .queued }

/-- An operation appended to the matrix queue. -/
def Ctx.pushMat (c : Ctx) (s : State) (op : MatOp) : State :=
  let k := s.core c.core
  let s := s.setCore c.core { k with matQ := k.matQ ++ [op], seq := k.seq + 1 }
  c.setCrew (s.issues c.threads c.core 4 op.seq) fun cr => { cr with engines := cr.engines + 1 }

/-- The barrier of `tcfg` in both queues, under one issue number. -/
def Ctx.pushBarrier (c : Ctx) (cfg : MatCfg) (s : State) : State :=
  let k := s.core c.core
  let h : HodOp :=
    { uid := c.cr.uid, seq := k.seq, barrier := true, num := 0, area := ⟨0, 0, 0, 0, 0, 0⟩, scales := false, fromSrc := 0
      base := 0, stride := 0, row := 0, st := .queued, served := [] }
  let s := s.setCore c.core { k with hodQ := k.hodQ ++ [h] }
  c.pushMat s (c.matOp s cfg .barrier)

/-- `tcfg` (17 R247). -/
def tcfgBody (w : WS) (c : Ctx) (s : State) : Res :=
  if c.mask.isEmpty then .done s .next [] []
  else
    let n := c.a c.lowMask
    let cfg := tcfgOf w.toNat
    let k := s.core c.core
    let mine := c.cr.mat
    let used := k.matUsed
    let shortA := decide (131072 < used.1 - mine.accBytes + 32 * cfg.m * cfg.n)
    let shortB := decide (262144 < used.2 - mine.bin + n)
    if 262144 < n ∨ n % 4096 ≠ 0 then c.matFault s 0x14 0 0
    else if shortA || shortB then
      if c.dPred = 7 then c.matFault s (if shortA then 0x13 else 0x14) 0 0
      else .done (c.tcfgPred true s) .next [] []
    else if 16 ≤ k.matQ.length then .park s (.engine 4) c.sp.ans
    else if 16 ≤ k.hodQ.length then .park s (.engine 5) c.sp.ans
    else
      let s := c.setCrew (c.tcfgPred false s) fun cr => { cr with mat := { cr.mat with cfg := some cfg, bin := n, recs := [] } }
      .done (c.pushBarrier cfg s) .next [] []

/-- `tcfg` (17 R247). -/
def execTcfg (x : Head) (w : WS) (s : State) : Host.Outcome State Fault Refusal := issue (.tcfg x w) s noBad (tcfgBody w)

/-! ### `bres` and `brel` (17 R248) -/

/-- The record of a layout value (17 R234). -/
def layoutRec (fmt k lay life : Nat) : BinRec :=
  { fmt, eoff := bits lay 17 0, rows := sizeOf3 (bits lay 19 18), soff := bits lay 49 32, k, life }

/-- A layout value keeps R234, and its record R235 beside the live records of the crew. -/
def layoutOk (m : MatState) (fmt lay : Nat) (r : BinRec) : Bool :=
  decide (bits lay 19 18 < 3) && decide (bits lay 31 20 = 0) && decide (bits lay 63 50 = 0) && decide (r.eoff % 128 = 0) &&
    decide (r.soff % 128 = 0) && (hasScale fmt || decide (r.soff = 0)) &&
    r.areas.all (fun a => decide (a.1 + a.2 ≤ m.bin)) && areasApart r.areas &&
    r.areas.all fun a => m.recs.all fun o => o.2.areas.all fun b => !areasMeet a b

/-- `bres` (17 R248). -/
def bresBody (sub fmt : Nat) (c : Ctx) (s : State) : Res :=
  if c.mask.isEmpty then .done s .next [] []
  else
    let m := (c.crewIn s).mat
    match m.cfg with
    | none => c.matFault s 0x13 0 0
    | some cfg =>
      let lay := c.b c.lowMask
      let r := layoutRec fmt cfg.k lay s.freeCtr
      if (Store.look m.recs (sub % 8)).isSome ∨ !layoutOk m fmt lay r then c.matFault s 0x14 0 0
      else
        .done (c.setCrew { s with freeCtr := s.freeCtr + 1 } fun cr =>
          { cr with mat := { cr.mat with recs := Store.put cr.mat.recs (sub % 8) r } }) .next [] []

/-- `bres` (17 R248). -/
def execBres (x : Head) (w : WS) (s : State) : Host.Outcome State Fault Refusal :=
  issue (.bres x w) s noBad (bresBody x.sub.toNat (bits w.toNat 3 0))

/-- `brel` (17 R248). -/
def brelBody (sub : Nat) (c : Ctx) (s : State) : Res :=
  if c.mask.isEmpty then .done s .next [] []
  else
    let m := (c.crewIn s).mat
    match m.cfg, Store.look m.recs (sub % 8) with
    | none, _ => c.matFault s 0x13 0 0
    | some _, none => c.matFault s 0x14 0 0
    | some _, some r =>
      let s := c.setCrew s fun cr => { cr with mat := { cr.mat with recs := Store.del cr.mat.recs (sub % 8) } }
      .done (s.unpin fun p => decide (p.1 = c.cr.uid) && decide (p.2.1 = r.life)) .next [] []

/-- `brel` (17 R248). -/
def execBrel (x : Head) (w : WS) (s : State) : Host.Outcome State Fault Refusal :=
  issue (.brel x w) s noBad (brelBody x.sub.toNat)

/-! ### `tload` (17 R249) -/

/-- The checks of `tload` after its record's (17 R249): code, detail and address of the fault. -/
def tloadFault (r : BinRec) (scales : Bool) (src base stride stash : Nat) : Option (Nat × Nat × Nat) :=
  if src ≠ 1 ∧ !canonical base then some (0x1E, 0, base)
  else if !scales ∧ (base % 16 ≠ 0 ∨ stride % 16 ≠ 0) then some (0x06, 4, if src = 1 then 0 else base)
  else if src = 1 ∧ stash < base + (r.rows - 1) * stride + r.rowLen scales then some (0x08, 0, 0)
  else none

/-- `tload` (17 R249). -/
def tloadBody (sub src : Nat) (c : Ctx) (s : State) : Res :=
  if c.mask.isEmpty then .done s .next [] []
  else
    let m := (c.crewIn s).mat
    let scales := bit sub 3
    match m.cfg, Store.look m.recs (sub % 8) with
    | none, _ => c.matFault s 0x13 0 0
    | some _, none => c.matFault s 0x14 0 0
    | some _, some r =>
      let base := c.a c.lowMask
      let stride := c.b c.lowMask
      if scales && !hasScale r.fmt then c.matFault s 0x14 0 0
      else
        match tloadFault r scales src base stride c.cr.shape.stash with
        | some f => c.matFault s f.1 f.2.1 f.2.2
        | none =>
          let k := s.core c.core
          if 16 ≤ k.hodQ.length then .park s (.engine 5) c.sp.ans
          else
            let op : HodOp :=
              { uid := c.cr.uid, seq := k.seq, barrier := false, num := sub % 8, area := r, scales, fromSrc := src, base, stride
                row := 0, st := .queued, served := [] }
            let s := s.setCore c.core { k with hodQ := k.hodQ ++ [op], seq := k.seq + 1 }
            .done (c.setCrew (s.issues c.threads c.core 5 k.seq) fun cr => { cr with engines := cr.engines + 1 }) .next [] []

/-- `tload` (17 R249). -/
def execTload (x : Head) (w : WS) (s : State) : Host.Outcome State Fault Refusal :=
  issue (.tload x w) s noBad (tloadBody x.sub.toNat (bits w.toNat 1 0))

/-! ### `mma` (17 R240, R250) -/

/-- The arithmetic of a pair of formats (17 R240). -/
inductive Arith where
  | layered | exact | integer
deriving DecidableEq, Repr

/-- The legal pairs of element formats (17 R240). -/
def pairArith (a b : Nat) : Option Arith :=
  if a = b ∧ a ≤ 2 then some .layered
  else if 3 ≤ a ∧ a ≤ 11 ∧ 3 ≤ b ∧ b ≤ 11 then some .exact
  else if (a = 11 ∧ (b = 1 ∨ b = 2)) ∨ (b = 11 ∧ (a = 1 ∨ a = 2)) then some .exact
  else if a = 12 ∧ b = 12 then some .integer
  else none

/-- The records that `mma` names suit the configuration (17 R250). -/
def mmaOk (cfg : MatCfg) (a b : BinRec) : Bool :=
  decide (a.rows = cfg.m) && decide (b.rows = cfg.n) &&
    (match pairArith a.fmt b.fmt with
      | some .integer => cfg.int
      | some _ => !cfg.int
      | none => false)

/-- `mma` (17 R250). -/
def mmaBody (sub w : Nat) (c : Ctx) (s : State) : Res :=
  if c.mask.isEmpty then .done s .next [] []
  else
    let m := (c.crewIn s).mat
    let fut := c.a c.lowMask
    match m.cfg, Store.look m.recs (sub % 8), Store.look m.recs (sub / 8 % 8) with
    | some cfg, some a, some b =>
      let k := s.core c.core
      if !mmaOk cfg a b then c.matFault s 0x13 0 0
      else if !canonical fut then c.matFault s 0x1E 0 fut
      else if fut % 8 ≠ 0 then c.matFault s 0x06 3 fut
      else if k.layers.isEmpty then c.matFault s 0x1C 0 0
      else if 16 ≤ k.matQ.length then .park s (.engine 4) c.sp.ans
      else
        let w' := c.warpIn s
        let s := c.setWarp s { w' with mmas := w'.mmas + 1, lastMma := some k.seq }
        .done (c.pushMat s (c.matOp s cfg (.mma (sub % 8) (sub / 8 % 8) a b (bits w 2 0) (bit w 3) fut))) .next [] []
    | _, _, _ => c.matFault s 0x13 0 0

/-- `mma` (17 R250). -/
def execMma (x : Head) (w : WS) (s : State) : Host.Outcome State Fault Refusal :=
  issue (.mma x w) s noBad (mmaBody x.sub.toNat w.toNat)

/-! ### `tdrain`, `tquant`, `tzero` (17 R251, R252) -/

/-- Bytes of an element that `tdrain` writes. -/
def drainBytes (fmt : Nat) : Nat := elemBits fmt / 8

/-- The formats of a drain suit the tile (17 R251). -/
def drainOk (cfg : MatCfg) (quant : Bool) (w : Nat) : Bool :=
  let fmt := bits w 6 3
  let plain := decide (bits w 9 7 = 0)
  if quant then decide (5 ≤ fmt) && decide (fmt ≤ 10) && !cfg.int && decide (cfg.n ≠ 16)
  else if cfg.int then decide (fmt = 0) && plain
  else decide (fmt ≤ 4) && (decide (fmt ≠ 0) || plain)

/-- The end of the range that a drain writes from a base. -/
def drainEnd (cfg : MatCfg) (quant : Bool) (fmt base stride : Nat) : Nat :=
  let rows := base + (cfg.m - 1) * stride
  if quant then Nat.max (rows + cfg.n * elemBits fmt / 8) (base + cfg.m * stride + cfg.m * cfg.n / 32)
  else rows + cfg.n * drainBytes fmt

/-- `tdrain` and `tquant` (17 R251). -/
def drainBody (quant : Bool) (sub w : Nat) (c : Ctx) (s : State) : Res :=
  if c.mask.isEmpty then .done s .next [] []
  else
    match (c.crewIn s).mat.cfg with
    | none => c.matFault s 0x13 0 0
    | some cfg =>
      let stash := bit sub 0
      let base := c.a c.lowMask
      let stride := c.b c.lowMask
      let fut := c.c c.lowMask
      let fmt := bits w 6 3
      if !drainOk cfg quant w then c.matFault s 0x13 0 0
      else if !stash ∧ !canonical base then c.matFault s 0x1E 0 base
      else if base % 16 ≠ 0 ∨ stride % 16 ≠ 0 then c.matFault s 0x06 4 (if stash then 0 else base)
      else if fut % 8 ≠ 0 then c.matFault s 0x06 3 fut
      else if stash ∧ c.cr.shape.stash < drainEnd cfg quant fmt base stride then c.matFault s 0x08 0 0
      else if 16 ≤ (s.core c.core).matQ.length then .park s (.engine 4) c.sp.ans
      else
        let kind : MatKind :=
          if quant then .tquant (bits w 2 0) fmt stash base stride fut
          else .tdrain (bits w 2 0) fmt (decodeRnd (bits w 8 7)) (bit w 9) stash (bit sub 1) base stride fut
        .done (c.pushMat s (c.matOp s cfg kind)) .next [] []

/-- `tdrain` (17 R251). -/
def execTdrain (x : Head) (w : WS) (s : State) : Host.Outcome State Fault Refusal :=
  issue (.tdrain x w) s noBad (drainBody false x.sub.toNat w.toNat)

/-- `tquant` (17 R251). -/
def execTquant (x : Head) (w : WS) (s : State) : Host.Outcome State Fault Refusal :=
  issue (.tquant x w) s noBad (drainBody true x.sub.toNat w.toNat)

/-- `tzero` (17 R252). -/
def tzeroBody (w : Nat) (c : Ctx) (s : State) : Res :=
  if c.mask.isEmpty then .done s .next [] []
  else
    match (c.crewIn s).mat.cfg with
    | none => c.matFault s 0x13 0 0
    | some cfg =>
      if 16 ≤ (s.core c.core).matQ.length then .park s (.engine 4) c.sp.ans
      else .done (c.pushMat s (c.matOp s cfg (.tzero (bits w 2 0)))) .next [] []

/-- `tzero` (17 R252). -/
def execTzero (x : Head) (w : WS) (s : State) : Host.Outcome State Fault Refusal := issue (.tzero x w) s noBad (tzeroBody w.toNat)

/-! ### `mstat` (17 R253) -/

/-- The result of `mstat`. -/
def mstatValue (c : Core) (w : Warp) : Nat :=
  let inServ := c.layers.foldl (fun n l => n + 2 ^ l) 0
  w.report.toNat + 2 ^ 32 * inServ + 2 ^ 36 * c.resOut.toNat + 2 ^ 40 * c.thr.toNat

/-- `mstat`: waits for the warp's `mma` operations, and acquires their completions (17 R253, 11 R177). -/
def mstatBody (c : Ctx) (s : State) : Res :=
  if c.mask.isEmpty then .done s .next [] []
  else
    let w := c.warpIn s
    if w.mmas ≠ 0 then .park s .mma c.sp.ans
    else
      .done (c.meet (.mma c.cr.uid c.wi) (c.setWarp s { c.put 2 (fun _ => mstatValue (s.core c.core) w) w with mmrep := w.report })) .next [] []

/-- `mstat` (17 R253). -/
def execMstat (x : Head) (w : WS) (s : State) : Host.Outcome State Fault Refusal := issue (.mstat x w) s noBad mstatBody

/-- MSTAT_REPORT: the splits of a warp whose `mma` operations have completed perform their `mstat` (17 R253). -/
def State.mstatReport (s : State) (core slot wi : Nat) : State :=
  match s.crew core slot with
  | none => s
  | some cr =>
    let w := cr.warp wi
    if w.mmas ≠ 0 then s
    else
      s.setWarp core slot wi (w.mapSplits fun sp => if sp.st = .parked .mma then { sp with st := .run } else sp)

/-- MSTAT_REPORT (17 R253). -/
def execMstatReport (core slot warp : Nat) (s : State) : Host.Outcome State Fault Refusal := .next (s.whenReady (s.mstatReport core slot warp))

/-! ### Order of bin accesses (17 R236) -/

/-- The areas that an operation of the matrix queue reads. -/
def MatKind.reads (k : MatKind) : List (Nat × Nat) :=
  match k with
  | .mma _ _ a b _ _ _ => a.areas ++ b.areas
  | _ => []

/-- No operation of the hod queue issued by a crew before a number writes bytes of some areas. -/
def Core.hodClear (c : Core) (uid seq : Nat) (areas : List (Nat × Nat)) : Bool :=
  c.hodQ.all fun h => h.barrier || decide (h.uid ≠ uid) || decide (seq ≤ h.seq) ||
    areas.all fun a => !areasMeet a (h.area.area h.scales)

/-- No operation of the matrix queue issued by a crew before a number reads bytes of an area. -/
def Core.matClear (c : Core) (uid seq : Nat) (area : Nat × Nat) : Bool :=
  c.matQ.all fun m => decide (m.uid ≠ uid) || decide (seq ≤ m.seq) || m.kind.reads.all fun a => !areasMeet a area

/-! ### HOD_TLOAD_EXECUTE (17 R237-R239) -/

/-- The head of the hod queue changed. -/
def State.setHod (s : State) (core : Nat) (op : HodOp) : State :=
  let c := s.core core
  s.setCore core { c with hodQ := op :: c.hodQ.drop 1 }

/-- The head of the hod queue has completed. -/
def State.hodPop (s : State) (core uid : Nat) : State :=
  let s := ((s.core core).hodQ.map fun op => op.seq).head?.elim s (s.opEnds core 5)
  let c := s.core core
  let s := s.setCore core (Core.dropJoins { c with hodQ := c.hodQ.drop 1 })
  (s.engineLess uid).wakeEngine core 5

/-- The pieces of a row that lie in one line each: address and length. -/
def rowPieces : Nat → Nat → Nat → List (Nat × Nat)
  | 0, _, _ => []
  | f + 1, va, n =>
    if n = 0 then []
    else
      let k := Nat.min n (128 - va % 128)
      (va, k) :: rowPieces f (va + k) (n - k)

/-- One piece read by the hod: through the home under the policy of its source, a replaced policy counted once it is read, and pinned for
`tload.llc` (11 R164, 17 R237, R238). -/
def State.hodPiece (s : State) (ag : Agent) (op : HodOp) (va n : Nat) : (Halt ⊕ List Byte) × State :=
  if op.fromSrc = 1 then
    match s.engSpot ag true va 1 .read with
    | (.inl h, s) => (.inl h, s)
    | (.inr p, s) => s.engRead ag op.served n p
  else
    match s.engSpot ag false va 1 .read with
    | (.inr (.glob _ pa leaf), s) =>
      let cpol := if op.fromSrc = 2 then 4 else 0
      let r := s.readLine ag op.served leaf pa n cpol false
      let t := if (effCpol leaf cpol).2 then r.2.countCore ag.core 0x01 1 else r.2
      match rdHalt r.1 with
      | .inl (.wait w) => (.inl (.wait w), r.2)
      | .inl h => (.inl h, t)
      | .inr bs =>
        let t := (t.heed ag (.glob va pa leaf) bs).2
        (.inr (r.2.heed ag (.glob va pa leaf) bs).1, if op.fromSrc = 0 then t.pinLine ag.core pa (op.uid, op.area.life, op.scales) else t)
    | (.inl h, s) => (.inl h, s)
    | (.inr _, s) => (.inl (.fault 0x08), s)

/-- The pieces of a row read in order: what stopped them if something did, and the bytes read. -/
def State.hodRow (s : State) (ag : Agent) (op : HodOp) : List (Nat × Nat) → List Byte → Option Halt × List Byte × State
  | [], acc => (none, acc, s)
  | p :: r, acc =>
    match s.hodPiece ag op p.1 p.2 with
    | (.inl h, s') => (some h, acc, s')
    | (.inr bs, s') => State.hodRow s' ag op r (acc ++ bs)

/-- The rows from `i` on, of the first of which `got` is read already, each written to the bin once it is read whole (17 R237, R239): what
stopped them, how many are done, and what is read of the next. -/
def State.hodRows (s : State) (ag : Agent) (op : HodOp) : Nat → Nat → List Byte → Option Halt × Nat × List Byte × State
  | 0, i, _ => (none, i, [], s)
  | f + 1, i, got =>
    let n := op.area.rowLen op.scales
    let at_ := op.base + i * op.stride + got.length
    match s.hodRow ag op (rowPieces (n + 1) at_ (n - got.length)) got with
    | (some h, bs, s) => (some h, i, bs, s)
    | (none, bs, s) =>
      let off := (op.area.area op.scales).1 + i * n
      State.hodRows (s.updMat op.uid fun m => { m with bytes := rawPut m.bytes off bs }) ag op f (i + 1) []

/-- The `tload` at the head of the hod queue performed up to a wait (17 R236-R239). -/
def State.hodExecute (s : State) (core : Nat) : State :=
  let c := s.core core
  match c.hodQ with
  | [] => s
  | op :: _ =>
    match s.crewOf op.uid with
    | none => s
    | some cr =>
      if op.barrier ∨ op.st ≠ .queued ∨ c.canBegin 5 op.seq = false ∨
          c.matClear op.uid op.seq (op.area.area op.scales) = false then s
      else
        let s := if op.row = 0 ∧ op.got = [] then s.unpinArea op.uid op.area op.scales else s
        let key := failKey op.area op.scales
        match s.hodRows (cr.acting core op.seq) op (op.area.rows - op.row) op.row op.got with
        | (none, _, _, s) => (s.updMat op.uid fun m => { m with fails := Store.del m.fails key }).hodPop core op.uid
        | (some (.wait w), i, got, s) => s.setHod core { op with row := i, got, st := .waiting w }
        | (some (.fault code), i, _, s) =>
          (s.updMat op.uid fun m => { m with fails := Store.put m.fails key { code, row := i } }).hodPop core op.uid

/-- HOD_TLOAD_EXECUTE (17 R237). -/
def execHodTloadExecute (core : Nat) (s : State) : Host.Outcome State Fault Refusal := .next (s.whenReady (s.hodExecute core))

/-! ### The matrix queue -/

/-- The head of the matrix queue changed by its own performance, which has begun. -/
def State.setMatOp (s : State) (core : Nat) (op : MatOp) : State :=
  let c := s.core core
  s.setCore core { c with matQ := { op with begun := true } :: c.matQ.drop 1 }

/-- The head of the matrix queue has completed; between two operations the layers change (17 R230). -/
def State.matPop (s : State) (core uid : Nat) : State :=
  let s := ((s.core core).matQ.map fun op => op.seq).head?.elim s (s.opEnds core 4)
  let c := s.core core
  let s := s.setCore core (Core.dropJoins (Core.settle { c with matQ := c.matQ.drop 1 }))
  (s.engineLess uid).wakeEngine core 4

/-- The operation at the head of the matrix queue that may be performed: joins and earlier hod operations allow it (11 R178, 17 R236). -/
def State.matHead (s : State) (core : Nat) : Option (MatOp × Crew) :=
  let c := s.core core
  match c.matQ with
  | [] => none
  | op :: _ =>
    match s.crewOf op.uid with
    | none => none
    | some cr => if c.canBegin 4 op.seq && c.hodClear op.uid op.seq op.kind.reads then some (op, cr) else none

/-- The barrier of a `tcfg` at the head of both queues performed (17 R247). -/
def State.barrier (s : State) (core : Nat) : State :=
  match s.matHead core, (s.core core).hodQ with
  | some (op, _), h :: _ =>
    if op.kind = .barrier ∧ h.barrier = true ∧ h.uid = op.uid ∧ h.seq = op.seq ∧ (s.core core).canBegin 5 h.seq = true then
      let c := s.core core
      let s := s.unpinCrew op.uid
      let s := { s with freeCtr := s.freeCtr + 1 }.updMat op.uid fun m => { m with tiles := [], bytes := [], epoch := s.freeCtr }
      let s := s.setCore core { s.core core with hodQ := c.hodQ.drop 1 }
      (s.matPop core op.uid).wakeEngine core 5
    else s
  | _, _ => s

/-- TCFG_BARRIER (17 R247). -/
def execTcfgBarrier (core : Nat) (s : State) : Host.Outcome State Fault Refusal := .next (s.whenReady (s.barrier core))

/-- A performed operation resolves its future; it completes, or waits for the future's page (17 R244, R250, R251). -/
def State.matFuture (s : State) (core : Nat) (op : MatOp) (cr : Crew) (fut : Nat) (value : BitVec 64) (bad : Bool) : Bool × State :=
  match s.engFuture (cr.acting core op.seq) fut value with
  | (.wait w, s) => (false, s.setMatOp core { op with st := .closing value bad w })
  | (.done, s) => (true, s)
  | (_, s) => (true, s.dblComp core)

/-! ### MMA_EXECUTE (17 R240-R245) -/

/-- Where R241 stands. -/
structure Passes where
  pending : List Nat
  layers  : List Nat
  order   : List Nat
  used    : List Nat
  passes  : Nat
  failed  : Nat
deriving DecidableEq, Repr

/-- The slices of a pass with their layers (17 R241). -/
def Passes.work (p : Passes) : List (Nat × Nat) :=
  if p.passes = 0 then
    ([3, 2, 1, 0].filter fun l => p.pending.any (fun k => decide (k = l)) && p.layers.any fun k => decide (k = l)).map fun l => (l, l)
  else [(p.pending.foldl Nat.max 0, p.layers.foldl Nat.min 3)]

/-- One partial sum computed on a layer, or discarded with its layer (17 R231, R241). -/
def Passes.one (fails : List (Nat × Nat)) (p : Passes) (w : Nat × Nat) : Passes :=
  if fails.any fun f => decide (f = (p.passes, w.2)) then
    { p with layers := p.layers.filter fun y => decide (y ≠ w.2), failed := p.failed + 1 }
  else
    { p with
      order := p.order ++ [w.1]
      used := w.2 :: p.used.filter fun y => decide (y ≠ w.2)
      pending := p.pending.filter fun l => decide (l ≠ w.1) }

/-- The procedure of R241; fuel bounds its passes. `fails` names the failed checks by pass and layer. -/
def Passes.run (fails : List (Nat × Nat)) : Nat → Passes → Passes
  | 0, p => p
  | f + 1, p =>
    if p.pending.isEmpty || p.layers.isEmpty then p
    else
      let q := p.work.foldl (Passes.one fails) p
      Passes.run fails f { q with passes := p.passes + 1 }

/-- The values of a record's row, each under its scale (05 R56-R60, 17 R235). -/
def MatState.row (m : MatState) (r : BinRec) (i : Nat) : List FVal :=
  let x := natOf (m.bytesFrom (r.eoff + i * r.rowBytes) r.rowBytes)
  let sc := if hasScale r.fmt then m.bytesFrom (r.soff + i * (r.k / 32)) (r.k / 32) else []
  (List.range r.k).map fun k => scaledElem r.fmt (elemAt r.fmt x k) ((sc[k / 32]?).getD 127).toNat

/-- The products of two rows. -/
def products (a b : List FVal) : List FVal := (a.zip b).map fun p => (mulVals p.1 p.2).1

/-- The K-slice of a row of products (17 R230). -/
def sliceOf (k : Nat) (l : List FVal) (n : Nat) : List FVal := (l.drop (n * (k / 4))).take (k / 4)

/-- The sum of exact terms rounded once to FP32 in RNE (05 R73, 17 R242, R243). -/
def sumF32 (vs : List FVal) : Nat := (fmtF32.round .ne false false (sumVals .ne vs).1).1

/-- `Add` and `Final` of layered arithmetic (17 R242). -/
def addF32 (x y : Nat) : Nat := sumF32 [fmtF32.decode x, fmtF32.decode y]

/-- An element in layered arithmetic: partial sums added in the order, then the tile's value (17 R241, R242). -/
def layeredElem (k : Nat) (order : List Nat) (c : Option Nat) (ps : List FVal) : Nat :=
  match order.map fun l => sumF32 (sliceOf k ps l) with
  | [] => 0
  | p :: r =>
    let x := r.foldl addF32 p
    match c with
    | some c => addF32 x c
    | none => x

/-- An element in exact arithmetic (17 R243, 05 R73). -/
def exactElem (c : Option Nat) (ps : List FVal) : Nat :=
  sumF32 (ps ++ match c with
    | some c => [fmtF32.decode c]
    | none => [])

/-- The integer elements of a row of S8. -/
def MatState.introw (m : MatState) (r : BinRec) (i : Nat) : List Int :=
  (m.bytesFrom (r.eoff + i * r.k) r.k).map fun b => b.toInt

/-- An element of an INT32 tile, and whether its exact value is out of range (17 R243). -/
def intElem (sati : Bool) (c : Option Nat) (a b : List Int) : Nat × Bool :=
  let x := (a.zip b).foldl (fun s p => s + p.1 * p.2) (match c with
    | some c => signExt c 32
    | none => 0)
  let lo : Int := -(2 ^ 31 : Nat)
  let hi : Int := (2 ^ 31 : Nat) - 1
  (toBits 32 (if sati then clamp lo hi x else x), decide (x < lo) || decide (hi < x))

/-- The elements of a result, row by row, each with the overflow of an INT32 tile (17 R240). -/
def MatState.result (m : MatState) (cfg : MatCfg) (a b : BinRec) (tile : Nat) (zeroc : Bool) (order : List Nat) :
    List (Nat × Bool) :=
  let idx := List.range (cfg.m * cfg.n)
  let cOf (n : Nat) : Option Nat := if zeroc then none else some (m.tile tile n).toNat
  match pairArith a.fmt b.fmt with
  | some .integer =>
    let ra := (List.range cfg.m).map (m.introw a)
    let rb := (List.range cfg.n).map (m.introw b)
    idx.map fun n => intElem cfg.sati (cOf n) ((ra[n / cfg.n]?).getD []) ((rb[n % cfg.n]?).getD [])
  | ar =>
    let ra := (List.range cfg.m).map (m.row a)
    let rb := (List.range cfg.n).map (m.row b)
    idx.map fun n =>
      let ps := products ((ra[n / cfg.n]?).getD []) ((rb[n % cfg.n]?).getD [])
      (if ar = some .layered then layeredElem cfg.k order (cOf n) ps else exactElem (cOf n) ps, false)

/-- The report word of an `mma` (17 R245). -/
def reportWord (p : Passes) (int : Bool) (res : List (Nat × Bool)) : Nat :=
  let vals := res.map fun e => fmtF32.decode e.1
  let ord := ((List.range p.order.length).zip p.order).foldl (fun n e => n + e.2 * 2 ^ (6 + 2 * e.1)) 0
  let isNan := !int && vals.any fun v => decide (v = .nan)
  let isInf := !int && vals.any fun v => decide (v = .inf false) || decide (v = .inf true)
  p.used.foldl (fun n l => n + 2 ^ l) 0 + 2 ^ 4 * (p.passes - 1) + ord + 2 ^ 14 * (decide (p.order ≠ [3, 2, 1, 0])).toNat +
    2 ^ 15 * (decide (p.failed ≠ 0)).toNat + 2 ^ 16 * isNan.toNat + 2 ^ 17 * isInf.toNat +
    2 ^ 18 * (res.any fun e => e.2).toNat

/-- The first failure mark among the areas that an `mma` reads, with its record number (17 R244). -/
def MatState.failure (m : MatState) (ra rb : Nat) (a b : BinRec) : Option (Nat × AreaFail) :=
  ([(ra, a, false), (ra, a, true), (rb, b, false), (rb, b, true)].filterMap fun x =>
    (Store.look m.fails (failKey x.2.1 x.2.2)).map fun f => (x.1, f)).head?

/-- The pins of the areas that an `mma` has read released (17 R238). -/
def State.unpinRead (s : State) (uid : Nat) (a b : BinRec) : State :=
  s.unpin fun p => decide (p.1 = uid) && (decide (p.2.1 = a.life) || decide (p.2.1 = b.life))

/-- An `mma` performed (17 R240-R245): layers that fail a check leave service, the tile is written once, and the status is its report or
its error form. -/
def State.mmaRun (s : State) (core : Nat) (op : MatOp) (cr : Crew) (fails : List (Nat × Nat)) (ra rb : Nat) (a b : BinRec)
    (tile : Nat) (zeroc : Bool) : State :=
  let m := cr.mat
  let s := s.unpinRead op.uid a b
  match m.failure ra rb a b with
  | some (n, f) => s.setMatOp core { op with st := .performed (errWord f.code (2 ^ 20 * n + f.row % 2 ^ 20)) true }
  | none =>
    let c := s.core core
    let start : Passes := { pending := [0, 1, 2, 3], layers := c.layers, order := [], used := [], passes := 0, failed := 0 }
    let p := Passes.run fails 8 start
    let lost := c.layers.filter fun l => !p.layers.any fun k => decide (k = l)
    let s := s.setCore core { c with resOut := c.resOut ||| BitVec.ofNat 4 (lost.foldl (fun n l => n + 2 ^ l) 0) }
    let s := (s.countCore core 0x0A p.failed).countCore core 0x09 (p.passes - 1)
    if !p.pending.isEmpty then s.setMatOp core { op with st := .performed (errWord 0x1C 0) true }
    else
      let res := m.result op.cfg a b tile zeroc p.order
      let s := s.updMat op.uid fun m => (m.zeroTile tile).setTile tile (res.map fun e => BitVec.ofNat 32 e.1)
      s.setMatOp core { op with st := .performed (BitVec.ofNat 64 (reportWord p op.cfg.int res)) false }

/-- MMA_EXECUTE: the `mma` at the head of the matrix queue; `fails` names the residue checks that fail, by pass and layer (17 R231,
R241). -/
def State.mmaExecute (s : State) (core : Nat) (fails : List (Nat × Nat)) : State :=
  match s.matHead core with
  | some (op, cr) =>
    match op.kind, op.st with
    | .mma ra rb a b tile zeroc _, .queued => s.mmaRun core op cr fails ra rb a b tile zeroc
    | _, _ => s
  | none => s

/-- MMA_EXECUTE (17 R241). -/
def execMmaExecute (core : Nat) (fails : List (Nat × Nat)) (s : State) : Host.Outcome State Fault Refusal :=
  .next (s.whenReady (s.mmaExecute core fails))

/-- An `mma` that has completed: counters, its warp's report, and the queue (17 R245, R253, R254). -/
def State.mmaDone (s : State) (core : Nat) (op : MatOp) (value : BitVec 64) : State :=
  let s := s.countCore core 0x08 1
  let s := if !isErr value && value.getLsbD 14 then s.countCore core 0x0B 1 else s
  let upd (w : Warp) : Warp :=
    { w with mmas := w.mmas - 1, report := if w.lastMma = some op.seq then BitVec.ofNat 32 value.toNat else w.report }
  let s := { s with ledger := s.ledger.give (.mma op.uid op.warp) (s.ledger.before (.op core op.seq)) }
  (s.updCrew op.uid fun cr => cr.setWarp op.warp (upd (cr.warp op.warp))).matPop core op.uid

/-- MMA_COMPLETE: the performed `mma` at the head of the matrix queue resolves its future and completes (17 R244). -/
def State.mmaComplete (s : State) (core : Nat) : State :=
  match s.matHead core with
  | some (op, cr) =>
    match op.kind, op.st with
    | .mma _ _ _ _ _ _ fut, .performed value bad =>
      let r := s.matFuture core op cr fut value bad
      if r.1 then r.2.mmaDone core op value else r.2
    | .mma _ _ _ _ _ _ _, .unresolved value _ => (s.dblComp core).mmaDone core op value
    | _, _ => s
  | none => s

/-- MMA_COMPLETE (17 R244). -/
def execMmaComplete (core : Nat) (s : State) : Host.Outcome State Fault Refusal := .next (s.whenReady (s.mmaComplete core))

/-! ### TDRAIN_EXECUTE, TQUANT_EXECUTE, TZERO_EXECUTE (17 R251, R252) -/

/-- An element to be written: its index, the bit offset of its field from a base address, its width and its bits. -/
structure Piece where
  index : Nat
  at8   : Nat
  off   : Nat
  width : Nat
  value : Nat
deriving DecidableEq, Repr

/-- The element of a tile at `idx` converted for `tdrain` (17 R251, 05 R67); code 0 copies the word. -/
def drainElem (fmt : Nat) (rnd : Rnd) (sat : Bool) (x : Nat) : Nat :=
  if fmt = 0 then x else ((codeFmt fmt).round rnd false sat (fmtF32.decode x)).1

/-- The writes of `tdrain`, in order. -/
def MatState.drainPieces (m : MatState) (cfg : MatCfg) (tile fmt : Nat) (rnd : Rnd) (sat : Bool) (base stride : Nat) : List Piece :=
  (List.range (cfg.m * cfg.n)).map fun n =>
    { index := n, at8 := base + n / cfg.n * stride + n % cfg.n * drainBytes fmt, off := 0, width := elemBits fmt
      value := drainElem fmt rnd sat (m.tile tile n).toNat }

/-- The blocks of `tquant`, in order (17 R251, 05 R70). -/
def MatState.quantBlocks (m : MatState) (cfg : MatCfg) (tile fmt : Nat) : List QBlock :=
  (List.range (cfg.m * cfg.n / 32)).map fun b =>
    quantise fmt ((List.range 32).map fun k => fmtF32.decode (m.tile tile (32 * b + k)).toNat)

/-- The writes of `tquant`: the elements, then the scales. -/
def quantPieces (cfg : MatCfg) (bs : List QBlock) (fmt base stride : Nat) : List Piece :=
  let w := elemBits fmt
  let es := ((bs.map fun b => b.elems).flatten)
  let count := cfg.m * cfg.n
  ((List.range count).zip es).map (fun p =>
    let bit0 := p.1 % cfg.n * w
    { index := p.1, at8 := base + p.1 / cfg.n * stride + bit0 / 8, off := bit0 % 8, width := w, value := p.2 : Piece }) ++
  ((List.range bs.length).zip bs).map fun p =>
    { index := count + p.1, at8 := base + cfg.m * stride + p.1, off := 0, width := 8, value := p.2.scale : Piece }

/-- The lowest block that held a NaN or an infinity: 32 × its number + `first` (17 R251, 05 R71). -/
def quantStatus (bs : List QBlock) : Option Nat :=
  (((List.range bs.length).zip bs).filterMap fun p => p.2.first.map fun f => 32 * p.1 + f).head?

/-- The bytes at a checked place as they stand. -/
def State.spotBytes (s : State) (ag : Agent) (n : Nat) (p : Spot) : List Byte :=
  match p with
  | .glob _ pa _ => s.bytesAt pa n
  | .stash off | .win off _ _ _ => ((s.crewOf ag.uid).map fun cr => cr.stashBytes off n).getD []

/-- One element written: whole, or its bits merged into the bytes that it shares (05 R58). -/
def State.putPiece (s : State) (ag : Agent) (stash : Bool) (p : Piece) : Option Halt × State :=
  if p.off = 0 ∧ p.width % 8 = 0 then
    match s.engSpot ag stash p.at8 (p.width / 8) .write with
    | (.inl h, s) => (some h, s)
    | (.inr q, s) => (none, s.engWrite ag q (bytesLE (p.width / 8) p.value))
  else
    let n := (p.off + p.width + 7) / 8
    match s.engSpots ag ((List.range n).map fun k => (stash, p.at8 + k, 1)) [] with
    | (.inl h, s) => (some h, s)
    | (.inr qs, s) =>
      let old := natOf (qs.map fun q => s.spotBytes ag 1 q).flatten
      let low := old % 2 ^ p.off
      let high := old / 2 ^ (p.off + p.width) * 2 ^ (p.off + p.width)
      let new := bytesLE n (low + p.value % 2 ^ p.width * 2 ^ p.off + high)
      (none, (qs.zip new).foldl (fun s x => s.engWrite ag x.1 [x.2]) s)

/-- Elements written in order until one halts: what halted, and how many have been written. -/
def State.putPieces (s : State) (ag : Agent) (stash : Bool) : List Piece → Nat → Option (Halt × Piece) × Nat × State
  | [], n => (none, n, s)
  | p :: r, n =>
    match s.putPiece ag stash p with
    | (some h, s') => (some (h, p), n, s')
    | (none, s') => State.putPieces s' ag stash r (n + 1)

/-- A drain performed up to a wait, with its success value (17 R251). -/
def State.drainRun (s : State) (core : Nat) (op : MatOp) (cr : Crew) (stash : Bool) (ps : List Piece) (ok : BitVec 64) : State :=
  match s.putPieces (cr.acting core op.seq) stash (ps.drop op.done) op.done with
  | (none, n, s) => s.setMatOp core { op with done := n, st := .performed ok false }
  | (some (h, p), n, s) => s.setMatOp core { op with done := n, st := haltSt h p.index }

/-- The success value of `tquant`. -/
def quantValue (q : Option Nat) : BitVec 64 :=
  match q with
  | some k => BitVec.ofNat 64 (2 ^ 30 + k)
  | none => 0

/-- A performed drain at the head of the matrix queue completes; with `.clr` its tile is then zero (17 R251). -/
def State.drainEnd (s : State) (core : Nat) (clr : Option Nat) (fut : Nat) : State :=
  match s.matHead core with
  | none => s
  | some (op, cr) =>
    let clear (s : State) : State := match clr with
      | some t => s.updMat op.uid fun m => m.zeroTile t
      | none => s
    match op.st with
    | .performed value bad =>
      let r := s.matFuture core op cr fut value bad
      if r.1 then (clear r.2).matPop core op.uid else r.2
    | .unresolved _ _ => ((clear s).dblComp core).matPop core op.uid
    | _ => s

/-- TDRAIN_EXECUTE: the `tdrain` at the head of the matrix queue performed up to a wait, and completed (17 R251). -/
def State.tdrainExecute (s : State) (core : Nat) : State :=
  match s.matHead core with
  | some (op, cr) =>
    match op.kind with
    | .tdrain tile fmt rnd sat stash clr base stride fut =>
      let s :=
        if op.st = .queued then
          s.drainRun core op cr stash (cr.mat.drainPieces op.cfg tile fmt rnd sat base stride) 0
        else s
      s.drainEnd core (if clr then some tile else none) fut
    | _ => s
  | none => s

/-- TDRAIN_EXECUTE (17 R251). -/
def execTdrainExecute (core : Nat) (s : State) : Host.Outcome State Fault Refusal := .next (s.whenReady (s.tdrainExecute core))

/-- TQUANT_EXECUTE: the `tquant` at the head of the matrix queue performed up to a wait, and completed (17 R251). -/
def State.tquantExecute (s : State) (core : Nat) : State :=
  match s.matHead core with
  | some (op, cr) =>
    match op.kind with
    | .tquant tile fmt stash base stride fut =>
      let bs := cr.mat.quantBlocks op.cfg tile fmt
      let s :=
        if op.st = .queued then
          s.drainRun core op cr stash (quantPieces op.cfg bs fmt base stride) (quantValue (quantStatus bs))
        else s
      s.drainEnd core none fut
    | _ => s
  | none => s

/-- TQUANT_EXECUTE (17 R251). -/
def execTquantExecute (core : Nat) (s : State) : Host.Outcome State Fault Refusal := .next (s.whenReady (s.tquantExecute core))

/-- TZERO_EXECUTE: the `tzero` at the head of the matrix queue (17 R252). -/
def State.tzeroExecute (s : State) (core : Nat) : State :=
  match s.matHead core with
  | some (op, _) =>
    match op.kind with
    | .tzero tile => (s.updMat op.uid fun m => m.zeroTile tile).matPop core op.uid
    | _ => s
  | none => s

/-- TZERO_EXECUTE (17 R252). -/
def execTzeroExecute (core : Nat) (s : State) : Host.Outcome State Fault Refusal := .next (s.whenReady (s.tzeroExecute core))

end Sys2Proof.Machine
end

