-- ==== Sys2Proof/Machine/Control.lean ====
section
/-! DEFINITION. The control instructions (09 R137-R143, 03 R38, R45, 07 R87-R89). -/

namespace Sys2Proof.Machine

/-! ### Branches (09 R138, R139) -/

/-- The target of `bra`, `call` and `meet` (07 R87). -/
def Ctx.target (c : Ctx) (w : WB) : Addr := c.pc + 4 * BitVec.signExtend 64 w.off

/-- Every lane of `Mask()` to one target. -/
def Ctx.toTarget (c : Ctx) (a : Addr) : List (Nat × Addr) := c.mask.map fun l => (l, a)

/-- The fault of a register target: 0x1E for a non-canonical address, then 0x06 for one that is not a multiple of 4 (09 R139). -/
def targetFault (lane a : Nat) : Option LaneFault :=
  if 2 ^ 56 ≤ a then some { lane, code := 0x1E }
  else if a % 4 ≠ 0 then some { lane, code := 0x06, detail := 2 }
  else none

/-- The lanes of `Mask()` to the addresses in A, checked first; `f` is what else the branch does. -/
def jumpBody (f : Ctx → Warp → Warp) (c : Ctx) (s : State) : Res :=
  let fs := c.mask.filterMap fun l => targetFault l (c.a l)
  if fs.isEmpty then
    .done (c.setWarp s (f c (c.warpIn s))) (.goto (c.mask.map fun l => (l, BitVec.ofNat 64 (c.a l)))) [] []
  else .fault s fs

/-- `bra` (09 R138). -/
def execBra (x : Head) (w : WB) (s : State) : Host.Outcome State Fault Refusal :=
  issue (.bra x w) s noBad fun c s => .done s (.goto (c.toTarget (c.target w))) [] []

/-- `brx` (09 R138, R139). -/
def execBrx (x : Head) (w : WB) (s : State) : Host.Outcome State Fault Refusal :=
  issue (.brx x w) s noBad (jumpBody fun _ wp => wp)

/-- The return address written to D in the lanes of `Mask()` (09 R139). -/
def Ctx.link (c : Ctx) (w : Warp) : Warp := c.put 2 (fun _ => c.next.toNat) w

/-- `call` (09 R137). -/
def execCall (x : Head) (w : WB) (s : State) : Host.Outcome State Fault Refusal :=
  issue (.call x w) s noBad fun c s =>
    .done (c.setWarp s (c.link (c.warpIn s))) (.goto (c.toTarget (c.target w))) [] []

/-- `call.r` (09 R137). -/
def execCallR (x : Head) (w : WB) (s : State) : Host.Outcome State Fault Refusal :=
  issue (.callR x w) s noBad (jumpBody Ctx.link)

/-- `ret` (09 R139). -/
def execRet (x : Head) (w : WS) (s : State) : Host.Outcome State Fault Refusal :=
  issue (.ret x w) s noBad (jumpBody fun _ wp => wp)

/-! ### `exit`, `meet`, `trap`, `brk`, `yield` -/

/-- `exit`. With the last lanes of a warp that holds sections it is first the release that leaving them is (03 R45, 21 R296). -/
def exitBody (c : Ctx) (s : State) : Res :=
  let last := c.w.allSplits.all fun sp => (lanesWithout sp.lanes c.mask).isEmpty
  c.released (last && !c.w.secs.isEmpty) s fun s => .done s .exit [] []

/-- `exit` (03 R45). -/
def execExit (x : Head) (w : WS) (s : State) : Host.Outcome State Fault Refusal := issue (.exit x w) s noBad exitBody

/-- `meet`: the address pushed on each stack of eight; fault 0x1F on a full one (03 R38). -/
def meetBody (w : WB) (c : Ctx) (s : State) : Res :=
  let fs := c.mask.filterMap fun l => if 8 ≤ (c.w.stack l).length then some { lane := l, code := 0x1F : LaneFault } else none
  if fs.isEmpty then
    let wp := c.warpIn s
    .done (c.setWarp s { wp with meets := c.mask.foldl (fun m l => Store.put m l (c.target w :: c.w.stack l)) wp.meets })
      .next [] []
  else .fault s fs

/-- `meet` (03 R38). -/
def execMeet (x : Head) (w : WB) (s : State) : Host.Outcome State Fault Refusal := issue (.meet x w) s noBad (meetBody w)

/-- A fault in every lane of `Mask()` with a code of the program's; none in an empty mask (09 R140). -/
def trapBody (code : Nat) (w : WS) (c : Ctx) (s : State) : Res :=
  if c.mask.isEmpty then .done s .next [] []
  else .fault s (c.mask.map fun l => { lane := l, code, detail := w.toNat % 256 })

/-- `trap` (09 R140). -/
def execTrap (x : Head) (w : WS) (s : State) : Host.Outcome State Fault Refusal := issue (.trap x w) s noBad (trapBody 0x18 w)

/-- `brk` (09 R140). -/
def execBrk (x : Head) (w : WS) (s : State) : Host.Outcome State Fault Refusal := issue (.brk x w) s noBad (trapBody 0x1B w)

/-- `yield` (09 R142). -/
def execYield (x : Head) (w : WS) (s : State) : Host.Outcome State Fault Refusal :=
  issue (.yield x w) s noBad fun _ s => .done s .yield [] []

/-! ### `tret` (09 R141) -/

/-- The fault of one lane of `tret`: its resume address sealed, or no target of `ret`. -/
def Ctx.tretFault (c : Ctx) (l : Nat) : Option LaneFault :=
  if c.w.sealed .v 242 l then some { lane := l, code := 0x04, detail := 242 }
  else if c.w.sealed .v 243 l then some { lane := l, code := 0x04, detail := 243 }
  else targetFault l (c.w.vval 242 2 l)

/-- `tret`: all handler lanes together with empty handler stacks, each to its resume address; a fault here is a double fault. -/
def tretBody (c : Ctx) (s : State) : Res :=
  if 1 < c.w.splits.length ∨ c.sp.lanes.any (fun l => !(c.w.stack l).isEmpty) then
    .fault s [{ lane := c.low, code := 0x15 }]
  else
    let fs := c.sp.lanes.filterMap c.tretFault
    if fs.isEmpty then .done s (.tret (c.sp.lanes.map fun l => (l, BitVec.ofNat 64 (c.w.vval 242 2 l)))) [] []
    else .fault s fs

/-- `tret` (09 R141); fault 0x01 outside a handler. -/
def execTret (x : Head) (w : WS) (s : State) : Host.Outcome State Fault Refusal :=
  issue (.tret x w) s (fun c => !c.inHandler) tretBody

/-! ### Special registers (07 R89, 09 R143) -/

/-- `%level` of a lane: the nesting level, its poison mark, and whether the crew is a fill task (15 R220, R227). -/
def Ctx.levelReg (c : Ctx) (l : Nat) : Nat :=
  match c.cr.fill with
  | none => 0
  | some f => f.level % 4 + (if c.w.pmark.any fun i => decide (i = l) then 2 ^ 30 else 0) + 2 ^ 31

/-- The special register `n` as lane `l` reads it (07 R89). -/
def Ctx.special (c : Ctx) (n l : Nat) : Nat :=
  match n with
  | 0 => l
  | 1 => c.wi
  | 2 => c.cr.cx.toNat
  | 3 => c.cr.cy.toNat
  | 4 => c.cr.cz.toNat
  | 5 => c.core
  | 6 => c.cr.part
  | 7 => c.width
  | 8 => c.sp.lanes.foldl (fun r i => r + 2 ^ i) 0
  | 9 => c.clk % 2 ^ 64
  | 10 => c.w.fpf.toNat
  | 11 => c.w.conv.toNat
  | 12 => c.w.mpred.toNat
  | 13 => c.w.mmrep.toNat
  | 14 => c.w.fault.toNat
  | _ => c.levelReg l

/-- `mfsr` (09 R143). -/
def execMfsr (x : Head) (w : WS) (s : State) : Host.Outcome State Fault Refusal :=
  issueReg (.mfsr x w) s fun c wp =>
    c.put (if w.toNat = 8 then laneBitRegs c.width else sregRegs w.toNat) (c.special w.toNat) wp

/-- `mtsr`: `%fpf`, `%conv` or `%mpred` once for the warp; reserved bits ignore the value (09 R143, 05 R66, 03 R42, R43). -/
def mtsrBody (n : Nat) (c : Ctx) (w : Warp) : Warp :=
  if c.mask.isEmpty then w
  else
    let v := c.a c.lowMask
    match n with
    | 10 => { w with fpf := BitVec.ofNat 32 (v % 64) }
    | 11 => { w with conv := BitVec.ofNat 32 v &&& 0xFFFF0001 }
    | _ => { w with mpred := BitVec.ofNat 64 v }

/-- `mtsr` (09 R143). -/
def execMtsr (x : Head) (w : WS) (s : State) : Host.Outcome State Fault Refusal :=
  issueReg (.mtsr x w) s (mtsrBody w.toNat)

end Sys2Proof.Machine
end

