-- ==== Sys2Proof/Machine/Sync.lean ====
section
/-! DEFINITION. The bell, future, continuation and work-queue instructions and `spawn` (13 R198-R206). -/

namespace Sys2Proof.Machine

/-- An access of the lowest lane of `Mask()` for an instruction that acts once per warp (13 R182). -/
def Ctx.one (c : Ctx) (addr size : Nat) : List Want := [{ lane := c.lowMask, addr, size }]

/-- A fault of the lowest lane of `Mask()`. -/
def Ctx.lowFault (c : Ctx) (code : Nat) : List LaneFault := [{ lane := c.lowMask, code }]

/-- The word at a checked place, read where atomic steps are performed: at the home, or in the stash; none where it is poisoned. -/
def Ctx.homeWord (c : Ctx) (s : State) (q : Want) (l : Loc) : Option Nat × State :=
  match l with
  | .glob va pa leaf =>
    let s := s.writeReq c.agent leaf va pa 0
    (if s.poisoned pa then none else some (s.natAt pa q.size), s)
  | .win off _ _ _ =>
    let s := c.touchWindows 0 s [(q, l)]
    (some ((c.crewIn s).stashNat off q.size), s)
  | .stash off => (some ((c.crewIn s).stashNat off q.size), s)
  | .frame _ _ => (none, s)

/-! ### Bells (13 R198, R199) -/

/-- A job-scope bell in a crew whose job is not co-resident (03 R48). -/
def bellBadScope (w : WS) (c : Ctx) : Bool := bit w.toNat 0 && !c.cr.shape.cor

/-- The word at a job-scope bell passes the checks of the step, which come before the release (00 R11). -/
def Loc.sound (l : Loc) (s : State) (bad : Nat → Bool) : Bool :=
  match l with
  | .glob _ pa _ => !s.poisoned pa && !bad (s.natAt pa 8)
  | _ => true

/-- The place of a bell: its physical address, or its place in the crew's stash. -/
def Ctx.bellPlace (c : Ctx) (l : Loc) : Nat :=
  match l with
  | .glob _ pa _ => pa
  | .win off _ _ _ => stashKey c.cr.uid off
  | .stash off => stashKey c.cr.uid off
  | .frame _ off => stashKey c.cr.uid off

/-- A bell that a store, an `atom` or a `red` has written since its last step holds undefined bytes (13 R199; notes/assumptions/46.md). -/
def Ctx.bellWord (c : Ctx) (s : State) (q : Want) (l : Loc) : State := c.loosen s q l s.ledger.written

/-- A step at a bell as what it hands on: `bell.init` (`fresh`) begins both phases anew, and arrivals release to the phase in which they arrive (11
R177). It is no store of a thread. -/
def Ctx.ring (c : Ctx) (fresh : Bool) (old : Nat) (l : Loc) (s : State) : State :=
  let at_ := c.bellPlace l
  let g := if fresh then (s.ledger.setPoint (.bell at_ 0) {}).setPoint (.bell at_ 1) {} else s.ledger.send c.threads (.bell at_ (bits old 32 32))
  { s with ledger := match c.evKey s l with
    | some k => g.clear k 8
    | none => g }

/-- One step at a bell: `f` of its word gives the new word, or nothing where the word is not changed; `k` goes on with the old word. With
`fresh` the old word is of no account, even where it is poisoned. With `rel` a release comes first, once every check is passed (00 R11). -/
def Ctx.bellStep (c : Ctx) (fresh rel : Bool) (w : WS) (s : State) (bad : Nat → Bool) (f : Nat → Option Nat) (k : Nat → State → Res) : Res :=
  let job := bit w.toNat 0
  c.checked (if job then 0 else 1) { acc := .write } s (c.one (c.a c.lowMask) 8) fun ls s =>
    match ls with
    | [] => .done s .next [] []
    | (q, l) :: _ =>
      let s := c.bellWord s q l
      c.released (rel && l.sound s bad) s fun s =>
      let r := c.homeWord s q l
      let s' := r.2
      match if fresh then some (r.1.getD 0) else r.1 with
      | none => .fault s' [{ lane := c.lowMask, code := 0x09, va := q.addr }]
      | some old =>
        if bad old then .fault s' (c.lowFault 0x12)
        else
          match f old with
          | none => k old s'
          | some new =>
            let s := c.putAll [(q, l, bytesLE 8 new)] (c.ring fresh old l s')
            if bellFlipped old new then
              match l with
              | .glob _ pa _ => k old (s.wakeBell pa new)
              | .win off _ _ _ => k old (c.setCrew s fun cr => cr.wakeBell off new)
              | .stash off => k old (c.setCrew s fun cr => cr.wakeBell off new)
              | .frame _ _ => k old s
            else k old s

/-- `bell.init` (13 R199). -/
def bellInitBody (w : WS) (c : Ctx) (s : State) : Res :=
  if c.mask.isEmpty then .done s .next [] []
  else
    let e := c.b c.lowMask % 2 ^ 16
    c.bellStep true false w s (fun _ => decide (e = 0)) (fun _ => some e) fun _ s => .done s .next [] []

/-- `bell.init` (13 R199). -/
def execBellInit (x : Head) (w : WS) (s : State) : Host.Outcome State Fault Refusal :=
  issue (.bellInit x w) s (bellBadScope w) (bellInitBody w)

/-- The arrivals that `bell.arr` adds: B, or 1 when it is omitted (13 R198, R199). -/
def Ctx.arrivals (c : Ctx) : Nat :=
  match c.x.b, c.x.lit with
  | .imm, none => 1
  | _, _ => c.b c.lowMask % 2 ^ 16

/-- `bell.arr`; at job scope a device-scope release (13 R199, 11 R177). -/
def bellArrBody (w : WS) (c : Ctx) (s : State) : Res :=
  if c.mask.isEmpty then .done s .next [] []
  else
    c.bellStep false (bit w.toNat 0) w s bellBad (fun old => if c.arrivals = 0 then none else some (bellArrive old c.arrivals false))
      fun old s => .done (c.setWarp s (c.put 2 (fun _ => old) (c.warpIn s))) .next [] []

/-- `bell.arr` (13 R199). -/
def execBellArr (x : Head) (w : WS) (s : State) : Host.Outcome State Fault Refusal :=
  issue (.bellArr x w) s (bellBadScope w) (bellArrBody w)

/-- `bell.wait` completed with a word: an acquire of the arrivals of the phase that it awaited, at job scope one of device scope (13 R199, 11
R177). -/
def Ctx.bellDone (c : Ctx) (w : WS) (word place : Nat) (s : State) : Res :=
  let s := c.acquired (bit w.toNat 0) (c.meet (.bell place (c.b c.lowMask % 2)) s)
  .done (c.setWarp s (c.put 2 (fun _ => word) (c.warpIn s))) .next [] []

/-- `bell.wait`: complete when `PH` differs from B[0], otherwise parked until it changes; fault 0x0D in a section, at issue only (13 R199, 21
R304). -/
def bellWaitBody (w : WS) (c : Ctx) (s : State) : Res :=
  if c.mask.isEmpty then .done s .next [] []
  else if c.again.isNone && !c.w.secs.isEmpty then .fault s (c.lowFault 0x0D)
  else
    match Store.look c.sp.ans 0 with
    | some word => c.bellDone w word (Store.get c.sp.ans 0 1) s
    | none =>
      let job := bit w.toNat 0
      c.checked (if job then 0 else 1) { acc := .write } s (c.one (c.a c.lowMask) 8) fun ls s =>
        match ls with
        | [] => .done s .next [] []
        | (q, l) :: _ =>
          match c.homeWord (c.bellWord s q l) q l with
          | (none, s') => .fault s' [{ lane := c.lowMask, code := 0x09, va := q.addr }]
          | (some old, s') =>
            if bellBad old then .fault s' (c.lowFault 0x12)
            else if bit old 32 != bit (c.b c.lowMask) 0 then c.bellDone w old (c.bellPlace l) s'
            else .park s' (match l with
              | .glob _ pa _ => .bell true pa
              | .win off _ _ _ => .bell false off
              | .stash off => .bell false off
              | .frame _ off => .bell false off) c.sp.ans

/-- `bell.wait` (13 R199). -/
def execBellWait (x : Head) (w : WS) (s : State) : Host.Outcome State Fault Refusal :=
  issue (.bellWait x w) s (bellBadScope w) (bellWaitBody w)

/-! ### Futures (13 R201, R202) -/

/-- The lanes whose future's line is poisoned. -/
def poisonedWants (s : State) (ls : List (Want × Loc)) : List LaneFault :=
  ls.foldl (fun fs p => match p.2 with
    | .glob va pa _ =>
      if s.poisoned pa && !fs.any (fun f => decide (f.lane = p.1.lane)) then fs ++ [{ lane := p.1.lane, code := 0x09, va }] else fs
    | _ => fs) []

/-- The word of a future that a lane names: undefined where the store that made it pending is not ordered before (13 R200; notes/assumptions/46.md). -/
def Ctx.futWord (c : Ctx) (s : State) (lane pa : Nat) : State := s.loosen c.cr.uid none pa 8 (s.ledger.unready (c.thr lane))

/-- A lane releases what it has read, as it resolves a future (11 R171, R177). -/
def Ctx.futRel (c : Ctx) (s : State) (lane : Nat) : State := { s with ledger := s.ledger.release (c.thr lane) }

/-- A lane as the resolver of a future: its write carries a release at the scope of the `fset`, and every read of the value acquires (11 R177). -/
def Ctx.resolver (c : Ctx) (s : State) (lane scope : Nat) : Option (Thr × List Rel) :=
  let t := c.thr lane
  some (t, [{ clk := (s.ledger.before t).mark t (s.ledger.count + 1), scope, uid := some c.cr.uid, warp := some c.wi, any := true }])

/-- The lanes' resolutions in increasing order: a lane whose future is poisoned or resolved already is fault 0x09 or 0x11, and no higher lane
is performed (13 R201). -/
def Ctx.fsetLoop (c : Ctx) (scope : Nat) : State → List (Want × Loc) → Res
  | s, [] => .done s .next [] []
  | s, (q, l) :: r =>
    match l with
    | .glob va pa leaf =>
      let s := c.futWord s q.lane pa
      if s.poisoned pa then .fault s [{ lane := q.lane, code := 0x09, va }]
      else if s.natAt pa 8 < 2 ^ 63 then .fault s [{ lane := q.lane, code := 0x11 }]
      else
        match (c.futRel (s.writeReq c.agent leaf va pa 0) q.lane).resolveFut (decide (3 ≤ scope)) (c.resolver s q.lane scope) pa (c.b q.lane) with
        | (true, s') => Ctx.fsetLoop c scope s' r
        | (false, s') => .fault s' [{ lane := q.lane, code := 0x11 }]
    | _ => Ctx.fsetLoop c scope s r

/-- The first lane's future can be resolved. -/
def firstPending (s : State) (ls : List (Want × Loc)) : Bool :=
  match ls with
  | (_, .glob _ pa _) :: _ => !s.poisoned pa && decide (2 ^ 63 ≤ s.natAt pa 8)
  | _ => false

/-- The lanes of `fset` performed in order, as a release at its scope where some lane is performed (13 R201). -/
def Ctx.fsetLanes (c : Ctx) (w : WS) (ls : List (Want × Loc)) (s : State) : Res :=
  let scope := w.toNat % 8
  if firstPending s ls then c.released (decide (3 ≤ scope)) s fun s => c.fsetLoop scope s ls else c.fsetLoop scope s ls

/-- The accesses up to the first that has not passed its checks. -/
def placedFirst : List (Want × Placed) → List (Want × Loc)
  | (q, .loc l) :: r => (q, l) :: placedFirst r
  | _ => []

/-- `fset`: each lane is checked and performed in its turn, so a lane that faults leaves the lanes below it resolved (13 R201; for a lane whose
page waits, notes/assumptions/35.md). -/
def fsetBody (w : WS) (c : Ctx) (s : State) : Res :=
  let r := c.placeAll 0 { acc := .write } 0 [] s (c.mask.map fun l => { lane := l, addr := c.a l, size := 8 })
  let ok := placedFirst r.1
  let done := c.fsetLanes w ok r.2
  match r.1.drop ok.length with
  | [] => if c.mask.isEmpty then .done s .next [] [] else done
  | (q, p) :: _ =>
    match done, p with
    | .done t _ _ _, .fault code detail va => .fault t [{ lane := q.lane, code, detail, va }]
    | .done _ _ _ _, _ => c.checked 0 { acc := .write } s (c.mask.map fun l => { lane := l, addr := c.a l, size := 8 }) fun _ s => .done s .next [] []
    | x, _ => x

/-- `fset` (13 R201). -/
def execFset (x : Head) (w : WS) (s : State) : Host.Outcome State Fault Refusal := issue (.fset x w) s noBad (fsetBody w)

/-- One lane of `fon`: the node linked to a pending future, or its record committed, which the lane then releases to (13 R202, 11 R177). -/
def Ctx.fonLane (c : Ctx) (s : State) (lane fut node : Nat) : State :=
  let s := c.futWord s lane fut
  let pending := decide (2 ^ 63 ≤ s.natAt fut 8)
  let id := s.arrivals
  let n : Cont :=
    { id, part := c.cr.part, job := c.cr.jobKey, asn := c.cr.asn, root := c.cr.root, fut := if pending then some fut else none
      node, hdr := none, order := 0, page := none, since := s.ledger.count }
  let s := { s with
    conts := s.conts ++ [n]
    arrivals := s.arrivals + 1
    ledger := if pending then s.ledger else s.ledger.send [c.thr lane] (.cont id) }
  if pending then s else s.contCommit id

/-- The lanes of `fon`, node and future by turns. -/
def Ctx.fonLoop (c : Ctx) : State → List (Want × Loc) → State
  | s, (q, .glob _ node _) :: (_, .glob va pa leaf) :: r =>
    Ctx.fonLoop c (c.fonLane (s.writeReq c.agent leaf va pa 0) q.lane pa node) r
  | s, _ => s

/-- `fon`: a lane's node is checked, then its future; a device-scope release where a future is found resolved (13 R202, 11 R177). A node
on a poisoned line is fault 0x09 (DEDUCED, notes/assumptions/46.md). -/
def fonBody (c : Ctx) (s : State) : Res :=
  let ws := (c.mask.map fun l =>
    [{ lane := l, addr := c.b l, size := 32 : Want }, { lane := l, addr := c.a l, size := 8 }]).flatten
  c.checked 0 { acc := .write } s ws fun ls s =>
    let fs := poisonedWants s ls
    let resolved := ls.any fun p => decide (p.1.size = 8) && (match p.2 with
      | .glob _ pa _ => decide (s.natAt pa 8 < 2 ^ 63)
      | _ => false)
    if !fs.isEmpty then .fault s fs else c.released resolved s fun s => .done (c.fonLoop s ls) .next [] []

/-- `fon` (13 R202). -/
def execFon (x : Head) (w : WS) (s : State) : Host.Outcome State Fault Refusal := issue (.fon x w) s noBad fonBody

/-! ### Work queues (13 R203, R204) -/

/-- The header that A names, checked and read (13 R203): its physical address, or where the operation ends. -/
def Ctx.header (c : Ctx) (s : State) (k : Nat → QHdr → State → Res) : Res :=
  c.checked 0 { acc := .write } s (c.one (c.a c.lowMask) 64) fun ls s =>
    match ls with
    | (q, .glob va pa leaf) :: _ =>
      if s.poisoned pa then .fault s [{ lane := c.lowMask, code := 0x09, va := q.addr }]
      else
        let s := s.writeReq c.agent leaf va pa 0
        if (s.qhdr pa).ok then k pa (s.qhdr pa) s else .fault s (c.lowFault 0x12)
    | _ => .done s .next [] []

/-- The state bytes of a range of indices, checked as accesses of the lowest lane before any field changes (13 R203). -/
def Ctx.slots (c : Ctx) (h : QHdr) (first n : Nat) (s : State) (k : List Nat → State → Res) : Res :=
  c.checked 0 { acc := .write } s ((h.slots first n).map fun a => { lane := c.lowMask, addr := a.1, size := 1 }) fun ls s =>
    let fs := poisonedWants s ls
    if !fs.isEmpty then .fault s fs
    else k (ls.filterMap fun p => match p.2 with
      | .glob _ pa _ => some pa
      | _ => none) s

/-- State bytes written. -/
def Ctx.putSlots (c : Ctx) (pas : List Nat) (v : Byte) (s : State) : State :=
  pas.foldl (fun s pa => s.devPut c.cr.qagent pa [v]) s

/-- The predicate that `PD` of word 2 names, written in every lane of `Mask()`. -/
def Ctx.putPd (c : Ctx) (w : WS) (b : Bool) (wp : Warp) : Warp := c.putPred (wsPd w) (fun _ => b) wp

/-- The issuing split's place among the requests that wait. -/
def Ctx.isMine (c : Ctx) (q : QWait) : Bool := decide (q.uid = c.cr.uid ∧ q.warp = c.wi ∧ q.lane = c.low)

/-- The issuing split leaves the requests that wait. -/
def Ctx.unqueue (c : Ctx) (s : State) : State := { s with qwaits := s.qwaits.filter fun q => !c.isMine q }

/-- The reservation made (13 R204). -/
def Ctx.reserve (c : Ctx) (w : WS) (pa : Nat) (h : QHdr) (n : Nat) (s : State) : Res :=
  c.slots h h.next n s fun pas s =>
    let s := (c.putSlots pas 1 (c.unqueue s)).qadd c.cr.qagent pa 0x24 n
    let s := s.qadd c.cr.qagent pa 0x20 (2 ^ 32 - n)
    let s := c.setCrew s fun cr =>
      { cr with qres := cr.qres ++ [{ hdr := pa, hva := c.a c.lowMask, first := h.next, count := n, take := false }] }
    let s := s.kick c.cr.qagent (c.a c.lowMask) pa
    .done (c.setWarp s (c.putPd w true (c.put 1 (fun _ => h.next) (c.warpIn s)))) .next [] []

/-- `qres`: reserved when enough slots are free and no earlier request waits; otherwise it fails (`.try`) or waits in order of arrival
(13 R204). -/
def qresBody (w : WS) (c : Ctx) (s : State) : Res :=
  let try_ := bit w.toNat 0
  if c.mask.isEmpty then .done s .next [] []
  else if !try_ && c.again.isNone && !c.w.secs.isEmpty then .fault s (c.lowFault 0x0D)
  else
    let r := c.header s fun pa h s =>
      let n := c.b c.lowMask
      if n = 0 ∨ h.cap < n ∨ 16 ≤ (c.crewIn s).qres.length then .fault s (c.lowFault 0x12)
      else
        let first := match s.firstWaiter pa with
          | none => true
          | some (_, some q) => c.isMine q
          | some (_, none) => false
        if n ≤ h.free ∧ first = true then c.reserve w pa h n s
        else if try_ then .done (c.setWarp s (c.putPd w false (c.warpIn s))) .next [] []
        else
          let s :=
            if s.qwaits.any c.isMine then s
            else
              let q : QWait := { hdr := pa, uid := c.cr.uid, warp := c.wi, lane := c.low, count := n, order := s.arrivals }
              { s with qwaits := s.qwaits ++ [q], arrivals := s.arrivals + 1 }
          .park s (.queue pa) c.sp.ans
    match r with
    | .fault s fs => .fault (if s.qwaits.any c.isMine then (c.unqueue s).wakeQueues else s) fs
    | r => r

/-- `qres` (13 R204). -/
def execQres (x : Head) (w : WS) (s : State) : Host.Outcome State Fault Refusal := issue (.qres x w) s noBad (qresBody w)

/-- `qcom`: exactly one outstanding reservation of the crew becomes committed, after the release, which comes once every check is passed (13
R204, R205, 00 R11). -/
def qcomBody (c : Ctx) (s : State) : Res :=
  if c.mask.isEmpty then .done s .next [] []
  else
    c.header s fun pa h s =>
      let first := c.b c.lowMask
      let n := c.c c.lowMask
      let mine (r : QRes) : Bool := decide (r.hdr = pa ∧ r.first = first ∧ r.count = n ∧ r.take = false)
      if !(c.crewIn s).qres.any mine then .fault s (c.lowFault 0x12)
      else
        c.slots h first n s fun pas s => c.released true s fun s =>
          let lseq := match s.job? c.cr.part c.cr.jobKey with
            | some x => x.lseq
            | none => 0
          let q : QCommit :=
            { hdr := pa, hva := c.a c.lowMask, first, count := n, order := s.arrivals, part := c.cr.part, job := c.cr.jobKey, lseq }
          let s := pas.foldl (fun s pa => c.send (.slot pa) { s with ledger := s.ledger.setPoint (.slot pa) {} }) (c.putSlots pas 2 s)
          let s := { s with qcommits := if h.entry = 0 then s.qcommits else s.qcommits ++ [q], arrivals := s.arrivals + 1 }
          let s := c.setCrew s fun cr => { cr with qres := cr.qres.filter fun r => !mine r }
          .done (s.kick c.cr.qagent (c.a c.lowMask) pa) .next [] []

/-- `qcom` (13 R204). -/
def execQcom (x : Head) (w : WS) (s : State) : Host.Outcome State Fault Refusal := issue (.qcom x w) s noBad qcomBody

/-- The run of slots from an index whose state bytes hold `want`, at most `f`, read as accesses of the lowest lane; the place that fails
its check, if one does (13 R203). -/
def Ctx.scan (c : Ctx) (h : QHdr) (want : Byte) : Nat → Nat → List Nat → Known → State → Option Placed × List Nat × Known × State
  | 0, _, l, k, s => (none, l, k, s)
  | f + 1, i, l, k, s =>
    let va := h.stateVa i
    let p := c.placeGlobal { acc := .write } s k va 1 fun pa leaf => .glob va pa leaf
    match p.1 with
    | .loc (.glob _ pa _) =>
      if p.2.2.poisoned pa then (some (.fault 0x09 0 va), l, p.2)
      else if p.2.2.seenByte pa = want then Ctx.scan c h want f (i + 1) (l ++ [pa]) p.2.1 p.2.2
      else (none, l, p.2)
    | x => (some x, l, p.2)

/-- Where an access of the lowest lane that fails leaves the instruction. -/
def Ctx.placedFail (c : Ctx) (s : State) (p : Placed) : Res :=
  match p with
  | .loc _ => .done s .next [] []
  | .page va r => c.parkPages s [(c.lowMask, va, r)] c.sp.ans
  | .flip n => .park (s.flipWait n).2 (s.flipWait n).1 c.sp.ans
  | .fault code detail va => .fault s [{ lane := c.lowMask, code, detail, va }]

/-- The take made: the crew's earlier take freed, void slots at `HEAD` freed, the committed run taken, and void slots at the new `HEAD` freed
(13 R204, R205). -/
def Ctx.take (c : Ctx) (w : WS) (pa : Nat) (h : QHdr) (old : Option QRes) (oldPas voids run : List Nat) (s : State) : Res :=
  let ag := c.cr.qagent
  let s := match old with
    | some r => ((c.putSlots oldPas 0 s).qadd ag pa 0x20 r.count)
    | none => s
  let s := (((c.putSlots voids 0 s).qadd ag pa 0x28 voids.length).qadd ag pa 0x20 voids.length).qadd ag pa 0x2C voids.length
  let first := (h.head + voids.length) % 2 ^ 32
  let n := run.length
  let s := run.foldl (fun s pa => c.meet (.slot pa) s) ((c.putSlots run 4 s).qadd ag pa 0x28 n)
  let s := c.setCrew s fun cr =>
    { cr with qres := (cr.qres.filter fun r => !decide (r.hdr = pa ∧ r.take = true)) ++
        (if n = 0 then [] else [{ hdr := pa, hva := c.a c.lowMask, first, count := n, take := true }]) }
  let s := c.acquired true (s.kick ag (c.a c.lowMask) pa)
  .done (c.setWarp s (c.putPd w (decide (n ≠ 0)) (c.put 2 (fun _ => first + 2 ^ 32 * n) (c.warpIn s)))) .next [] []

/-- `qtake` (13 R204). -/
def qtakeBody (w : WS) (c : Ctx) (s : State) : Res :=
  if c.mask.isEmpty then .done s .next [] []
  else
    c.header s fun pa h s =>
      let n := c.b c.lowMask
      let cr := c.crewIn s
      let old := cr.qres.find? fun r => decide (r.hdr = pa ∧ r.take = true)
      if h.entry ≠ 0 ∨ n = 0 ∨ 1024 < n ∨ (old.isNone ∧ 16 ≤ cr.qres.length) then .fault s (c.lowFault 0x12)
      else
        let go (oldPas : List Nat) (s : State) : Res :=
          match c.scan h 3 h.cap h.head [] [] s with
          | (some p, _, _, s) => c.placedFail s p
          | (none, voids, k, s) =>
            match c.scan h 2 (Nat.min n h.cap) (h.head + voids.length) [] k s with
            | (some p, _, _, s) => c.placedFail s p
            | (none, run, _, s) => c.take w pa h old oldPas voids run s
        match old with
        | some r => c.slots h r.first r.count s go
        | none => go [] s

/-- `qtake` (13 R204). -/
def execQtake (x : Head) (w : WS) (s : State) : Host.Outcome State Fault Refusal := issue (.qtake x w) s noBad (qtakeBody w)

/-! ### `spawn` (13 R206, 03 R47) -/

/-- Crew `k` of a request of `spawn` (13 R206, 03 R34, R35). -/
def Ctx.spawned (c : Ctx) (x : Job) (uid k : Nat) : Crew :=
  let s0 := Store.set (Store.set (paramRegs c.cr.shape.param) 0 2 (BitVec.ofNat 32 k)) 0 3 (BitVec.ofNat 32 (c.c c.lowMask))
  x.crew uid c.cr.part c.cr.job .spawned { x.desc.shape with entry := BitVec.ofNat 64 (c.a c.lowMask) } c.cr.cx c.cr.cy c.cr.cz
    (BitVec.ofNat 64 (c.cr.report.toNat % 2 ^ 60 + 2 ^ 62)) s0

/-- The crews of a request started one after another; nothing where one finds no room (03 R47). R47 and R206 name slots, warp units and stash;
that a crew without its dispatch bytes in the save pool finds no room either, as R271 lets no crew be dispatched, is the model's choice
(DEDUCED, notes/assumptions/41.md). -/
def Ctx.spawnAll (c : Ctx) (x : Job) : Nat → Nat → State → Option State
  | 0, _, s => some s
  | f + 1, k, s =>
    let cr := c.spawned x s.crewCtr k
    match (s.core c.core).room cr.shape with
    | none => none
    | some (slot, qs) =>
      if s.poolHas cr.part cr.shape.dispatchBytes then
        let s := ({ c.send (.start cr.uid) s with crewCtr := s.crewCtr + 1 }.takeDispatch cr).startCrew c.core slot qs cr
        Ctx.spawnAll c x f (k + 1) (s.updJob cr.part cr.job fun x => { x with crews := x.crews + 1 })
      else none

/-- `spawn`: all the crews, or none and the predicate set (13 R206). -/
def spawnBody (w : WS) (c : Ctx) (s : State) : Res :=
  if c.mask.isEmpty then .done s .next [] []
  else
    let n := c.b c.lowMask
    match targetFault c.lowMask (c.a c.lowMask) with
    | some f => .fault s [f]
    | none =>
      if n = 0 ∨ 28 < n then .fault s (c.lowFault 0x12)
      else
        let t := match s.job? c.cr.part c.cr.jobKey with
          | some x => c.spawnAll x n 0 s
          | none => none
        let s' := t.getD s
        .done (c.setWarp s' (c.putPd w t.isNone (c.warpIn s'))) .next [] []

/-- `spawn` (13 R206). -/
def execSpawn (x : Head) (w : WS) (s : State) : Host.Outcome State Fault Refusal := issue (.spawn x w) s noBad (spawnBody w)

end Sys2Proof.Machine
end

