-- ==== Sys2Proof/Machine/Sections.lean ====
section
/-! DEFINITION. The section instructions and the stall budget (21 R288-R306). -/

namespace Sys2Proof.Machine

/-- The lowest-numbered free entry of a slice's rack that a partition may use (21 R290). -/
def State.rackFree (s : State) (sl part : Nat) : Option Nat := Store.free (s.slice sl).rack 0 (if part = 0 then 512 else 480)

/-- A new entry of a key (21 R292, R298): its number, or nothing where the rack is full. -/
def State.openKey (s : State) (part job key first stop : Nat) (raster : Bool) : Option Nat × State :=
  let sl := keyHome key
  match s.rackFree sl part with
  | none => (none, s)
  | some e =>
    let t := s.slice sl
    let x : RackEnt :=
      { key, next := first, stop, ticket := first, first, raster, part, job, stallB := (s.part part).stallB, life := t.opened }
    (some e, (((s.setSlice sl { t with opened := t.opened + 1 }).setRack sl e x).countSlice sl 0x2E 1).advance sl e)

/-! ### `sopen` (21 R298) -/

/-- The status of `sopen`, and the state after it. -/
def State.sopen (s : State) (part job key first n : Nat) : Nat × State :=
  if n = 0 ∨ 0x80000000 < n then (3, s)
  else if (s.rackFind part job key).isSome then (2, s)
  else
    match s.openKey part job key first ((first + n) % 2 ^ 32) false with
    | (some _, s) => (0, s)
    | (none, s) => (1, s.countSlice (keyHome key) 0x34 1)

/-- `sopen` (21 R298). -/
def sopenBody (w : WS) (c : Ctx) (s : State) : Res :=
  if c.mask.isEmpty then .done s .next [] []
  else
    let r := s.sopen c.cr.part c.cr.jobKey (c.a c.lowMask) (c.b c.lowMask) (c.c c.lowMask)
    .done (c.setWarp r.2 (c.putPd w (decide (r.1 ≠ 0)) (c.put 1 (fun _ => r.1) (c.warpIn r.2)))) .next [] []

/-- `sopen` (21 R298). -/
def execSopen (x : Head) (w : WS) (s : State) : Host.Outcome State Fault Refusal := issue (.sopen x w) s noBad (sopenBody w)

/-! ### `senter` (21 R299) -/

/-- The crew holds the ticket of a sequence of a key (21 R295). -/
def Crew.hasTicket (cr : Crew) (key q : Nat) : Bool := cr.tickets.any fun t => decide (t.key = key) && decide (t.seq = q)

/-- A crew without the ticket of a sequence. -/
def Crew.dropTicket (cr : Crew) (key q : Nat) : Crew :=
  { cr with tickets := cr.tickets.filter fun t => !(decide (t.key = key) && decide (t.seq = q)) }

/-- A sequence that `senter` and `sskip` refuse (21 R299, R301). -/
def State.badSeq (s : State) (sl e : Nat) (x : RackEnt) (cr : Crew) (q : Nat) : Bool :=
  decide (x.remaining ≤ x.off q) || (x.held && decide (q = x.next)) || s.awaited sl e q ||
    (decide (x.off q < 64) && x.skip.getLsbD (x.off q)) || (x.ticketed q && !cr.hasTicket x.key q)

/-- The entry of a key as an operation that arrives at its home finds it, or the fault (21 R299, R301, R302). -/
def Ctx.atHome (c : Ctx) (s : State) (key : Nat) (k : Nat → Nat → RackEnt → Res) : Res :=
  match s.rackFind c.cr.part c.cr.jobKey key with
  | none => .fault s (c.lowFault 0x10)
  | some (e, x) => if x.broken then .fault s (c.lowFault 0x0F) else k (keyHome key) e x

/-- A grant, as the device-scope acquire that it is (21 R299, R303, 11 R177). -/
def Ctx.granted (c : Ctx) (s : State) : State :=
  let key := c.a c.lowMask
  let s := match s.rackFind c.cr.part c.cr.jobKey key with
    | some (_, x) => s.meetGrant c.threads (keyHome key) x (c.b c.lowMask)
    | none => s
  c.acquired true s

/-- The issuing warp registered as waiter of a sequence, whose ticket its crew gives up, and `Advance`: granted at once, or parked (21 R293,
R295, R299). -/
def Ctx.enter (c : Ctx) (s : State) (sl e : Nat) (x : RackEnt) (q : Nat) : Res :=
  let wait : Wait := .grant sl e q c.lowMask ((c.crewIn s).hasTicket x.key q)
  let s := c.setCrew s fun cr => cr.dropTicket x.key q
  let s := s.setRack sl e { x with waiters := x.waiters + 1 }
  let s := c.setWarp s ((c.warpIn s).replaceSplit c.low [{ c.sp with st := .parked wait }])
  let s := s.advance sl e
  if (c.warpIn s).secs.any fun h => decide (h.key = x.key) then
    .done (c.granted (c.setWarp s ((c.warpIn s).replaceSplit c.low [c.sp]))) .next [] []
  else .park s wait c.sp.ans

/-- `senter`: a device-scope acquire at its grant (21 R299). -/
def senterBody (c : Ctx) (s : State) : Res :=
  if c.mask.isEmpty then .done s .next [] []
  else if !c.sp.ans.isEmpty then .done (c.granted s) .next [] []
  else
    let key := c.a c.lowMask
    let q := c.b c.lowMask
    if 4 ≤ c.w.secs.length ∨ c.w.secs.any (fun h => decide (key ≤ h.key)) then .fault s (c.lowFault 0x0C)
    else
      c.atHome s key fun sl e x =>
        if s.badSeq sl e x (c.crewIn s) q then .fault s (c.lowFault 0x10) else c.enter s sl e x q

/-- `senter` (21 R299). -/
def execSenter (x : Head) (w : WS) (s : State) : Host.Outcome State Fault Refusal := issue (.senter x w) s noBad senterBody

/-! ### `sleave` and `sskip` (21 R300, R301) -/

/-- The rack entry, its slice and number, that a `sleave` that has issued is to leave, by its split's answers. -/
def leavingOf (ans : Store Nat) : Option (Nat × Nat) :=
  match Store.look ans 0, Store.look ans 1 with
  | some sl, some e => some (sl, e)
  | _, _ => none

/-- The rack entry that a split in the middle of a `sleave` is to leave. -/
def Split.leaving (sp : Split) : Option (Nat × Nat) :=
  match sp.again with
  | some g => match g.instr with
    | .sleave _ _ => leavingOf sp.ans
    | _ => none
  | none => none

/-- A warp with the section of an entry again: its `sleave` has faulted, and has left nothing (21 R300, 00 R11). -/
def State.rehold (s : State) (w : Warp) (t : Option (Nat × Nat)) : Warp :=
  match t with
  | none => w
  | some t => match s.rackEnt t.1 t.2 with
    | some x => { w with secs := w.secs ++ [{ key := x.key, seq := x.next, slice := t.1, entry := t.2 }] }
    | none => w

/-- The release of a `sleave`, then the leave at the home (21 R300 steps 2 and 3); a wait keeps the entry. -/
def Ctx.leave (c : Ctx) (s : State) (sl e : Nat) : Res :=
  ({ c with sp := { c.sp with ans := [(0, sl), (1, e)] } } : Ctx).released true s fun s => .done ((s.sendLeave c.threads sl e).leaveAt sl e) .next [] []

/-- `sleave`: the section is the warp's no more from the issue on; then a device-scope release, and the leave at the home (21 R300). -/
def sleaveBody (c : Ctx) (s : State) : Res :=
  if c.mask.isEmpty then .done s .next [] []
  else
    match leavingOf c.sp.ans with
    | some (sl, e) =>
      match c.leave s sl e with
      | .fault t fs => .fault (c.setWarp t (t.rehold (c.warpIn t) (some (sl, e)))) fs
      | r => r
    | none =>
      match c.w.secs.find? fun h => decide (h.key = c.a c.lowMask) with
      | none => .fault s (c.lowFault 0x10)
      | some h =>
        let w := c.warpIn s
        match c.leave (c.setWarp s { w with secs := w.secs.filter fun x => decide (x.key ≠ h.key) }) h.slice h.entry with
        | .fault _ fs => .fault s fs
        | r => r

/-- `sleave` (21 R300). -/
def execSleave (x : Head) (w : WS) (s : State) : Host.Outcome State Fault Refusal := issue (.sleave x w) s noBad sleaveBody

/-- `sskip`: a device-scope release, then the skip at the home (21 R301). -/
def sskipBody (c : Ctx) (s : State) : Res :=
  if c.mask.isEmpty then .done s .next [] []
  else
    c.released true s fun s =>
      c.atHome s (c.a c.lowMask) fun sl e x =>
        let q := c.b c.lowMask
        if s.badSeq sl e x (c.crewIn s) q ∨ 64 ≤ x.off q then .fault s (c.lowFault 0x10)
        else
          let s := c.setCrew s fun cr => cr.dropTicket x.key q
          .done ((s.sendSkip c.threads sl e q).skipAt sl e q false) .next [] []

/-- `sskip` (21 R301). -/
def execSskip (x : Head) (w : WS) (s : State) : Host.Outcome State Fault Refusal := issue (.sskip x w) s noBad sskipBody

/-! ### `stake` (21 R302) -/

/-- The status of `stake` at a key's home. -/
def stakeStatus (x : RackEnt) (held : Nat) : Nat :=
  if x.ticket = x.stop then 3 else if 64 ≤ x.off x.ticket then 1 else if 16 ≤ held then 2 else 0

/-- `stake` (21 R302). -/
def stakeBody (c : Ctx) (s : State) : Res :=
  if c.mask.isEmpty then .done s .next [] []
  else
    c.atHome s (c.a c.lowMask) fun sl e x =>
      let st := stakeStatus x (c.crewIn s).tickets.length
      let put (v : Nat) (s : State) : Res := .done (c.setWarp s (c.put 2 (fun _ => v) (c.warpIn s))) .next [] []
      if st ≠ 0 then put (2 ^ 32 * st) s
      else
        let s := c.setCrew s fun cr => { cr with tickets := cr.tickets ++ [{ key := x.key, seq := x.ticket, slice := sl }] }
        put x.ticket ((s.setRack sl e { x with ticket := (x.ticket + 1) % 2 ^ 32 }).advance sl e)

/-- `stake` (21 R302). -/
def execStake (x : Head) (w : WS) (s : State) : Host.Outcome State Fault Refusal := issue (.stake x w) s noBad stakeBody

/-! ### The stall budget (21 R305) -/

/-- The stall budget of an entry in clocks. -/
def RackEnt.budget (x : RackEnt) : Nat := 2 ^ (16 + x.stallB)

/-- An entry whose clocks count towards the budget. -/
def RackEnt.stalls (x : RackEnt) : Bool := decide (x.waiters ≠ 0) && !x.held && decide (x.remaining ≠ 0)

/-- One clock of a home slice: its channel serves a request, the entries that stall count the clock, and the expiries that this brings come
next (01 R17, 19 R278, 21 R305). -/
def State.stallCount (s : State) (sl : Nat) : State :=
  let s := s.channelTurn sl
  let t := s.slice sl
  let s := s.setSlice sl { t with clk := t.clk + 1, rack := Store.mapV t.rack fun _ x => if x.stalls then { x with stallcnt := x.stallcnt + 1 } else x }
  let due := (s.slice sl).rack.filterMap fun e =>
    if e.2.stalls ∧ e.2.budget ≤ e.2.stallcnt then some (Instr.stallBudgetExpiry sl e.1) else none
  { s with agenda := due ++ s.agenda }

/-- STALL_COUNT (21 R305). -/
def execStallCount (slice : Nat) (s : State) : Host.Outcome State Fault Refusal := .next (s.stallCount slice)

/-- The budget of an entry has run out: its waiters take fault 0x0E (21 R305). -/
def State.stallExpire (s : State) (sl e : Nat) : State :=
  match s.rackEnt sl e with
  | none => s
  | some x =>
    if x.stalls ∧ x.budget ≤ x.stallcnt then
      let s := s.setRack sl e { x with waiters := 0, stallcnt := 0, stalled := true }
      ((s.faultWaiters sl e 0x0E).countSlice sl 0x32 x.waiters).reclass
    else s

/-- STALL_BUDGET_EXPIRY (21 R305). -/
def execStallBudgetExpiry (slice entry : Nat) (s : State) : Host.Outcome State Fault Refusal := .next (s.stallExpire slice entry)

end Sys2Proof.Machine
end

