-- ==== Sys2Proof/Machine/Sched.lean ====
section
/-! DEFINITION. Dispatch, pre-emption, saves, restores and the retirement of crews (03 R45, R50, 19 R262-R272). -/

namespace Sys2Proof.Machine

/-! ### The end of a crew (03 R45, 13 R205, 21 R296) -/

/-- The entry at which a ticket can be skipped, or nothing for a ticket of a key that is closed or broken (21 R296, R306). -/
def State.ticketAt (s : State) (cr : Crew) (t : Ticket) : Option (Nat × RackEnt) :=
  match s.rackFind cr.part cr.job t.key with
  | some (e, x) => if x.broken ∨ x.remaining ≤ x.off t.seq then none else some (e, x)
  | none => none

/-- A mark can stand for every ticket of a crew (21 R294). -/
def State.ticketsReady (s : State) (cr : Crew) : Bool :=
  cr.tickets.all fun t => match s.ticketAt cr t with
    | some (_, x) => decide (x.off t.seq < 64)
    | none => true

/-- The tickets of a crew skipped, a release of its lanes (21 R296, R303). -/
def State.skipTickets (s : State) (cr : Crew) : State :=
  cr.tickets.foldl (fun s t =>
    match s.ticketAt cr t with
    | some (e, x) => if x.off t.seq < 64 then
      ((s.sendSkip (cr.warps.flatMap fun w => cr.lanesOf w.1) t.slice e t.seq).skipAt t.slice e t.seq true).countSlice t.slice 0x31 1 else s
    | none => s) s

/-- The reservations of a crew committed as void records, the slots it took and those of its batch freed (13 R205). -/
def State.queueEnd (s : State) (cr : Crew) : State :=
  (cr.qres ++ cr.batch.toList).foldl
    (fun s q => s.queueStep cr.qagent (if q.take then .free else .void) q.hva q.hdr q.first q.count) s

/-- One crew of a job fewer, with the status that it sends (19 R281). -/
def Job.less (x : Job) (cr : Crew) : Job :=
  match cr.status with
  | none => { x with crews := x.crews - 1 }
  | some st =>
    let f : JobFault := { code := st.fault.toNat % 32, info1 := cr.report, info2 := st.fault }
    { x with crews := x.crews - 1, bad := x.bad + 1, fault := x.fault <|> some f }

/-- A pixel crew fewer of the batch of its raster unit (21 R313). -/
def State.pixelLess (s : State) (cr : Crew) : State :=
  match cr.raster with
  | none => s
  | some n =>
    let u := s.unit n
    match u.batches with
    | [] => s
    | b :: r => s.setUnit n { u with batches := { b with live := b.live - 1 } :: r }

/-- A launch of a raster unit fewer that is not dispatched (21 R312). -/
def State.launchLess (s : State) (cr : Crew) : State :=
  match cr.raster with
  | none => s
  | some n => s.setUnit n { s.unit n with launches := (s.unit n).launches - 1 }

/-- What a crew that is no longer anywhere leaves to do: its tickets, its queue slots, its job's count. -/
def State.crewLeaves (s : State) (cr : Crew) : State :=
  let s := (s.skipTickets cr).queueEnd cr
  let s := ((s.updJob cr.part cr.jobKey fun x => x.less cr).pixelLess cr).wakeQueues.reclass
  { s with ledger := s.ledger.forget cr.uid }

/-- The record of a fill task's fault (19 R259, R281). -/
def fillRecord (f : FillInfo) (core : Nat) (st : CrewStatus) : Record :=
  { cseq := 0, kind := 5, code := st.fault.toNat % 32, flags := 0, tag := BitVec.ofNat 64 f.block
    info1 := BitVec.ofNat 64 f.gen, info2 := st.fault, info3 := BitVec.ofNat 32 core }

/-- A record produced for a partition (19 R260). -/
def State.addRecord (s : State) (p : Nat) (r : Record) : State :=
  s.setPart p ((s.part p).addRecord r)

/-- A fill task's end: its record is poisoned where it issued neither `fdone` nor `fpois`, its fault reported (15 R219, R220, 19
R281). -/
def State.fillEnds (s : State) (core : Nat) (cr : Crew) : State :=
  match cr.fill with
  | none => s
  | some f =>
    let s := s.endFill cr.uid f none
    match cr.status with
    | some st => s.addRecord cr.part (fillRecord f core st)
    | none => s

/-- A core without the crew of a slot; its warps leave the windows of the quarters. -/
def Core.freeSlot (c : Core) (slot : Nat) : Core :=
  { c with
    crews := Store.del c.crews slot
    quarters := Store.mapV c.quarters fun _ q =>
      { q with window := q.window.filter (fun e => decide (e.1 ≠ slot)), queue := q.queue.filter fun e => decide (e.1 ≠ slot) } }

/-- The windows of a crew written back before its stash goes: what it still waits for, or nothing (11 R165). -/
def State.lastWriteBack (s : State) (core : Nat) (cr : Crew) : Bool × State :=
  let b := s.writeBack (cr.agent core) true
  match b.1 with
  | some (_, .page ref) => (false, b.2.report core [ref])
  | some _ => (false, b.2)
  | none => (true, b.2)

/-- The retirement of a crew whose warps have retired and whose operations have completed (03 R45). -/
def State.crewRetire (s : State) (core slot : Nat) : State :=
  match s.crew core slot with
  | none => s
  | some cr =>
    if !(cr.warps.all fun w => w.2.retired) || decide (cr.engines ≠ 0) || !s.ticketsReady cr then s
    else
      let b := s.lastWriteBack core cr
      if b.1 then
        let s := b.2.unpinCrew cr.uid
        let s := (s.setCore core ((s.core core).freeSlot slot)).fillEnds core cr
        (s.giveCrew cr.part cr.uid).crewLeaves cr
      else b.2

/-- CREW_RETIRE (03 R45). -/
def execCrewRetire (core slot : Nat) (s : State) : Host.Outcome State Fault Refusal :=
  .next (s.whenReady (s.crewRetire core slot))

/-! ### Crews of terminated jobs (19 R282) -/

/-- The crew's job has been terminated. -/
def State.doomed (s : State) (cr : Crew) : Bool :=
  match s.job? cr.part cr.jobKey with
  | some x => x.term.isSome
  | none => false

/-- An undispatched or saved crew of a terminated job that can be discarded: no operation of it is outstanding, and a mark can stand for
each of its tickets (19 R282, 21 R294, R296). -/
def State.gone (s : State) (cr : Crew) : Bool := s.doomed cr && decide (cr.engines = 0) && s.ticketsReady cr

/-- One undispatched crew of a terminated job discarded from a core, where it can be. -/
def State.discardCreated (s : State) (core : Nat) (cr : Crew) : State :=
  if s.gone cr then
    let c := s.core core
    ((s.setCore core { c with created := c.created.filter fun y => decide (y.uid ≠ cr.uid) }).launchLess cr).crewLeaves cr
  else s

/-- One saved crew of a terminated job discarded from a core, where it can be. -/
def State.discardSaved (s : State) (core : Nat) (cr : Crew) : State :=
  if s.gone cr then
    let c := s.core core
    ((s.setCore core { c with saved := c.saved.filter fun y => decide (y.uid ≠ cr.uid) }).giveCrew cr.part cr.uid).crewLeaves cr
  else s

/-- The undispatched and saved crews of terminated jobs discarded on a core, in order. -/
def State.discardDoomed (s : State) (core : Nat) : State :=
  let s' := (s.core core).created.foldl (fun t cr => t.discardCreated core cr) s
  (s.core core).saved.foldl (fun t cr => t.discardSaved core cr) s'

/-! ### Candidates (19 R264) -/

/-- A candidate for dispatch or restore. -/
inductive Cand where
  | saved (cr : Crew)
  | created (cr : Crew)
  | bind (b : Bind)
deriving DecidableEq, Repr

/-- Class, kind, and place within the kind (19 R264); crews are numbered in order of creation. -/
def Cand.rank : Cand → Nat × Nat × Nat
  | .saved cr => (cr.cls, 0, cr.savedAt)
  | .created cr => (cr.cls, 1, cr.uid)
  | .bind b => (b.cls, 2, b.lseq)

/-- `a` is ranked before `b` (19 R264). -/
def Cand.before (a b : Cand) : Bool :=
  let x := a.rank
  let y := b.rank
  decide (x.1 < y.1) || (decide (x.1 = y.1) && (decide (x.2.1 < y.2.1) || (decide (x.2.1 = y.2.1) && decide (x.2.2 < y.2.2))))

/-- A wait that holds while its crew is saved (19 R269). -/
def Wait.keeps : Wait → Bool
  | .bell _ _ | .watch _ | .queue _ | .page _ | .fill _ | .grant _ _ _ _ _ | .flip _ _ | .engine _ => true
  | _ => false

/-- A split has something to do once its crew is restored. -/
def Split.alive (sp : Split) : Bool :=
  match sp.st with
  | .parked w => !w.keeps
  | .held => false
  | _ => true

/-- The waits of a saved crew are met: R264 does not say when some of several waits are met; the model takes one split that can go on
(DESIGN CHOICE, notes/assumptions/41.md). -/
def Crew.waitMet (cr : Crew) : Bool := cr.warps.any fun w => !w.2.retired && w.2.splits.any Split.alive

/-- The candidates of a core. -/
def Core.candidates (c : Core) : List Cand :=
  ((c.saved.filter Crew.waitMet).map fun cr => .saved cr) ++ (c.created.map fun cr => .created cr) ++ c.binds.map fun b => .bind b

/-- The first candidate of a core. -/
def Core.firstCand (c : Core) : Option Cand := firstBy Cand.before c.candidates

/-- What a crew needs of a core: stash, warps, units of each, accumulator and bin bytes, and bytes of the save pool. -/
structure Need where
  stash : Nat
  warps : Nat
  units : Nat
  acc   : Nat
  bin   : Nat
  pool  : Nat
deriving DecidableEq, Repr

/-- What a crew of a shape needs at its dispatch. -/
def Shape.need (h : Shape) : Need :=
  { stash := h.stash, warps := h.warps, units := warpUnits h.width, acc := 0, bin := 0, pool := h.dispatchBytes }

/-- What a saved crew needs at its restore: its warps that have not retired, its claims (17 R233). -/
def Crew.need (cr : Crew) : Need :=
  { stash := cr.shape.stash, warps := (cr.warps.filter fun w => !w.2.retired).length, units := warpUnits cr.shape.width
    acc := cr.mat.accBytes, bin := cr.mat.bin, pool := 0 }

/-- What a candidate of a partition needs; nothing for a record whose job is no more. -/
def State.candNeed (s : State) (p : Nat) : Cand → Option Need
  | .saved cr => some cr.need
  | .created cr => some cr.shape.need
  | .bind b => (s.job? p b.job).map fun x => x.desc.shape.need

/-- Slot and quarters on a core for a need, if it fits (03 R29-R31, 17 R233). -/
def Core.fits (c : Core) (n : Need) : Option (Nat × List Nat) :=
  if 131072 < c.matUsed.1 + n.acc ∨ 262144 < c.matUsed.2 + n.bin then none else c.roomFor n.stash n.warps n.units

/-! ### Dispatch and restore (03 R33-R35, 19 R262, R264, R272) -/

/-- Crew `k` of a job, by its linear index (03 R33-R35). -/
def Job.bound (x : Job) (uid p j k : Nat) : Crew :=
  x.crew uid p j .ordinary x.desc.shape (BitVec.ofNat 32 (k % x.desc.dimx)) (BitVec.ofNat 32 (k / x.desc.dimx % x.desc.dimy))
    (BitVec.ofNat 32 (k / x.desc.dimx / x.desc.dimy)) (BitVec.ofNat 64 k) (paramRegs x.desc.shape.param)

/-- A core without the undispatched crews of terminated jobs, which are candidates no more (19 R282). -/
def State.live (s : State) (core : Nat) : Core :=
  let c := s.core core
  { c with created := c.created.filter fun cr => !s.doomed cr }

/-- A bind record after a dispatch: none once `NEXT` passes `LAST` (19 R262). -/
def Bind.step (b : Bind) : Option Bind := if b.next + b.stride ≤ b.last then some { b with next := b.next + b.stride } else none

/-- A crew of a job started on a core by its linear index. -/
def State.startBound (s : State) (core slot : Nat) (qs : List Nat) (p j k : Nat) (x : Job) : State :=
  let cr := x.bound s.crewCtr p j k
  ({ s with crewCtr := s.crewCtr + 1 }.takeDispatch cr).startCrew core slot qs cr

/-- The quarters of the warps that have not retired, in increasing order (03 R30). -/
def Crew.placing (cr : Crew) (qs : List Nat) : List (Nat × Nat) :=
  ((cr.warps.filter fun w => !w.2.retired).map fun w => w.1).zip qs

/-- A crew bound afresh at its restore: its registers, its current splits and their runs are as at the save, which a restore reverses (19
R269, R272). -/
def Crew.rebind (cr : Crew) (qs : List Nat) (clk : Nat) : Crew :=
  let at? (i : Nat) : Option Nat := ((cr.placing qs).find? fun e => decide (e.1 = i)).map fun e => e.2
  { cr with
    since := clk, parked := none, saving := false
    b := Store.mapV cr.b fun _ r => { r with q := 4 }
    warps := Store.mapV cr.warps fun i w =>
      match at? i with
      | some q => { w with quarter := q, age := clk, hold := [], losses := 0, starved := false }
      | none => w }

/-- A saved crew restored: its save area is read and given back (19 R272). -/
def State.restoreCrew (s : State) (core slot : Nat) (qs : List Nat) (cr : Crew) : State :=
  let s := ((s.saveLines cr false).giveArea cr.part cr.uid 1001).countCore core 0x06 1
  let c := s.core core
  s.setCore core (Core.l1Trim { c with
    saved := c.saved.filter (fun x => decide (x.uid ≠ cr.uid)), crews := Store.put c.crews slot (cr.rebind qs c.clk) })

/-- A candidate dispatched or restored in a slot, where it owns what it owned (21 R303). -/
def State.place (s : State) (core slot : Nat) (qs : List Nat) (p : Nat) (x : Cand) : State :=
  match x with
  | .saved cr => (s.restoreCrew core slot qs cr).reown
  | .created cr =>
    let c := s.core core
    let s := s.setCore core { c with created := c.created.filter fun y => decide (y.uid ≠ cr.uid) }
    (((s.launchLess cr).takeDispatch cr).startCrew core slot qs cr).reown
  | .bind b =>
    match s.job? p b.job with
    | none => s
    | some j =>
      let c := s.core core
      let s := s.setCore core { c with binds := c.binds.filterMap fun y => if y = b then b.step else some y }
      (s.startBound core slot qs p b.job b.next j).settleBinds p

/-! ### Pre-emption and eviction (03 R50, 19 R267) -/

/-- A warp is in its handler. -/
def Crew.inHandler (cr : Crew) : Bool := cr.warps.any fun w => w.2.save.isSome

/-- A save decided: the crew's warps stop, the instructions of its handlers are counted from now on, and a deferral is counted (19
R269, R270); `n` is the counter of its cause. Its save area is taken from now on where the pool has it, so that no other crew is stopped for
the same bytes (R267, R271; notes/assumptions/16.md). -/
def State.decideSave (s : State) (core slot : Nat) (n : Option Nat) : State :=
  match s.crew core slot with
  | none => s
  | some cr =>
    let cr' := { cr.mapWarps (fun w => { w with save := w.save.map fun v => { v with issued := 0 } }) with
      saving := true, deferred := cr.inHandler }
    let s := s.setCrew core slot cr'
    let s := (s.takeSave cr).getD s
    let s := match n with
      | some k => s.countCore core k 1
      | none => s
    if cr.inHandler then s.countCore core 0x07 1 else s

/-- A crew that may be saved for another of a class (19 R267, R268, R271). -/
def State.mayGo (s : State) (slot : Nat) (cr : Crew) : Bool :=
  decide (slot < 28) && !cr.shape.cor && !cr.saving && s.poolHas cr.part cr.saveBytes

/-- The crew holds an ordered section. -/
def Crew.holds (cr : Crew) : Bool := cr.warps.any fun w => !w.2.secs.isEmpty

/-- `a` is a victim of pre-emption before `b` (19 R267). -/
def victimBefore (a b : Nat × Crew) : Bool :=
  if a.2.cls ≠ b.2.cls then decide (b.2.cls < a.2.cls)
  else if a.2.holds ≠ b.2.holds then !a.2.holds
  else if a.2.since ≠ b.2.since then decide (b.2.since < a.2.since)
  else decide (b.1 < a.1)

/-- One victim of a core saved for a candidate of a class (19 R267). -/
def State.preempt (s : State) (core cls : Nat) : State :=
  let l := (s.core core).crews.filter fun e => s.mayGo e.1 e.2 && decide (cls < e.2.cls)
  match firstBy victimBefore l with
  | some v => s.decideSave core v.1 (some 0x04)
  | none => s

/-- A core as it will be when the crews being saved have left it. -/
def Core.withoutSaving (c : Core) : Core := { c with crews := c.crews.filter fun e => !e.2.saving }

/-- A `COR` launch of the partition waits for the room that it was given (03 R48), and for no handle or record (19 R261, R263). -/
def State.corPending (s : State) (p : Nat) : Bool :=
  match (s.part p).pending with
  | some l => l.desc.shape.cor && (Store.free (s.part p).jobs 0 256).isSome &&
    s.cores.all fun c => decide (c.2.part ≠ some p ∨ c.2.binds.length < 16)
  | none => false

/-- The class of a candidate. -/
def Cand.cls (x : Cand) : Nat := x.rank.1

/-- One move of a core towards its first candidate: dispatched, restored, or one victim for it (19 R264, R267). -/
def State.crewDispatch (s : State) (core : Nat) : State :=
  let s := s.discardDoomed core
  let c := s.live core
  match c.part, c.firstCand with
  | some p, some x =>
    if c.moving.isSome || s.corPending p then s
    else
      match s.candNeed p x with
      | none => (s.setCore core { s.core core with binds := c.binds.filter fun b => decide (x ≠ .bind b) }).settleBinds p
      | some n =>
        match c.fits n with
        | some (slot, qs) => if s.poolHas p n.pool then s.place core slot qs p x else s
        | none => if (c.withoutSaving.fits n).isSome then s else s.preempt core x.cls
  | _, _ => s

/-- CREW_DISPATCH (19 R264). -/
def execCrewDispatch (core : Nat) (s : State) : Host.Outcome State Fault Refusal := .next (s.whenReady (s.crewDispatch core))

/-- An undispatched crew of a class or a higher one waits for a slot of a core (03 R50). -/
def Core.waitsFor (c : Core) (cls : Nat) : Bool :=
  (c.created.any fun cr => decide (cr.cls ≤ cls)) || c.binds.any fun b => decide (b.cls ≤ cls)

/-- `a` is a victim of an eviction before `b` (03 R50). -/
def evictBefore (a b : Nat × Crew) : Bool :=
  if a.2.cls ≠ b.2.cls then decide (b.2.cls < a.2.cls)
  else if a.2.parked ≠ b.2.parked then decide (a.2.parked.getD 0 < b.2.parked.getD 0)
  else decide (b.1 < a.1)

/-- A crew has been parked for 4,096 clocks of its core (03 R50). -/
def Core.longParked (c : Core) (cr : Crew) : Bool :=
  match cr.parked with
  | some t => cr.isParked && decide (t + 4096 ≤ c.clk)
  | none => false

/-- One parked crew of a core evicted for an undispatched one (03 R50). -/
def State.evict (s : State) (core : Nat) : State :=
  let c := s.live core
  match c.part, c.firstCand with
  | some p, some x =>
    match s.candNeed p x with
    | none => s
    | some n =>
      if (c.withoutSaving.fits n).isSome then s
      else
        let l := c.crews.filter fun e => s.mayGo e.1 e.2 && c.longParked e.2 && c.waitsFor e.2.cls
        match firstBy evictBefore l with
        | some v => s.decideSave core v.1 (some 0x05)
        | none => s
  | _, _ => s

/-- PARKED_EVICTION (03 R50). -/
def execParkedEviction (core : Nat) (s : State) : Host.Outcome State Fault Refusal := .next (s.whenReady (s.evict core))

/-! ### Saves (19 R269, R270) -/

/-- An operation of a crew is in a queue of the core. -/
def Core.hasOps (c : Core) (uid : Nat) : Bool :=
  (c.copyQ.any fun q => q.2.any fun op => decide (op.uid = uid)) || (c.hodQ.any fun op => decide (op.uid = uid)) ||
    c.matQ.any fun op => decide (op.uid = uid)

/-- Accesses in flight, unresolved predictions or operations of a crew that a save must wait for (19 R269). -/
def Core.busyWith (c : Core) (cr : Crew) : Bool :=
  c.hasOps cr.uid || cr.warps.any fun w => decide (w.2.unres ≠ 0) || (w.2.pends.any fun p => !p.lanes.isEmpty) ||
    w.2.splits.any fun sp => decide (sp.st = .run) && sp.again.isSome

/-- A split as it is saved: one that waited for what has completed goes on after the restore (19 R269). -/
def Split.saved (sp : Split) : Split :=
  match sp.st with
  | .parked w => if w.keeps then sp else { sp with st := .run }
  | _ => sp

/-- A crew as it is saved from a slot of a core (19 R269, R272). -/
def Crew.saved (cr : Crew) (clk core slot : Nat) : Crew :=
  { cr.mapWarps (fun w => { w.mapSplits Split.saved with hold := [] }) with
    savedAt := clk, saving := false, deferred := false, parked := none, seat := some (core, slot) }

/-- The save of a crew whose handlers let it go: its windows are written back, its registers are written to their frames, its area is
taken from the pool and written, its slot and pins are freed (19 R269, R271). -/
def State.saveCrew (s : State) (core slot : Nat) : State :=
  match s.crew core slot with
  | none => s
  | some cr =>
    if !cr.saving || (s.core core).busyWith cr || cr.warps.all (fun w => w.2.retired) then s
    else
      let b := s.lastWriteBack core cr
      match b.2.crew core slot with
      | some cr =>
        match b.1, b.2.takeSave cr with
        | true, some s =>
          let s := ((s.rFlush core cr.uid).saveLines cr true).unpinCrew cr.uid
          let c := (s.core core).freeSlot slot
          s.setCore core { c with saved := c.saved ++ [cr.saved c.clk core slot] }
        | _, _ => b.2
      | none => b.2

/-- The handlers of a crew do not defer its save any more: each has issued 4,096 instructions since it was decided (19 R270). -/
def Crew.handlersDone (cr : Crew) : Bool := cr.warps.all fun w => match w.2.save with
  | some v => decide (4096 ≤ v.issued)
  | none => true

/-- CREW_SAVE: of a crew with no warp in its handler (19 R269). -/
def execCrewSave (core slot : Nat) (s : State) : Host.Outcome State Fault Refusal :=
  match s.crew core slot with
  | some cr => .next (s.whenReady (if cr.inHandler then s else s.saveCrew core slot))
  | none => .next s

/-- SAVE_DEFER_LIMIT: of a crew whose handlers have reached the limit (19 R270). -/
def execSaveDeferLimit (core slot : Nat) (s : State) : Host.Outcome State Fault Refusal :=
  match s.crew core slot with
  | some cr => .next (s.whenReady (if cr.inHandler && cr.handlersDone then s.saveCrew core slot else s))
  | none => .next s

end Sys2Proof.Machine
end

