-- ==== Sys2Proof/Machine/Jobs.lean ====
section
/-! DEFINITION. The end of a job, completion records and the termination of jobs (03 R46, 19 R259, R260, R281, R282, R331). -/

namespace Sys2Proof.Machine

/-! ### Crews that a partition holds (19 R268, R282) -/

/-- One undispatched crew of a terminated job that a partition holds discarded, where it can be. -/
def State.discardHeldCreated (s : State) (p : Nat) (cr : Crew) : State :=
  if s.gone cr then
    let t := s.part p
    ((s.setPart p { t with heldCreated := t.heldCreated.filter fun y => decide (y.uid ≠ cr.uid) }).launchLess cr).crewLeaves cr
  else s

/-- One saved crew of a terminated job that a partition holds discarded, where it can be. -/
def State.discardHeldCrew (s : State) (p : Nat) (cr : Crew) : State :=
  if s.gone cr then
    let t := s.part p
    ((s.setPart p { t with heldCrews := t.heldCrews.filter fun y => decide (y.uid ≠ cr.uid) }).giveCrew cr.part cr.uid).crewLeaves cr
  else s

/-- Crews of terminated jobs that the partition holds while it has no core discarded (19 R268, R282). -/
def State.discardHeld (s : State) (p : Nat) : State :=
  let s' := (s.part p).heldCreated.foldl (fun u cr => u.discardHeldCreated p cr) s
  (s.part p).heldCrews.foldl (fun u cr => u.discardHeldCrew p cr) s'

/-- A crew that the partition holds can be discarded. -/
def State.heldGone (s : State) (p : Nat) : Bool := ((s.part p).heldCreated ++ (s.part p).heldCrews).any s.gone

/-! ### JOB_END (03 R46) -/

/-- A crew, a continuation or a step on a queue of the job is still to finish (03 R46). -/
def State.jobBusy (s : State) (p j : Nat) (x : Job) : Bool :=
  decide (x.crews ≠ 0) || (s.conts.any fun c => decide (c.part = p ∧ c.job = j)) ||
    s.qsteps.any fun q => decide (q.part = p ∧ q.job = j ∧ q.act ≠ .deliver)

/-- The rack entries of a job freed (21 R292). -/
def State.freeJobKeys (s : State) (p j : Nat) : State :=
  { s with slices := Store.mapV s.slices fun _ t =>
      { t with rack := t.rack.filter fun e => !(decide (e.2.part = p) && decide (e.2.job = j)) } }

/-- The code by which a job ended: of its termination, or of its first fault; none for a job that ended well (03 R46, 19 R282); of its termination where it
has both (DEDUCED, notes/assumptions/44.md). -/
def Job.code (x : Job) : Option Nat := x.term <|> x.fault.map fun f => f.code

/-- The value of a job's completion future (03 R46). -/
def Job.value (x : Job) : Nat :=
  match x.code with
  | some c => 2 ^ 31 + 2 ^ 24 * (c % 128)
  | none => 0

/-- The record of a job that has ended; `flags` holds `DUPDONE` and `DONEERR` (19 R259, R281, R331). -/
def Job.record (x : Job) (flags : Nat) (done : Option (Nat × Nat)) : Record :=
  { cseq := x.cseq, kind := if x.term.isSome then 2 else 0, code := x.code.getD 0
    flags := flags + (if x.fault.isSome then 4 else 0), tag := x.desc.tag
    info1 := (x.fault.map fun f => f.info1).getD 0, info2 := (x.fault.map fun f => f.info2).getD 0
    info3 := BitVec.ofNat 32 (Nat.min x.bad 0xFFFFFFFF), done }

/-- The look at a job's `DONE` future when its record is built: flags and the place to resolve, nothing while its page flips (03
R46). -/
def State.doneLook (s : State) (p : Nat) (x : Job) : Option (Nat × Option (Nat × Nat)) × State :=
  if x.desc.done = 0 then (some (0, none), s)
  else
    let a := s.devAccess { part := p, job := 256, asn := x.asn, root := x.root } x.desc.done 8 .write
    match a.1 with
    | .ok pa leaf =>
      if leaf.getLsbD 3 then (some (8, none), a.2)
      else (some (if a.2.natAt pa 8 < 2 ^ 63 then 2 else 0, some (pa, x.value)), a.2)
    | .flip _ => (none, a.2)
    | _ => (some (8, none), a.2)

/-- The end of a job: its keys are freed, its record is produced, its handle is free (03 R46, 21 R292). -/
def State.jobEnd (s : State) (p j : Nat) : State :=
  match s.job? p j with
  | none => s
  | some x =>
    if s.jobBusy p j x then s
    else
      let d := s.doneLook p x
      match d.1 with
      | none => d.2
      | some (flags, done) =>
        let s := d.2.freeJobKeys p j
        let s := s.setPart p { s.part p with jobs := Store.del (s.part p).jobs j }
        s.addRecord p (x.record flags done)

/-- JOB_END (03 R46), once the crews that terminated jobs leave with the partition are discarded (19 R282). -/
def execJobEnd (part job : Nat) (s : State) : Host.Outcome State Fault Refusal :=
  .next (s.whenReady ((s.discardHeld part).jobEnd part job))

/-! ### COMPLETION_RECORD_WRITE (19 R260) -/

/-- Bytes written by Zhevvo at a device physical address, line by line (19 R277: the partition's accesses). -/
def State.zWrite (s : State) (p pa : Nat) (bs : List Byte) : State :=
  let n := (pa % 128 + bs.length + 127) / 128
  let s := (List.range n).foldl (fun s k => s.request (128 * (lineOf pa + k)) 0 p true none) s
  s.storeAt pa bs

/-- A number read by Zhevvo at a device physical address. -/
def State.zNat (s : State) (p pa n : Nat) : Nat × State := (s.natAt pa n, s.request pa 0 p false none)

/-- The 32 bytes of a record with its phase (19 R259). -/
def Record.bytes (r : Record) (phase : Nat) : List Byte :=
  bytesLE 4 r.cseq.toNat ++ bytesLE 1 r.kind ++ bytesLE 1 r.code ++ bytesLE 1 (phase + r.flags) ++ bytesLE 1 0 ++
    bytesLE 8 r.tag.toNat ++ bytesLE 8 r.info1.toNat ++ bytesLE 4 r.info2.toNat ++ bytesLE 4 r.info3.toNat

/-- The completion ring has room (19 R260). -/
def State.ringRoom (s : State) (q : CmdQueue) : Bool :=
  decide (seqSub (s.natAt (q.hdr + 0x1C) 4) (s.natAt (q.hdr + 0x20) 4) < q.rqsize)

/-- The release at a job's end, at which every write of the job is visible; a read of the future acquires it where it is an acquire itself (03 R46, 11
R177). -/
def State.jobRel (s : State) : Thr × List Rel :=
  (.zhevvo, [{ clk := { floor := s.ledger.count + 1 }, scope := 4, uid := none, warp := none, any := false }])

/-- The `DONE` future of a record that has entered the ring resolved, unless it is resolved already: a write of Zhevvo for the partition,
which carries no address space (03 R46, 19 R277, R283). -/
def State.doneResolve (s : State) (p : Nat) (r : Record) : State :=
  match r.done with
  | some (pa, v) =>
    if s.natAt pa 8 < 2 ^ 63 then s else ((s.request pa 0 p true none).resolveFut true (some s.jobRel) pa v).2
  | none => s

/-- The host sees a completion: it acquires what came before (11 R177; notes/assumptions/40.md). -/
def State.hostSees (s : State) : State := { s with ledger := s.ledger.acquire .host { floor := s.ledger.count } }

/-- The first record of a partition written into its ring when there is room, or dropped where the partition has no queue (19 R260). R46
resolves `DONE` after the record has entered the ring and does not say what becomes of it when the record is dropped: it is resolved then
(DESIGN CHOICE, notes/assumptions/41.md). -/
def State.writeRecord (s : State) (p : Nat) : State :=
  match (s.part p).records with
  | [] => s
  | r :: rest =>
    let s' := s.setPart p { s.part p with records := rest }
    match (s.part p).queue with
    | none => s'.doneResolve p r
    | some q =>
      if s.ringRoom q then
        let tail := s.natAt (q.hdr + 0x1C) 4
        let s' := s'.zWrite p (q.rqbase + 32 * (tail % q.rqsize)) (r.bytes (tail / q.rqsize % 2))
        ((s'.zWrite p (q.hdr + 0x1C) (bytesLE 4 (tail + 1))).doneResolve p r).hostSees
      else s

/-- COMPLETION_RECORD_WRITE (19 R260). -/
def execCompletionRecordWrite (part : Nat) (s : State) : Host.Outcome State Fault Refusal :=
  .next (s.whenReady (s.writeRecord part))

/-! ### Termination (19 R282) -/

/-- A warp of a saved crew ends by termination: its waits are dropped, its keys break (21 R306). -/
def State.killSaved (s : State) (cr : Crew) : State :=
  let s := cr.warps.foldl (fun s w => w.2.secs.foldl (fun s h => s.breakKey h.slice h.entry) (s.dropWaiters cr.uid w.2)) s
  let s := { s with qwaits := s.qwaits.filter fun q => decide (q.uid ≠ cr.uid) }
  let s := cr.warps.foldl (fun s w => s.giveArea cr.part cr.uid w.1) s
  s.updCrew cr.uid fun cr => cr.mapWarps fun w =>
    { w with splits := [], cur := none, meets := [], save := none, seals := [], pends := [], secs := [], retired := true }

/-- Crews bound to a core by a record and not dispatched. -/
def Bind.left (b : Bind) : Nat := (b.last - b.next) / b.stride + 1

/-- The bind records of a job invalidated (19 R282). -/
def State.dropBinds (s : State) (p j : Nat) : State :=
  let mine (b : Bind) : Bool := decide (b.job = j)
  let onCores := ((s.cores.filter fun c => decide (c.2.part = some p)).map fun c => c.2.binds.filter mine).flatten
  let n := ((onCores ++ (s.part p).heldBinds.filter mine).map Bind.left).sum
  let s := { s with cores := Store.mapV s.cores fun _ c =>
      if c.part = some p then { c with binds := c.binds.filter fun b => !mine b } else c }
  let s := s.setPart p { s.part p with heldBinds := (s.part p).heldBinds.filter fun b => !mine b }
  (s.updJob p j fun x => { x with crews := x.crews - n }).settleBinds p

/-- A job terminated with a code (19 R282): records invalid, resident crews ended, saved and undispatched ones discarded. -/
def State.terminate (s : State) (p j code : Nat) : State :=
  match s.job? p j with
  | none => s
  | some x =>
    if x.term.isSome then s
    else
      let s := (s.updJob p j fun x => { x with term := some code }).dropBinds p j
      let mine (cr : Crew) : Bool := decide (cr.part = p ∧ cr.jobKey = j)
      let resident := (s.cores.map fun c => (c.2.crews.map fun k =>
        if mine k.2 then (k.2.warps.filter fun w => !w.2.retired).map fun w => (c.1, k.1, w.1) else []).flatten).flatten
      let saved := (s.cores.map fun c => c.2.saved.filter mine).flatten ++ (s.part p).heldCrews.filter mine
      let s := resident.foldl (fun s t => s.endWarp t.1 t.2.1 t.2.2 none) s
      let s := saved.foldl State.killSaved s
      let s := (s.cores.map fun c => c.1).foldl State.discardDoomed s
      (s.discardHeld p).wakeQueues.reclass

/-- The active jobs of a partition in an address space. -/
def State.jobsOf (s : State) (p asn : Nat) : List Nat :=
  (s.part p).jobs.filterMap fun e => if e.2.asn = asn ∧ e.2.term = none then some e.1 else none

end Sys2Proof.Machine
end

