-- ==== Sys2Proof/Machine/Commands.lean ====
section
/-! DEFINITION. Command queues, launches and their binding, and the configuration of partitions (03 R25-R27, R48, 01 R21-R23, 19
R255-R263, R268, 23 R320, R322). -/

namespace Sys2Proof.Machine

/-! ### Queues (19 R255, R256) -/

/-- A size of a ring that a header may give (19 R255). -/
def ringSizeOk (n : Nat) : Bool := decide (16 ≤ n) && decide (n ≤ 65536) && decide (2 ^ Nat.log2 n = n)

/-- The queue that a header places, if R255 places it (19 R255). -/
def State.readHeader (s : State) (hdr : Nat) : Option CmdQueue :=
  let q : CmdQueue :=
    { hdr, cqbase := s.natAt hdr 8, rqbase := s.natAt (hdr + 8) 8, cqsize := s.natAt (hdr + 0x10) 4, rqsize := s.natAt (hdr + 0x14) 4 }
  if inHbm hdr && inHbm (hdr + 63) && ringSizeOk q.cqsize && ringSizeOk q.rqsize && inHbm q.cqbase && decide (q.cqbase % 64 = 0) &&
      inHbm q.rqbase && decide (q.rqbase % 32 = 0) && decide (s.natAt (hdr + 0x24) 28 = 0) then some q
  else none

/-- The index of the next command to read (19 R255). -/
def State.cqHead (s : State) (q : CmdQueue) : Nat := s.natAt (q.hdr + 0x18) 4

/-- A queue placed for a partition: at a new header no command is outstanding (19 R255). -/
def State.placeQueue (s : State) (p : Nat) (q : CmdQueue) : State :=
  let t := s.part p
  let same := match t.queue with
    | some o => decide (o.hdr = q.hdr)
    | none => false
  s.setPart p { t with queue := some q, dbell := if same then t.dbell else BitVec.ofNat 32 (s.cqHead q) }

/-- A doorbell write: accepted, refused with a record, or ignored where the partition has no queue (19 R256, 23 R317, R328). -/
def State.doorbell (s : State) (p v : Nat) : State :=
  match (s.part p).queue with
  | none => s
  | some q =>
    if seqSub v (s.cqHead q) ≤ q.cqsize then s.setPart p { s.part p with dbell := BitVec.ofNat 32 v }
    else s.addRecord p { cseq := 0, kind := 3, code := 3, flags := 0, tag := 0, info1 := BitVec.ofNat 64 v, info2 := 0, info3 := 0 }

/-- DOORBELL (19 R256). -/
def execDoorbell (part : Nat) (value : BitVec 32) (s : State) : Host.Outcome State Fault Refusal :=
  .next (s.whenReady (s.doorbell part value.toNat))

/-! ### Commands (19 R257, R258, 23 R320, R321) -/

/-- `OPC`. -/
def Cmd.opc (c : Cmd) : Nat := fieldAt c.bytes 0 1

/-- `CSEQ`. -/
def Cmd.cseq (c : Cmd) : Word := BitVec.ofNat 32 (fieldAt c.bytes 4 4)

/-- The field of `n` bytes at an offset of a command. -/
def Cmd.field (c : Cmd) (o n : Nat) : Nat := fieldAt c.bytes o n

/-- The payload fields of an opcode: offset, bytes, and how many of the low bits are not reserved; nothing for an opcode that no chapter
assigns (19 R257, 23 R321, R322; notes/assumptions/20.md). -/
def payload : Nat → Option (List (Nat × Nat × Nat))
  | 0x01 => some [(0x08, 8, 64), (0x10, 8, 64), (0x18, 2, 12)]
  | 0x02 => some [(0x08, 1, 8), (0x09, 1, 8), (0x0A, 1, 5), (0x0B, 1, 8), (0x0C, 2, 14), (0x10, 12, 96), (0x20, 8, 64), (0x28, 8, 64),
      (0x30, 8, 64), (0x38, 8, 64)]
  | 0x03 => some [(0x08, 2, 12), (0x10, 8, 64), (0x18, 8, 64)]
  | 0x04 => some [(0x08, 2, 12), (0x0A, 1, 8), (0x0B, 1, 8), (0x10, 8, 64)]
  | 0x05 => some [(0x08, 2, 12), (0x10, 8, 64), (0x18, 8, 64)]
  | 0x06 => some []
  | 0x07 => some [(0x08, 1, 8), (0x10, 8, 64), (0x18, 4, 32)]
  | 0x08 => some [(0x08, 1, 8), (0x09, 1, 8), (0x0A, 1, 8), (0x0B, 1, 8), (0x10, 8, 64)]
  | 0x09 => some [(0x08, 2, 16), (0x0A, 2, 16), (0x0C, 2, 16), (0x10, 8, 64)]
  | 0x0A => some [(0x08, 1, 8), (0x10, 8, 64), (0x18, 8, 64)]
  | 0x0B => some [(0x10, 8, 64)]
  | 0x0C => some [(0x08, 8, 64), (0x10, 8, 64)]
  | 0x0D => some [(0x08, 1, 8)]
  | 0x0E => some [(0x08, 2, 16)]
  | 0x0F => some [(0x08, 8, 64), (0x10, 8, 64)]
  | _ => none

/-- The bits of bytes 8 to 63 that are not reserved. -/
def payloadMask (l : List (Nat × Nat × Nat)) : Nat := (l.map fun f => 2 ^ (8 * (f.1 - 8)) * (2 ^ f.2.2 - 1)).sum

/-- Every reserved field of a command is zero (19 R257, 23 R320). -/
def Cmd.clean (c : Cmd) (l : List (Nat × Nat × Nat)) : Bool :=
  decide (c.field 1 1 < 2) && decide (c.field 2 2 = 0) && decide (c.field 8 56 ||| payloadMask l = payloadMask l)

/-- A partition's next command can be read: none is in progress or pending, no record waits (19 R258, R260). -/
def State.cmdReady (s : State) (p : Nat) : Bool :=
  let t := s.part p
  match t.queue with
  | none => false
  | some q => t.cmd.isNone && t.pending.isNone && t.records.isEmpty && decide (s.cqHead q ≠ t.dbell.toNat)

/-- The partition that Zhevvo visits next among those with a command to read (19 R258). -/
def State.cmdTurn (s : State) : Option Nat :=
  ((List.range 8).map fun k => (s.mgmt.visit + k) % 8).find? s.cmdReady

/-- The bytes of a partition's next command. -/
def State.nextCmd (s : State) (p : Nat) : Option Cmd :=
  match (s.part p).queue with
  | none => none
  | some q => some { index := s.cqHead q, bytes := s.bytesAt (q.cqbase + 64 * (s.cqHead q % q.cqsize)) 64 }

/-- The command in progress, or the next one read in the partition's turn: `CQHEAD` moves past it (19 R258). -/
def State.takeCmd (s : State) (p : Nat) : Option (Cmd × State) :=
  match (s.part p).cmd with
  | some c => some (c, s)
  | none =>
    if s.cmdTurn = some p then
      match (s.part p).queue, s.nextCmd p with
      | some q, some c =>
        let s := s.request (q.cqbase + 64 * (c.index % q.cqsize)) 0 p false none
        let s := s.zWrite p (q.hdr + 0x18) (bytesLE 4 (c.index + 1))
        let s := { s with mgmt := { s.mgmt with visit := (p + 1) % 8 } }
        some (c, s.setPart p { s.part p with cmd := some c })
      | _, _ => none
    else none

/-- The command in progress of a partition is no more, with its record (19 R258, R259). -/
def State.endCmd (s : State) (p : Nat) (r : Record) : State := (s.setPart p { s.part p with cmd := none }).addRecord p r

/-- The command in progress has begun to take effect. -/
def State.begin (s : State) (p : Nat) (c : Cmd) : State := s.setPart p { s.part p with cmd := some { c with begun := true } }

/-- A command error (19 R259). -/
def State.cmdError (s : State) (p : Nat) (c : Cmd) (code : Nat) : State :=
  s.endCmd p { cseq := c.cseq, kind := 3, code, flags := 0, tag := 0, info1 := BitVec.ofNat 64 c.index, info2 := 0, info3 := 0 }

/-- A command done, with `INFO2` and `INFO3` (23 R320). -/
def State.cmdDone (s : State) (p : Nat) (c : Cmd) (code info2 info3 : Nat) : State :=
  s.endCmd p { cseq := c.cseq, kind := 7, code, flags := 0, tag := 0, info1 := 0, info2 := BitVec.ofNat 32 info2
               info3 := BitVec.ofNat 32 info3 }

/-- One step on the command of a partition, when its opcode is one that the step is for and no completion record waits: the checks of R257,
the wait of `AFTER`, then `k` (19 R257, R260). -/
def State.command (s : State) (p : Nat) (mine : Nat → Bool) (k : Cmd → State → State) : State :=
  match s.takeCmd p with
  | none => s
  | some (c, t) =>
    if mine c.opc && (t.part p).records.isEmpty then
      match payload c.opc with
      | none => t.cmdError p c 4
      | some l =>
        if !c.clean l then t.cmdError p c 1
        else if bit (c.field 1 1) 0 ∧ !(t.part p).jobs.isEmpty ∧ !c.begun then t
        else k c t
    else s

/-- One step on a command of Zhevvo's other than launch (23 R320): `sys` marks a command of partition 0's queue alone. -/
def zCommand (opc : Nat) (sys : Bool) (p : Nat) (s : State) (k : Cmd → State → State) : Host.Outcome State Fault Refusal :=
  .next (s.whenReady (s.command p (fun o => decide (o = opc)) fun c t => if sys ∧ p ≠ 0 then t.cmdDone p c 1 0 0 else k c t))

/-- The `n` bytes at a payload address lie in HBM or host memory (23 R320). -/
def payRange (a n : Nat) : Bool := (inHbm a && inHbm (a + n - 1)) || (inHost a && inHost (a + n - 1))

/-! ### LAUNCH (03 R25-R27, R48, 19 R261) -/

/-- The fields of a job descriptor that the checks read and the job does not keep. -/
structure DescRest where
  flags : Nat
  res   : Nat
  width : Nat
deriving DecidableEq, Repr

/-- A job descriptor (03 R25). -/
def jobDesc (l : List Byte) : JobDesc × DescRest :=
  let flags := fieldAt l 0x2E 2
  let shape : Shape :=
    { width := 32 * 2 ^ (fieldAt l 0x2C 1 % 4), warps := fieldAt l 0x2B 1, vregs := fieldAt l 0x28 2, sregs := fieldAt l 0x2A 1
      stash := fieldAt l 0x24 4, entry := BitVec.ofNat 64 (fieldAt l 0 8), handler := BitVec.ofNat 64 (fieldAt l 0x10 8)
      param := BitVec.ofNat 64 (fieldAt l 8 8), cor := bit flags 0, strict := bit flags 1 }
  ({ shape, dimx := fieldAt l 0x18 4, dimy := fieldAt l 0x1C 4, dimz := fieldAt l 0x20 4, prio := fieldAt l 0x2D 1
     done := fieldAt l 0x30 8, tag := BitVec.ofNat 64 (fieldAt l 0x38 8) },
   { flags, res := fieldAt l 0x40 64, width := fieldAt l 0x2C 1 })

/-- An address of a descriptor that is non-canonical or misaligned (03 R26). -/
def badAddr (a n : Nat) : Bool := !canonical a || decide (a % n ≠ 0)

/-- A size of a grid outside 1 to 2^20 (03 R25). -/
def badDim (n : Nat) : Bool := decide (n = 0) || decide (2 ^ 20 < n)

/-- The refusal code of a descriptor, but for codes 0x08 and 0x09 (03 R26, R27). -/
def descCode (d : JobDesc) (r : DescRest) : Option Nat :=
  let h := d.shape
  if r.res ≠ 0 ∨ 8 ≤ r.flags then some 1
  else if badAddr h.entry.toNat 4 || badAddr h.param.toNat 8 || badAddr h.handler.toNat 4 || badAddr d.done 8 then some 2
  else if 2 < r.width ∨ 3 < d.prio then some 3
  else if h.vregs = 0 ∨ 256 < h.vregs ∨ h.sregs < 8 ∨ 64 < h.sregs ∨ h.sregs % 8 ≠ 0 then some 4
  else if badDim d.dimx || badDim d.dimy || badDim d.dimz || decide (h.warps = 0 ∨ 32 < h.warps ∨ 64 < h.warps * warpUnits h.width) then
    some 5
  else if 196608 < h.stash ∨ h.stash % 256 ≠ 0 then some 6
  else if bit r.flags 2 then some 7
  else none

/-- The crews of a job. -/
def JobDesc.crews (d : JobDesc) : Nat := d.dimx * d.dimy * d.dimz

/-- The share of each core of a partition in a job that is its launch number `lseq`: core, first and last linear index (19 R262). -/
def State.shares (s : State) (p lseq : Nat) (d : JobDesc) : List (Nat × Nat × Nat) :=
  let cs := s.bindCores p
  let n := cs.length
  ((List.range n).zip cs).filterMap fun e =>
    let first := (e.1 + n - lseq % n) % n
    if first < d.crews then some (e.2, first, first + (d.crews - 1 - first) / n * n) else none

/-- A general crew that a `COR` job of a class may push out (03 R48). -/
def Crew.yields (cr : Crew) (cls : Nat) : Bool := decide (cls < cr.cls) && !cr.shape.cor

/-- `n` crews of a shape can be placed on a core by the count of R48. -/
def Core.corRoom (c : Core) (cls : Nat) (h : Shape) (n : Nat) : Bool :=
  let stay := c.crews.filter fun e => decide (e.1 < 28) && !e.2.yields cls
  let units := stay.map fun e => warpUnits e.2.shape.width * (e.2.warps.filter fun w => !w.2.retired).length
  decide (stay.length + n ≤ 28) && decide (units.sum + n * h.warps * warpUnits h.width ≤ 64) &&
    decide ((stay.map fun e => e.2.shape.stash).sum + n * h.stash ≤ 196608)

/-- The refusal of a launch for want of room or of a core (03 R26, R48, 01 R22). R22 does not say whether a core that a command moves away
still counts as assigned while it moves: it does not (DESIGN CHOICE, notes/assumptions/41.md). -/
def State.roomCode (s : State) (p : Nat) (d : JobDesc) : Option Nat :=
  let n := (s.bindCores p).length
  let whole := decide (n ≠ 0) && (s.shares p (s.part p).launches d).all fun e =>
    (s.core e.1).corRoom d.prio d.shape ((e.2.2 - e.2.1) / n + 1)
  if d.shape.cor ∧ !whole then some 8 else if n = 0 then some 9 else none

/-- The page of a job descriptor is changing its bias: the read waits (19 R261, 23 R319). -/
def State.descFlips (s : State) (p asn root va : Nat) : Bool :=
  match (s.devAccess { part := p, job := 256, asn, root } va 128 .read).1 with
  | .flip _ => true
  | _ => false

/-- The 128 bytes of a job descriptor by a walk of its launch; nothing where the walk or the read fails (19 R261). -/
def State.readDesc (s : State) (p asn root va : Nat) : Option (List Byte) × State :=
  let a := s.devAccess { part := p, job := 256, asn, root } va 128 .read
  match a.1 with
  | .ok pa leaf => if leaf.getLsbD 3 then (none, a.2) else (some (a.2.bytesAt pa 128), a.2.request pa 0 p false none)
  | _ => (none, a.2)

/-- A launch refused (19 R259, R261). -/
def State.refuse (s : State) (p : Nat) (c : Cmd) (d : JobDesc) (code : Nat) : State :=
  s.endCmd p { cseq := c.cseq, kind := 1, code, flags := 0, tag := d.tag, info1 := 0, info2 := 0, info3 := 0 }

/-- Steps 1 to 3 of a launch: what passes waits for its handle and its bind records (19 R261). -/
def State.launch (s : State) (p : Nat) (c : Cmd) : State :=
  let va := c.field 8 8
  let root := c.field 0x10 8
  let asn := c.field 0x18 2
  if !inHbm root || decide (root % 8192 ≠ 0) || badAddr va 128 then s.cmdError p c 1
  else if s.descFlips p asn root va then s
  else
    let r := s.readDesc p asn root va
    match r.1 with
    | none => r.2.cmdError p c 2
    | some l =>
      let d := jobDesc l
      match descCode d.1 d.2 <|> r.2.roomCode p d.1 with
      | some code => r.2.refuse p c d.1 code
      | none => r.2.setPart p { r.2.part p with cmd := none, pending := some { desc := d.1, cseq := c.cseq, asn, root } }

/-- LAUNCH, and the refusal of opcodes that no chapter assigns (19 R257, R261). -/
def execLaunch (part : Nat) (s : State) : Host.Outcome State Fault Refusal :=
  .next (s.whenReady (s.command part (fun o => decide (o = 1) || (payload o).isNone) fun c t => t.launch part c))

/-! ### JOB_BIND (03 R48, 19 R261-R263) -/

/-- The lowest free job handle of a partition (19 R261). -/
def State.freeHandle (s : State) (p : Nat) : Option Nat := Store.free (s.part p).jobs 0 256

/-- The job of a launch, with its launch number and the number of the memory events before it (19 R261, R262, 11 R175). -/
def Launch.job (l : Launch) (lseq stamp : Nat) : Job :=
  { desc := l.desc, cseq := l.cseq, asn := l.asn, root := l.root, lseq, stamp, crews := l.desc.crews, fault := none, bad := 0, term := none }

/-- A pending launch accepted under a handle: the instruction caches of the partition's cores are invalidated (19 R261, 07 R97). -/
def State.accept (s : State) (p j : Nat) (l : Launch) : State :=
  let t := s.part p
  let s' := s.setPart p
    { t with jobs := Store.put t.jobs j (l.job t.launches s.ledger.count), launches := t.launches + 1, pending := none }
  { s' with cores := Store.mapV s'.cores fun _ c => if c.part = some p then { c with icache := [] } else c }

/-- The bind records of a job written, with the address of Zhevvo's copy of its descriptor, which no rule gives: a free value (19 R262;
notes/assumptions/4.md). -/
def State.writeBinds (s : State) (j lseq n : Nat) (d : JobDesc) (l : List (Nat × Nat × Nat)) : State :=
  let descpa := Config.descCopy s.freeCtr
  l.foldl (fun s e =>
    let c := s.core e.1
    let b : Bind := { cls := d.prio, cor := d.shape.cor, job := j, stride := n, lseq, next := e.2.1, last := e.2.2, descpa }
    s.setCore e.1 { c with binds := c.binds ++ [b] }) { s with freeCtr := s.freeCtr + 1 }

/-- Crews of a job started on a core one after another by linear index; nothing where one does not fit (03 R48). -/
def State.startMany (s : State) (core p j stride : Nat) (x : Job) : Nat → Nat → Option State
  | 0, _ => some s
  | f + 1, k =>
    match (s.core core).fits x.desc.shape.need with
    | some (slot, qs) =>
      if s.poolHas p x.desc.shape.dispatchBytes then State.startMany (s.startBound core slot qs p j k x) core p j stride x f (k + stride)
      else none
    | none => none

/-- Every crew of a `COR` job started, or nothing (03 R48). -/
def State.startAll (s : State) (p j n : Nat) (x : Job) : List (Nat × Nat × Nat) → Option State
  | [] => some s
  | e :: r =>
    match s.startMany e.1 p j n x ((e.2.2 - e.2.1) / n + 1) e.2.1 with
    | some s => State.startAll s p j n x r
    | none => none

/-- One victim on each core whose share of a `COR` job would not fit even once the crews being saved have left it (03 R48, 19 R267). -/
def State.makeRoom (s : State) (p j n : Nat) (x : Job) (l : List (Nat × Nat × Nat)) : State :=
  l.foldl (fun s e =>
    let t := s.setCore e.1 (s.core e.1).withoutSaving
    match t.startMany e.1 p j n x ((e.2.2 - e.2.1) / n + 1) e.2.1 with
    | some _ => s
    | none => s.preempt e.1 x.desc.prio) s

/-- Steps 4 and 5 of a launch, when a handle and the records are free (19 R261-R263) and no completion record waits (R260); a `COR` job starts
whole (03 R48). -/
def State.jobBind (s : State) (p : Nat) : State :=
  match (s.part p).pending, s.freeHandle p with
  | some l, some j =>
    let lseq := (s.part p).launches
    let n := (s.bindCores p).length
    let sh := s.shares p lseq l.desc
    if (s.part p).records ≠ [] ∨ n = 0 ∨ sh.any (fun e => decide (16 ≤ (s.core e.1).binds.length)) then s
    else if l.desc.shape.cor then
      match (s.accept p j l).startAll p j n (l.job lseq s.ledger.count) sh with
      | some t => t
      | none => s.makeRoom p j n (l.job lseq s.ledger.count) sh
    else (s.accept p j l).writeBinds j lseq n l.desc sh
  | _, _ => s

/-- JOB_BIND (19 R262). -/
def execJobBind (part : Nat) (s : State) : Host.Outcome State Fault Refusal := .next (s.whenReady (s.jobBind part))

/-! ### Moves of cores (01 R23, 19 R268) -/

/-- The index by which a device-created crew is bound: of its queue's header, or of its tile's key (19 R265, 21 R312). -/
def Crew.homeIndex (cr : Crew) : Nat :=
  match cr.batch with
  | some q => homeOf q.hdr
  | none => keyHome (cr.s0.look 4 |>.getD 0 |>.toNat |> fun lo => lo + 2 ^ 32 * ((cr.s0.look 5).getD 0).toNat)

/-- The splits of a crew that wait for a place in a queue of the core it has left perform their instructions again (19 R268, R269). -/
def Crew.unqueue (cr : Crew) : Crew :=
  cr.mapWarps fun w => w.mapSplits fun sp => match sp.st with
    | .parked (.engine _) => { sp with st := .run }
    | _ => sp

/-- A saved crew bound to another core by R262, with the linear index that its report index names (03 R35; notes/assumptions/44.md), or held
while the partition has no core (19 R268). -/
def State.moveSaved (s : State) (cr : Crew) : State :=
  let lseq := ((s.job? cr.part cr.jobKey).map fun x => x.lseq).getD 0
  let n := (s.bindCores cr.part).length
  match s.coreFor cr.part (cr.report.toNat % 2 ^ 62 + lseq % n) with
  | some c => s.setCore c { s.core c with saved := (s.core c).saved ++ [{ cr.unqueue with savedAt := (s.core c).clk }] }
  | none => s.setPart cr.part { s.part cr.part with heldCrews := (s.part cr.part).heldCrews ++ [cr] }

/-- What a core that is to leave holds of undispatched work goes to the other cores of the partition (01 R23, 19 R268). -/
def State.giveAway (s : State) (p core : Nat) : State :=
  let c := s.core core
  let s := s.setCore core { c with binds := [], created := [] }
  let s := c.binds.foldl (fun s b => s.moveBind p b) s
  c.created.foldl (fun s cr => s.bindCreated cr.homeIndex cr) s

/-- Records and crews that a partition holds go to its cores where they can (19 R263, R268). -/
def State.settleHeld (s : State) (p : Nat) : State :=
  if (s.bindCores p).isEmpty then s.discardHeld p
  else
    let s := s.settleBinds p
    let t := s.part p
    let s := s.setPart p { t with heldCrews := [], heldCreated := [] }
    let s := t.heldCrews.foldl State.moveSaved s
    t.heldCreated.foldl (fun s cr => s.bindCreated cr.homeIndex cr) s

/-- The partition that a move leads to. -/
def moveTarget (t : Nat) : Option Nat := if t < 8 then some t else none

/-- A core that moves: once it holds no fill task and no crew of a `COR` job its crews are saved, and once it holds none the move takes
effect (01 R23, 19 R268, R287). -/
def State.coreMove (s : State) (core : Nat) : State :=
  let c := s.core core
  match c.moving with
  | none => s
  | some t =>
    if c.crews.isEmpty then
      let s := s.setCore core { c with part := moveTarget t, moving := none, saved := [], counters := [], joins := [] }
      let s := c.saved.foldl State.moveSaved s
      match moveTarget t with
      | some p => s.settleHeld p
      | none => s
    else if c.crews.any fun e => decide (28 ≤ e.1) || e.2.shape.cor then s
    else c.crews.foldl (fun s e => if e.2.saving then s else s.decideSave core e.1 none) s

/-- CORE_MOVE (01 R23). -/
def execCoreMove (core : Nat) (s : State) : Host.Outcome State Fault Refusal := .next (s.whenReady (s.coreMove core))

/-! ### CONFIG (23 R322) -/

/-- The fields of a `CONFIG` payload (23 R322). -/
structure CfgCmd where
  part   : Nat
  weight : Nat
  pctl   : Nat
  lnl    : Nat
  ways   : Nat
  cores  : Nat
  qhdr   : Nat
  pool   : Nat
  poolsz : Nat
  lbase  : Nat
deriving DecidableEq, Repr

/-- A `CONFIG` payload. -/
def Cmd.cfg (c : Cmd) : CfgCmd :=
  { part := c.field 8 1, weight := c.field 9 1, pctl := c.field 0xA 1, lnl := c.field 0xB 1, ways := c.field 0xC 2
    cores := c.field 0x10 12, qhdr := c.field 0x20 8, pool := c.field 0x28 8, poolsz := c.field 0x30 8, lbase := c.field 0x38 8 }

/-- The sum of the weights after a change of one (19 R278). -/
def State.weights (s : State) (p w : Nat) : Nat :=
  1 + ((List.range 7).map fun k => if k + 1 = p then w else (s.part (k + 1)).weight).sum

/-- An operand of `CONFIG` that is out of range (23 R322, 01 R22, 23 R329). -/
def State.cfgBad (s : State) (g : CfgCmd) : Bool :=
  decide (7 < g.part) || decide (g.lnl ≠ 0 ∧ (g.lnl < 14 ∨ 26 < g.lnl)) || decide (g.pool % 65536 ≠ 0) ||
    decide (g.poolsz % 65536 ≠ 0) || !payRange g.pool (Nat.max 1 g.poolsz) ||
    (decide (g.lnl ≠ 0) && (decide (g.lbase % (128 * 2 ^ g.lnl) ≠ 0) || !payRange g.lbase (136 * 2 ^ g.lnl))) ||
    (decide (g.part ≠ 0) &&
      (decide (g.weight = 0 ∨ 15 < g.weight) || decide (16 < s.weights g.part g.weight) || bit g.cores 0 || bit g.cores 24 ||
        bit g.cores 48 || bit g.cores 72 || s.cores.any fun e => e.2.unusable && bit g.cores e.1))

/-- Some line of `n` bytes is poisoned. -/
def State.anyPoison (s : State) (pa n : Nat) : Bool :=
  s.poison.any fun l => decide (lineOf pa ≤ l) && decide (l ≤ lineOf (pa + n - 1))

/-- The header that a `CONFIG` names cannot be read (23 R320). -/
def State.cfgUnread (s : State) (g : CfgCmd) : Bool :=
  decide (g.qhdr ≠ 0) && inHbm g.qhdr && inHbm (g.qhdr + 63) && s.anyPoison g.qhdr 64

/-- The header that a `CONFIG` names is not one that R255 places (23 R322). -/
def State.cfgNoQueue (s : State) (g : CfgCmd) : Bool := decide (g.qhdr ≠ 0) && (s.readHeader g.qhdr).isNone

/-- A saved crew of the partition exists. -/
def State.hasSaved (s : State) (p : Nat) : Bool :=
  (s.cores.any fun e => e.2.saved.any fun cr => decide (cr.part = p)) || !(s.part p).heldCrews.isEmpty

/-- A field that may change only while the partition is idle would change while it is not (23 R322). -/
def State.cfgBusy (s : State) (g : CfgCmd) : Bool :=
  let t := s.part g.part
  let hdr := match t.queue with
    | some q => q.hdr
    | none => 0
  (!t.jobs.isEmpty || s.hasSaved g.part) &&
    decide (g.qhdr ≠ hdr ∨ g.pool ≠ t.pool ∨ g.poolsz ≠ t.poolsz ∨ g.lnl ≠ t.lnl ∨ g.lbase ≠ t.lbase)

/-- One core under a `CONFIG`: it leaves, joins, moves, or stays (01 R21, R23). Of several cores that join a partition whose work is held, the lowest
takes it (DEDUCED, notes/assumptions/44.md). -/
def State.cfgCore (s : State) (g : CfgCmd) (core : Nat) : State :=
  let c := s.core core
  let want : Option Nat := if bit g.cores core then some g.part else if c.part = some g.part then none else c.part
  if want = c.part then s
  else
    match c.part with
    | none => (s.setCore core { c with part := want }).settleHeld g.part
    | some _ => s.setCore core { c with moving := some (want.getD 8) }

/-- Undispatched work of a core that is to leave goes to cores that stay. -/
def State.cfgGive (s : State) (core : Nat) : State :=
  match (s.core core).moving, (s.core core).part with
  | some _, some old => s.giveAway old core
  | _, _ => s

/-- The queue of a partition as `CONFIG` leaves it (19 R255). -/
def State.cfgQueue (s : State) (g : CfgCmd) : State :=
  match s.readHeader g.qhdr with
  | some q => if g.qhdr = 0 then s.setPart g.part { s.part g.part with queue := none } else s.placeQueue g.part q
  | none => s.setPart g.part { s.part g.part with queue := none }

/-- The fields of a `CONFIG` that take effect at once. -/
def State.cfgApply (s : State) (c : Cmd) : State :=
  let g := c.cfg
  let t := s.part g.part
  let s := s.setPart g.part
    { t with
      configured := true, lnl := g.lnl, lbase := g.lbase, pool := g.pool, poolsz := g.poolsz, payload := c.bytes.drop 8
      weight := if g.part = 0 then t.weight else g.weight
      ways := if g.part = 0 then t.ways else BitVec.ofNat 16 g.ways }
  let s := s.cfgQueue g
  if g.part = 0 then s
  else (List.range 96).foldl State.cfgGive ((List.range 96).foldl (fun s k => s.cfgCore g k) s)

/-- No core is moving. -/
def State.stillCores (s : State) : Bool := s.cores.all fun e => e.2.moving.isNone

/-- A `CONFIG` whose moves have completed: the stall exponent and `MSDBG` take effect (23 R322). -/
def State.cfgEnd (s : State) (p : Nat) (c : Cmd) : State :=
  let g := c.cfg
  if s.stillCores then
    (s.setPart g.part { s.part g.part with stallB := g.pctl % 16, msdbg := bit g.pctl 4 }).cmdDone p c 0 0 0
  else s

/-- `CONFIG` (23 R322): checked and applied when it is read, done when every core has moved. -/
def State.config (s : State) (p : Nat) (c : Cmd) : State :=
  if c.begun then s.cfgEnd p c
  else if s.cfgBad c.cfg then s.cmdDone p c 2 0 0
  else if s.cfgUnread c.cfg then s.cmdDone p c 3 0 0
  else if s.cfgNoQueue c.cfg then s.cmdDone p c 2 0 0
  else if s.cfgBusy c.cfg then s.cmdDone p c 4 0 0
  else ((s.begin p c).cfgApply c).cfgEnd p c

/-- CONFIG (23 R322). -/
def execConfig (part : Nat) (s : State) : Host.Outcome State Fault Refusal :=
  zCommand 0x02 true part s fun c t => t.config part c

end Sys2Proof.Machine
end

