-- ==== Sys2Proof/Machine/Raster.lean ====
section
/-! DEFINITION. The raster units: `rast`, primitives, pixels, tile keys and pixel crews (21 R307-R313). -/

namespace Sys2Proof.Machine

/-! ### `rast` (21 R307) -/

/-- `rast`: a device-scope release, then the batch appended to the core's unit (21 R307). -/
def rastBody (w : WS) (c : Ctx) (s : State) : Res :=
  if c.mask.isEmpty then .done s .next [] []
  else
    let a := c.a c.lowMask
    let n := c.core % 8
    if !canonical a then .fault s [{ lane := c.lowMask, code := 0x1E, va := a }]
    else if a % 128 ≠ 0 then .fault s [{ lane := c.lowMask, code := 0x06, detail := 7, va := a }]
    else
      c.released true s fun s =>
        let u := s.unit n
        if 16 ≤ u.batches.length then .park s (.engine 6) c.sp.ans
        else
          let b : Batch :=
            { uid := c.cr.uid, core := c.core, part := c.cr.part, job := c.cr.jobKey, addr := a, ord := bit w.toNat 0, desc := none
              prim := 0, drop := 0, work := none, tiles := [], live := 0, st := .queued, err := none, served := []
              clk := s.ledger.beforeAll c.threads }
          let s := { s.setUnit n { u with batches := u.batches ++ [b] } with ledger := c.threads.foldl Ledger.release s.ledger }
          .done (c.setCrew s fun cr => { cr with engines := cr.engines + 1 }) .next [] []

/-- `rast` (21 R307). -/
def execRast (x : Head) (w : WS) (s : State) : Host.Outcome State Fault Refusal := issue (.rast x w) s noBad (rastBody w)

/-! ### The descriptor (21 R308) -/

/-- The fields of a raster descriptor. -/
structure RastDesc where
  vaddr  : Nat
  iaddr  : Nat
  vbuf   : Nat
  pparam : Nat
  pentry : Nat
  fut    : Nat
  nprim  : Nat
  pbase  : Nat
  nvert  : Nat
  pxw    : Nat
  pxh    : Nat
  vpitch : Nat
  rt     : Nat
  rctl   : Nat
  pvregs : Nat
  psregs : Nat
  pstash : Nat
  res    : Nat
deriving DecidableEq, Repr

/-- The fields of a descriptor's 128 bytes. -/
def rastDesc (l : List Byte) : RastDesc :=
  { vaddr := fieldAt l 0 8, iaddr := fieldAt l 8 8, vbuf := fieldAt l 0x10 8, pparam := fieldAt l 0x18 8, pentry := fieldAt l 0x20 8
    fut := fieldAt l 0x28 8, nprim := fieldAt l 0x30 4, pbase := fieldAt l 0x34 4, nvert := fieldAt l 0x38 4
    pxw := fieldAt l 0x3C 2, pxh := fieldAt l 0x3E 2, vpitch := fieldAt l 0x40 4, rt := fieldAt l 0x44 2, rctl := fieldAt l 0x46 1
    pvregs := fieldAt l 0x48 2, psregs := fieldAt l 0x4A 1, pstash := fieldAt l 0x4C 4
    res := fieldAt l 0x47 1 + fieldAt l 0x4B 1 + fieldAt l 0x50 48 }

/-- A descriptor without an error of R308. -/
def RastDesc.ok (d : RastDesc) (ord : Bool) : Bool :=
  decide (d.vaddr % 4 = 0) && decide (d.iaddr % 4 = 0) && decide (d.fut % 8 = 0) &&
    (if ord then canonical d.pentry && decide (d.pentry % 4 = 0) else decide (d.vbuf % 8 = 0) && decide (d.pentry = 0)) &&
    decide (1 ≤ d.nprim) && decide (d.nprim ≤ 2 ^ 24) && decide (1 ≤ d.nvert) && decide (d.nvert ≤ 2 ^ 28) &&
    decide (1 ≤ d.pxw) && decide (d.pxw ≤ 16384) && decide (1 ≤ d.pxh) && decide (d.pxh ≤ 16384) &&
    decide (d.vpitch % 8 = 0) && decide (8 * d.pxw ≤ d.vpitch) && decide (d.rctl < 3) && decide (4 ≤ d.pvregs) &&
    decide (d.pvregs ≤ 256) && decide (8 ≤ d.psregs) && decide (d.psregs ≤ 64) && decide (d.psregs % 8 = 0) &&
    decide (d.pstash ≤ 196608) && decide (d.pstash % 256 = 0) && decide (d.res = 0)

/-- The id of primitive `p`. -/
def RastDesc.id (d : RastDesc) (p : Nat) : Nat := (d.pbase + p) % 2 ^ 32

/-- The end of the sequences of a batch's tiles (21 R311). -/
def RastDesc.stop (d : RastDesc) : Nat := (d.pbase + d.nprim) % 2 ^ 32

/-! ### Setup and coverage (21 R309, R310) -/

/-- A vertex on the 1/256-pixel grid, and its depth. -/
structure Vert where
  x : Int
  y : Int
  z : FVal
deriving DecidableEq, Repr

/-- A coordinate snapped in RNE; none for a NaN, an infinity or a coordinate beyond 2^22 (21 R309). -/
def snap (w : Nat) : Option Int :=
  match fmtF32.decode w with
  | .fin neg m e =>
    let n := roundAt .ne neg m (e + 8) 0
    if 2 ^ 22 < n then none else some (if neg then -(n : Int) else n)
  | _ => none

/-- A vertex of three FP32 words; none where it discards its primitive. -/
def vertOf (x y z : Nat) : Option Vert :=
  match snap x, snap y, fmtF32.decode z with
  | some a, some b, .fin s m e => some { x := a, y := b, z := .fin s m e }
  | _, _, _ => none

/-- `E(i, j, P)` (21 R309). -/
def edge (a b : Vert) (px py : Int) : Int := (b.x - a.x) * (py - a.y) - (b.y - a.y) * (px - a.x)

/-- A primitive that is drawn: its vertices, `s` and `s·A`. -/
structure Prim where
  a : Vert
  b : Vert
  c : Vert
  s : Int
  area : Int
deriving DecidableEq, Repr

/-- Orientation and culling; none where the primitive is discarded (21 R309). -/
def orient (cull : Nat) (a b c : Vert) : Option Prim :=
  let area := edge a b c.x c.y
  if area = 0 ∨ (0 < area ∧ cull = 2) ∨ (area < 0 ∧ cull = 1) then none
  else
    let s : Int := if area < 0 then -1 else 1
    some { a, b, c, s, area := s * area }

/-- An edge owns its zeros (21 R309). -/
def ownsEdge (s : Int) (a b : Vert) : Bool :=
  decide (s * (b.y - a.y) < 0) || (decide (s * (b.y - a.y) = 0) && decide (0 < s * (b.x - a.x)))

/-- The weights of a pixel, when it is covered (21 R309). -/
def Prim.weights (p : Prim) (x y : Nat) : Option (Int × Int × Int) :=
  let px : Int := 256 * x + 128
  let py : Int := 256 * y + 128
  let w0 := p.s * edge p.b p.c px py
  let w1 := p.s * edge p.c p.a px py
  let w2 := p.s * edge p.a p.b px py
  let ok (w : Int) (a b : Vert) : Bool := decide (0 < w) || (decide (w = 0) && ownsEdge p.s a b)
  if ok w0 p.b p.c && ok w1 p.c p.a && ok w2 p.a p.b then some (w0, w1, w2) else none

/-- A value times an integer, as a multiple of a power of two. -/
def termOf (w : Int) (v : FVal) : Int × Int :=
  match v with
  | .fin s m e => (w * (if s then -(m : Int) else m), e)
  | _ => (0, 0)

/-- The depth of a covered pixel rounded once; none where it lies outside [0, 1] (21 R310). -/
def Prim.depth (p : Prim) (w : Int × Int × Int) : Option Word :=
  let ts := [termOf w.1 p.a.z, termOf w.2.1 p.b.z, termOf w.2.2 p.c.z]
  let q := ts.foldl (fun (q : Int) t => if t.2 < q then t.2 else q) 0
  let n := ts.foldl (fun (n : Int) t => n + t.1 * (2 ^ (t.2 - q).toNat : Nat)) 0
  let k := 64 + p.area.natAbs.log2
  let m := n.natAbs * 2 ^ k
  let v := approx (decide (n < 0)) (decide (m % p.area.natAbs = 0)) (m / p.area.natAbs) (q - k)
  let z := (fmtF32.round .ne false false v).1
  if z % 2 ^ 31 = 0 then some 0 else if 0x3F800000 < z then none else some (BitVec.ofNat 32 z)

/-- The pixels, in one dimension, that can be covered: those of the range of three coordinates that lie below a bound. -/
def pixelSpan (a b c : Int) (n : Nat) : List Nat :=
  let lo := Int.toNat ((Min.min a (Min.min b c)) / 256)
  let hi := Int.toNat ((Max.max a (Max.max b c)) / 256)
  (List.range (Nat.min (hi + 1) n - lo)).map fun k => lo + k

/-- The covered pixels of a primitive, rows first, each with its depth where it is not dropped. -/
def Prim.covered (p : Prim) (pxw pxh : Nat) : List (Nat × Nat × Option Word) :=
  ((pixelSpan p.a.y p.b.y p.c.y pxh).map fun y =>
    (pixelSpan p.a.x p.b.x p.c.x pxw).filterMap fun x => (p.weights x y).map fun w => (x, y, p.depth w)).flatten

/-! ### Reads of a primitive (21 R309) -/

/-- Several 4-byte words read in order. -/
def State.rastWords (s : State) (ag : Agent) (served : List Served) : List Nat → List Nat → (Halt ⊕ List Nat) × State
  | [], acc => (.inr acc, s)
  | a :: r, acc =>
    match s.engLoad ag served false a 4 with
    | (.inl h, s') => (.inl h, s')
    | (.inr bs, s') => State.rastWords s' ag served r (acc ++ [natOf bs])

/-- The addresses of a vertex's words. -/
def vertAddrs (base i : Nat) : List Nat := [base + 12 * i, base + 12 * i + 4, base + 12 * i + 8]

/-- Primitive `p` read and set up: none where it is discarded (21 R309). -/
def State.setupPrim (s : State) (ag : Agent) (served : List Served) (d : RastDesc) (p : Nat) : (Halt ⊕ Option Prim) × State :=
  match s.rastWords ag served (vertAddrs d.iaddr p) [] with
  | (.inl h, s) => (.inl h, s)
  | (.inr is, s) =>
    if is.any fun i => decide (d.nvert ≤ i) then (.inr none, s)
    else
      match s.rastWords ag served (is.map (vertAddrs d.vaddr)).flatten [] with
      | (.inl h, s) => (.inl h, s)
      | (.inr ws, s) =>
        let v (k : Nat) : Option Vert := vertOf ((ws[3 * k]?).getD 0) ((ws[3 * k + 1]?).getD 0) ((ws[3 * k + 2]?).getD 0)
        (.inr (match v 0, v 1, v 2 with
          | some a, some b, some c => orient d.rctl a b c
          | _, _, _ => none), s)

/-! ### Visibility words (21 R310) -/

/-- The checks of the writes of a primitive, before any of them is made (21 R313). -/
def State.visSpots (s : State) (ag : Agent) : List (Nat × Nat) → List (Nat × Spot) → (Halt ⊕ List (Nat × Spot)) × State
  | [], acc => (.inr acc, s)
  | (a, v) :: r, acc =>
    match s.engSpot ag false a 8 .write with
    | (.inl h, s') => (.inl h, s')
    | (.inr (.glob va pa leaf), s') =>
      if s'.poisoned pa then (.inl (.fault 0x09), s') else State.visSpots s' ag r (acc ++ [(v, .glob va pa leaf)])
    | (.inr p, s') => State.visSpots s' ag r (acc ++ [(v, p)])

/-- One visibility word: the unsigned minimum, of free values where the word is undefined (13 R190, 21 R310, 11 R176). -/
def State.visWrite (s : State) (ag : Agent) (p : Nat × Spot) : State :=
  match p.2 with
  | .glob va pa leaf =>
    let s := s.writeReq ag leaf va pa 0
    let s := match ag.thr with
      | some t => s.loosen ag.uid none pa 8 (s.ledger.races t pa 8)
      | none => s
    (s.noteSpot ag p.2 8).storeRaw pa (bytesLE 8 (Nat.min (s.natAt pa 8) p.1))
  | _ => s

/-- A primitive drawn into the visibility buffer (21 R310). -/
def State.drawPrim (s : State) (ag : Agent) (d : RastDesc) (p : Nat) (x : Prim) : Option Halt × State :=
  let ws := (x.covered d.pxw d.pxh).filterMap fun c =>
    c.2.2.map fun z => (d.vbuf + c.2.1 * d.vpitch + 8 * c.1, 2 ^ 32 * z.toNat + d.id p)
  match s.visSpots ag ws [] with
  | (.inl h, s) => (some h, s)
  | (.inr ps, s) => (none, ps.foldl (fun s q => s.visWrite ag q) s)

/-- The primitives from `p` on, with `ORD` clear: what stopped them, where, and how many were discarded (21 R309, R310, R313). -/
def State.rastRun (s : State) (ag : Agent) (served : List Served) (d : RastDesc) : Nat → Nat → Nat → Option Halt × Nat × Nat × State
  | 0, p, drop => (none, p, drop, s)
  | f + 1, p, drop =>
    if d.nprim ≤ p then (none, p, drop, s)
    else
      match s.setupPrim ag served d p with
      | (.inl h, s) => (some h, p, drop, s)
      | (.inr none, s) => State.rastRun s ag served d f (p + 1) (drop + 1)
      | (.inr (some x), s) =>
        match s.drawPrim ag d p x with
        | (some h, s) => (some h, p, drop, s)
        | (none, s) => State.rastRun s ag served d f (p + 1) drop

/-! ### Tiles (21 R311, R312) -/

/-- A pixel put among the tiles that a primitive covers, tiles in order of rows. -/
def addPixel (x y : Nat) (z : Option Word) : List TileWork → List TileWork
  | [] => [{ tx := x / 8, ty := y / 8, px := (z.map fun w => [(8 * (y % 8) + x % 8, w)]).getD [] }]
  | t :: r =>
    if t.tx = x / 8 ∧ t.ty = y / 8 then { t with px := t.px ++ (z.map fun w => [(8 * (y % 8) + x % 8, w)]).getD [] } :: r
    else t :: addPixel x y z r

/-- The tiles that a primitive covers. -/
def Prim.tiles (x : Prim) (d : RastDesc) : List TileWork :=
  (x.covered d.pxw d.pxh).foldl (fun l c => addPixel c.1 c.2.1 c.2.2 l) []

/-- The key of a tile (21 R311). -/
def tileKey (d : RastDesc) (tx ty : Nat) : Nat := 2 ^ 48 * d.rt + 2 ^ 16 * ty + tx

/-- The tile of a batch with some coordinates. -/
def Batch.tile (b : Batch) (tx ty : Nat) : Option Tile := b.tiles.find? fun t => decide (t.tx = tx ∧ t.ty = ty)

/-- A batch with a tile replaced. -/
def Batch.setTile (b : Batch) (t : Tile) : Batch :=
  { b with tiles := b.tiles.map fun u => if u.tx = t.tx ∧ u.ty = t.ty then t else u }

/-- The rack entry of a tile of a batch, while the key is open as the batch opened it: a later opening of the key by another is not its own. -/
def State.tileEnt (s : State) (b : Batch) (d : RastDesc) (t : Tile) : Option RackEnt :=
  match s.rackEnt t.slice t.entry with
  | some x => if x.key = tileKey d t.tx t.ty ∧ x.part = b.part ∧ x.job = b.job ∧ x.life = t.life then some x else none
  | none => none

/-- The tickets of a key of a job that crews hold. -/
def State.ticketsOf (s : State) (part job key : Nat) : Nat :=
  ((s.allCrews.filter fun cr => decide (cr.part = part ∧ cr.job = job)).map fun cr =>
    (cr.tickets.filter fun t => decide (t.key = key)).length).sum

/-- The pixel crew of a primitive and tile (21 R312, 03 R35). -/
def pixelCrew (x : Job) (uid unit : Nat) (b : Batch) (d : RastDesc) (w : TileWork) : Crew :=
  let id := d.id b.prim
  let key := tileKey d w.tx w.ty
  let put (m : Store Word) (k v : Nat) : Store Word := Store.set m 0 k (BitVec.ofNat 32 v)
  let s0 := put (put (put (put (put (put (put [] 0 d.pparam) 1 (d.pparam / 2 ^ 32)) 2 id) 3 id) 4 key) 5 (key / 2 ^ 32)) 6
    (2 ^ 16 * w.ty + w.tx)
  let v0 := (List.range 64).foldl (fun m l => Store.set (Store.set m 0 (laneKey 0 l) (BitVec.ofNat 32 (8 * w.tx + l % 8))) 0 (laneKey 1 l)
    (BitVec.ofNat 32 (8 * w.ty + l / 8))) []
  let v0 := w.px.foldl (fun m p => Store.set m 0 (laneKey 2 p.1) p.2) v0
  let shape : Shape := { x.desc.shape with
    width := 64, warps := 1, vregs := d.pvregs, sregs := d.psregs, stash := d.pstash, entry := BitVec.ofNat 64 d.pentry }
  let report := BitVec.ofNat 64 (id + 2 ^ 32 * (w.tx % 2 ^ 15) + 2 ^ 47 * (w.ty % 2 ^ 15) + 3 * 2 ^ 62)
  { x.crew uid b.part b.job .pixel shape (BitVec.ofNat 32 w.tx) (BitVec.ofNat 32 w.ty) 0 report s0 with
    v0, lanes0 := some (w.px.map fun p => p.1), raster := some unit
    tickets := [{ key, seq := id, slice := keyHome key }] }

/-- The pixel crew of the tile launched, a release by the unit that its start acquires, and bound (21 R312). -/
def State.launchPixel (s : State) (unit : Nat) (b : Batch) (d : RastDesc) (w : TileWork) : State :=
  match s.job? b.part b.job with
  | none => s
  | some x =>
    let cr := pixelCrew x s.crewCtr unit b d w
    let u := s.unit unit
    let s := { s with crewCtr := s.crewCtr + 1, ledger := s.ledger.send [.unit unit] (.start cr.uid) }.setUnit unit
      { u with launches := u.launches + 1 }
    ((s.updJob b.part b.job fun x => { x with crews := x.crews + 1 }).bindCreated (keyHome (tileKey d w.tx w.ty)) cr).reown

/-! ### RASTER_BATCH (21 R309-R313) -/

/-- The head of a unit's batches changed. -/
def State.setBatch (s : State) (unit : Nat) (b : Batch) : State :=
  let u := s.unit unit
  s.setUnit unit { u with batches := b :: u.batches.drop 1 }

/-- A batch that has met an error in pixel-ordered mode: it performs no further primitive (21 R313). -/
def Batch.fails (b : Batch) (d : RastDesc) (code : Nat) : Batch :=
  { b with err := some (errWord code b.prim), work := none, going := false, prim := d.nprim, st := .queued }

/-- A pixel-ordered batch with no primitive left completes when its crews have retired and its keys are freed or broken (21 R313). -/
def State.rastDone (s : State) (b : Batch) (d : RastDesc) : Bool :=
  decide (b.live = 0) && b.tiles.all fun t =>
    match s.tileEnt b d t with
    | some x => x.broken
    | none => true

/-- A tile that a primitive covers has a key that is broken (21 R311, R313). -/
def State.tileBroken (s : State) (b : Batch) (d : RastDesc) (l : List TileWork) : Bool :=
  l.any fun w => match s.rackFind b.part b.job (tileKey d w.tx w.ty) with
    | some (_, x) => x.broken
    | none => false

/-- Every tile of a list is open for a batch. -/
def State.tilesOpen (s : State) (b : Batch) (d : RastDesc) (l : List TileWork) : Bool :=
  l.all fun w => (b.tile w.tx w.ty).any fun t => (s.tileEnt b d t).isSome

/-- One move of a pixel-ordered batch: a primitive set up, its launches begun, a pixel crew launched, or the batch performed; none where it
waits (21 R311, R312). The launches of a primitive begin once every tile that it covers is open; a key that is broken by then ends the batch
with none of the primitive's crews launched, and one that breaks later is met at the next primitive that covers its tile (R313). -/
def State.ordMove (s : State) (unit : Nat) (ag : Agent) (b : Batch) (d : RastDesc) : Option Batch × State :=
  match b.work with
  | none =>
    if d.nprim ≤ b.prim then
      if s.rastDone b d then
        (some { b with st := .performed (b.err.getD (BitVec.ofNat 64 b.drop)) b.err.isSome }, s)
      else (none, s)
    else
      match s.setupPrim ag b.served d b.prim with
      | (.inl (.wait w), s) => (some { b with st := .waiting w }, s)
      | (.inl (.fault code), s) => (some (b.fails d code), s)
      | (.inr none, s) => (some { b with prim := b.prim + 1, drop := b.drop + 1 }, s)
      | (.inr (some x), s) =>
        (some (if s.tileBroken b d (x.tiles d) then b.fails d 0x0F else { b with work := some (x.tiles d) }), s)
  | some [] => (some { b with work := none, going := false, prim := b.prim + 1 }, s)
  | some (w :: r) =>
    if !b.going then
      if s.tileBroken b d (w :: r) then (some (b.fails d 0x0F), s)
      else if s.tilesOpen b d (w :: r) then (some { b with going := true }, s)
      else (none, s)
    else match b.tile w.tx w.ty with
    | none => (none, s)
    | some t =>
      match s.tileEnt b d t with
      | none => (none, s)
      | some x =>
        if (t.next ≠ d.id b.prim ∧ x.broken = false) ∨ 256 ≤ (s.unit unit).launches ∨ 64 ≤ s.ticketsOf b.part b.job x.key then
          (none, s)
        else
          let b' := { b.setTile { t with next := (d.id b.prim + 1) % 2 ^ 32 } with work := some r, live := b.live + 1 }
          (some b', s.launchPixel unit b d w)

/-- Moves of a pixel-ordered batch until it waits. -/
def State.ordRun (s : State) (unit : Nat) (ag : Agent) (d : RastDesc) : Nat → Batch → State
  | 0, b => s.setBatch unit b
  | f + 1, b =>
    match s.ordMove unit ag b d with
    | (none, s) => s.setBatch unit b
    | (some b', s) =>
      let s := s.setBatch unit b'
      if b'.st = .queued then State.ordRun s unit ag d f b' else s

/-- A batch whose descriptor is read goes on (21 R308-R313). -/
def State.rastGo (s : State) (unit : Nat) (ag : Agent) (b : Batch) (l : List Byte) : State :=
  let b := { b with desc := some l }
  let d := rastDesc l
  if !d.ok b.ord then s.setBatch unit { b with st := .performed (errWord 0x01 0) true }
  else if b.ord then s.ordRun unit ag d 4096 b
  else
    match s.rastRun ag b.served d d.nprim b.prim b.drop with
    | (none, p, n, s) => s.setBatch unit { b with prim := p, drop := n, st := .performed (BitVec.ofNat 64 n) false }
    | (some h, p, n, s) => s.setBatch unit { b with prim := p, drop := n, st := haltSt h p }

/-- The agent of a batch: its issuing crew on the core it was issued from, by the unit's own thread. -/
def State.batchAgent (s : State) (unit : Nat) (b : Batch) : Option Agent :=
  (s.crewOf b.uid).map fun cr => { cr.agent b.core with thr := some (.unit unit) }

/-- The head batch of a unit performed up to a wait (21 R309-R313). -/
def State.rasterBatch (s : State) (unit : Nat) : State :=
  match (s.unit unit).batches with
  | [] => s
  | b :: _ =>
    match s.batchAgent unit b with
    | none => s
    | some ag =>
      if b.st ≠ .queued then s
      else
        match b.desc with
        | some l => s.rastGo unit ag b l
        | none =>
          match ({ s with ledger := s.ledger.acquire (.unit unit) b.clk } : State).engLoad ag b.served false b.addr 128 with
          | (.inr l, s) => s.rastGo unit ag b l
          | (.inl (.wait w), s) => s.setBatch unit { b with st := .waiting w }
          | (.inl (.fault _), s) => s.setBatch unit { b with st := .lost }

/-- RASTER_BATCH (21 R309). -/
def execRasterBatch (unit : Nat) (s : State) : Host.Outcome State Fault Refusal := .next (s.whenReady (s.rasterBatch unit))

/-! ### TILE_KEY_OPEN (21 R311) -/

/-- The range skip of a tile set up to a sequence, a release by the unit, once the head has passed the range before (21 R294, R303, R311). -/
def State.tileRange (s : State) (unit : Nat) (b : Batch) (d : RastDesc) (t : Tile) (upTo : Nat) : State :=
  match s.tileEnt b d t with
  | none => s
  | some x =>
    if x.broken ∨ t.next = upTo ∨ x.rlo ≠ x.rhi then s
    else
      let s := (s.sendLeave [.unit unit] t.slice t.entry).setRack t.slice t.entry { x with rlo := t.next, rhi := upTo }
      (s.setBatch unit (b.setTile { t with next := upTo })).advance t.slice t.entry

/-- The key of a tile of the primitive in progress opened when it is free; a batch whose key is broken ends with an error (21 R311,
R313). -/
def State.tileOpen (s : State) (unit : Nat) (b : Batch) (d : RastDesc) (w : TileWork) : State :=
  let key := tileKey d w.tx w.ty
  match s.rackFind b.part b.job key with
  | some (_, x) => if x.broken then s.setBatch unit (b.fails d 0x0F) else s
  | none =>
    match s.openKey b.part b.job key (d.id b.prim) d.stop true with
    | (none, s) => s
    | (some e, s') =>
      s'.setBatch unit { b with
        tiles := b.tiles ++ [{ tx := w.tx, ty := w.ty, slice := keyHome key, entry := e, life := (s.slice (keyHome key)).opened
                               next := d.id b.prim }] }

/-- The tile key that the head batch of a unit waits for opened, or its gap skipped; after the last primitive the rest of every tile is
skipped (21 R311, R313). -/
def State.tileKeyOpen (s : State) (unit : Nat) : State :=
  match (s.unit unit).batches with
  | [] => s
  | b :: _ =>
    let d := rastDesc (b.desc.getD [])
    if b.desc.isNone ∨ !b.ord ∨ b.st ≠ .queued then s
    else
      match b.work with
      | some (w :: r) =>
        match (w :: r).find? fun x => !b.going && (b.tile x.tx x.ty).isNone, b.tile w.tx w.ty with
        | some x, _ => s.tileOpen unit b d x
        | none, some t => s.tileRange unit b d t (d.id b.prim)
        | none, none => s
      | some [] => s
      | none =>
        if b.prim < d.nprim then s
        else b.tiles.foldl (fun s t => match (s.unit unit).batches with
          | b' :: _ => s.tileRange unit b' d t d.stop
          | [] => s) s

/-- TILE_KEY_OPEN (21 R311). -/
def execTileKeyOpen (unit : Nat) (s : State) : Host.Outcome State Fault Refusal := .next (s.whenReady (s.tileKeyOpen unit))

/-! ### RASTER_BATCH_COMPLETE (21 R313) -/

/-- The head batch of a unit has completed. -/
def State.batchPop (s : State) (unit uid : Nat) : State :=
  let u := s.unit unit
  let s := (s.setUnit unit { u with batches := u.batches.drop 1 }).engineLess uid
  (s.cores.filter fun e => decide (e.1 % 8 = unit)).foldl (fun s e => s.wakeEngine e.1 6) s

/-- The performed batch at the head of a unit resolves its future and completes (21 R313). -/
def State.batchComplete (s : State) (unit : Nat) : State :=
  match (s.unit unit).batches with
  | [] => s
  | b :: _ =>
    match b.st, s.batchAgent unit b with
    | .performed value bad, some ag =>
      match s.engFuture ag (rastDesc (b.desc.getD [])).fut value with
      | (.wait w, s) => s.setBatch unit { b with st := .closing value bad w }
      | (.done, s) => s.batchPop unit b.uid
      | (_, s) => (s.dblComp b.core).batchPop unit b.uid
    | .unresolved _ _, _ => (s.dblComp b.core).batchPop unit b.uid
    | .lost, _ => (s.dblComp b.core).batchPop unit b.uid
    | _, _ => s

/-- RASTER_BATCH_COMPLETE (21 R313). -/
def execRasterBatchComplete (unit : Nat) (s : State) : Host.Outcome State Fault Refusal := .next (s.whenReady (s.batchComplete unit))

end Sys2Proof.Machine
end

