-- ==== Sys2Proof/Machine/Auto.lean ====
section
/-! DEFINITION. The moves that the device's own agents can make, and the one that comes next (notes/assumptions/1.md). Every agent has a
fixed number; the moves are taken in the cyclic order of those numbers, so that a move that stays possible is made. -/

namespace Sys2Proof.Machine

/-- A move under its number where it can be made. -/
def offer (n : Nat) (b : Bool) (i : Instr) : List (Nat × Instr) := if b then [(n, i)] else []

/-- The step for a command of an opcode (19 R257, 23 R320). -/
def cmdMove (p : Nat) : Nat → Instr
  | 0x02 => .config p
  | 0x03 => .tlbinv p
  | 0x04 => .pageres p
  | 0x05 => .genwr p
  | 0x06 => .geninv p
  | 0x07 => .bias p
  | 0x08 => .counters p
  | 0x09 => .rackrd p
  | 0x0A => .retired p
  | 0x0B => .scrub p
  | 0x0C => .settime p
  | 0x0D => .layertest p
  | 0x0E => .power p
  | 0x0F => .attest p
  | _ => .launch p

/-- The moves for a partition (19 R257-R263, 03 R46). -/
def State.partMoves (s : State) (p : Nat) (t : Part) : List (Nat × Instr) :=
  let cmd := t.cmd <|> if s.cmdTurn = some p then s.nextCmd p else none
  let room := match t.queue with
    | some q => s.ringRoom q
    | none => true
  (match cmd with
    | some c => offer (8 * p) t.records.isEmpty (cmdMove p c.opc)
    | none => []) ++
  offer (8 * p + 1) (t.pending.isSome && t.records.isEmpty) (.jobBind p) ++
  (match t.jobs.find? fun e => !s.jobBusy p e.1 e.2 || s.heldGone p with
    | some e => [(8 * p + 2, .jobEnd p e.1)]
    | none => []) ++
  offer (8 * p + 3) (!t.records.isEmpty && room) (.completionRecordWrite p)

/-- The moves of a raster unit (21 R307-R313). -/
def rasterMoves (n : Nat) (u : RasterUnit) : List (Nat × Instr) :=
  match u.batches with
  | [] => []
  | b :: _ =>
    match b.st with
    | .queued => [(100 + 4 * n, .rasterBatch n), (101 + 4 * n, .tileKeyOpen n)]
    | .waiting _ | .closing _ _ _ | .ring _ (some _) => []
    | _ => [(102 + 4 * n, .rasterBatchComplete n)]

/-- The moves of a slice (15 R217-R219, 21 R305). -/
def State.sliceMoves (s : State) (n : Nat) (t : Slice) : List (Nat × Instr) :=
  let k := 200 + 8 * n
  let count (l : Nat) : Nat := (t.fills.filter fun r => decide (r.level = l)).length
  offer k (t.rack.any fun e => e.2.stalls) (.stallCount n) ++
  ((List.range 4).map fun l =>
    offer (k + 1 + l) (decide (count l < 16) && t.fwaits.any fun w => decide (w.level = l) && !(s.part w.part).geninv)
      (.fillRecordWaitServed n l)).flatten ++
  offer (k + 5) (t.fills.any fun r => decide (r.st = .queued)) (.fillTaskPlace n) ++
  match t.fills.find? fun r => match r.st with
    | .placing _ => true
    | _ => false with
  | some r => [(k + 6, .fillRelease n (BitVec.ofNat 48 r.block) r.level)]
  | none => []

/-- The continuation whose commit comes next: its future is resolved, and it has yet to arrive or its queue has room (13 R202). -/
def State.contMoves (s : State) : List (Nat × Instr) :=
  let ready (c : Cont) : Bool := c.fut.isNone && c.page.isNone && match c.hdr with
    | none => true
    | some h => decide ((s.qhdr h).free ≠ 0) && decide (s.firstWaiter h = some (c.order, none))
  match (List.range s.conts.length).find? fun i => (s.conts[i]?).any ready with
  | some i => [(1900, .continuationCommit i)]
  | none => []

/-- An engine operation that is neither to be performed nor waiting is to complete. -/
def OpSt.over : OpSt → Bool
  | .queued | .waiting _ | .closing _ _ _ | .ring _ (some _) => false
  | _ => true

/-- The moves of the copy and matrix engines of a core (13 R209, R210, 17 R237-R252). -/
def Core.engineMoves (c : Core) (k core : Nat) : List (Nat × Instr) :=
  ((List.range 4).map fun q => match Store.get c.copyQ [] q with
    | [] => []
    | op :: _ => offer (k + 10 + q) (decide (op.st = .queued) && c.canBegin q op.seq) (.copyExecute core q) ++
        offer (k + 14 + q) op.st.over (.copyComplete core q)).flatten ++
  (match c.hodQ with
    | [] => []
    | h :: _ => offer (k + 18) (!h.barrier && decide (h.st = .queued)) (.hodTloadExecute core)) ++
  match c.matQ with
  | [] => []
  | m :: _ =>
    let go := decide (m.st = .queued) || m.st.over
    match m.kind with
    | .barrier => [(k + 19, .tcfgBarrier core)]
    | .mma _ _ _ _ _ _ _ => offer (k + 20) (decide (m.st = .queued)) (.mmaExecute core []) ++ offer (k + 21) m.st.over (.mmaComplete core)
    | .tdrain _ _ _ _ _ _ _ _ _ => offer (k + 22) go (.tdrainExecute core)
    | .tquant _ _ _ _ _ _ => offer (k + 23) go (.tquantExecute core)
    | .tzero _ => [(k + 24, .tzeroExecute core)]

/-- A split waits for what may be over. -/
def Split.stopped (sp : Split) : Bool :=
  match sp.st with
  | .stopWait _ | .entryWait _ | .parked .results => true
  | _ => false

/-- The moves for a warp of a crew (03 R43, 07 R93, 17 R253). -/
def Warp.moves (w : Warp) (k core slot wi : Nat) : List (Nat × Instr) :=
  (match w.pends.find? fun p => (w.resuming p.id).isSome || !p.lanes.isEmpty with
    | some p => [(k, .resultReturn core slot wi p.id p.lanes false)]
    | none => offer k (w.splits.any Split.stopped) (.resultReturn core slot wi 0 [] false)) ++
  offer (k + 1) (decide (w.unres ≠ 0)) (.maskPredictionRepair core slot wi) ++
  offer (k + 2) (decide (w.mmas = 0) && w.splits.any fun sp => decide (sp.st = .parked .mma)) (.mstatReport core slot wi)

/-- The moves for a crew of a core (03 R45, 19 R269, R270). -/
def Crew.moves (cr : Crew) (k core slot : Nat) : List (Nat × Instr) :=
  offer k ((cr.warps.all fun w => w.2.retired) && decide (cr.engines = 0)) (.crewRetire core slot) ++
  offer (k + 1) (cr.saving && !cr.inHandler) (.crewSave core slot) ++
  offer (k + 2) (cr.saving && cr.inHandler && cr.handlersDone) (.saveDeferLimit core slot) ++
  (cr.warps.map fun w => w.2.moves (k + 3 + 3 * w.1) core slot w.1).flatten

/-- The moves for a core; its quarters take their turns while it holds a crew (01 R23, 03 R50, 19 R264, R274). -/
def Core.moves (c : Core) (core : Nat) : List (Nat × Instr) :=
  let k := 2000 + 4096 * core
  ((List.range 4).map fun q => offer (k + q) (!c.crews.isEmpty) (.issueArbitration core q)).flatten ++
  offer (k + 4) (!c.candidates.isEmpty || !c.saved.isEmpty) (.crewDispatch core) ++
  offer (k + 5) (c.crews.any fun e => c.longParked e.2 && c.waitsFor e.2.cls) (.parkedEviction core) ++
  offer (k + 6) c.moving.isSome (.coreMove core) ++ c.engineMoves k core ++
  (c.crews.map fun e => e.2.moves (k + 100 + 100 * e.1) core e.1).flatten

/-- Every move that the device's own agents can make, each under its agent's number. -/
def State.moves (s : State) : List (Nat × Instr) :=
  if s.mgmt.boot = 1 then [(0, .railsStable)]
  else if s.mgmt.boot ≠ 5 then []
  else
    (s.parts.map fun e => s.partMoves e.1 e.2).flatten ++ (s.raster.map fun e => rasterMoves e.1 e.2).flatten ++
      (s.slices.map fun e => s.sliceMoves e.1 e.2).flatten ++
      (s.channels.map fun e => offer (207 + 8 * e.1) (s.channelBusy e.1) (.stallCount e.1)).flatten ++ s.contMoves ++
      (s.cores.map fun e => e.2.moves e.1).flatten

/-- The first of some moves in the order of their numbers from `n` up, and from 0 after the last. -/
def nextFrom (n : Nat) (l : List (Nat × Instr)) : Option (Nat × Instr) :=
  let lt (a b : Nat × Instr) : Bool := decide (a.1 < b.1)
  firstBy lt (l.filter fun e => decide (n ≤ e.1)) <|> firstBy lt l

/-- The move that comes next, with its number. -/
def State.nextEvent (s : State) : Option (Nat × Instr) := nextFrom s.turn s.moves

end Sys2Proof.Machine
end

