-- ==== Sys2Proof/Machine/FloatOps.lean ====
section
/-! DEFINITION. The floating-point, conversion and classification instructions and their B32 forms (09 R125-R136). -/

namespace Sys2Proof.Machine

/-! ### Shared forms (09 R126) -/

/-- An element of source `q` as an operation takes it: flushed, then `ABS`, then `NEG` (09 R126). -/
def fpIn (f : Fmt) (w : WC) (q x : Nat) : Nat × Fl :=
  let r := f.flushIn w.ftz x
  (f.signOps (w.neg.getLsbD q) (w.abs.getLsbD q) r.1, r.2)

/-- The flags of all lanes of `Mask()` set in `%fpf` (05 R66). -/
def Ctx.setFpf (c : Ctx) (f : Nat → Fl) (w : Warp) : Warp :=
  w.orFpf (c.mask.foldl (fun (a : Fl) l => a.or (f l)) {}).word

/-- A result and flags for each lane. -/
def flagBody (n : Nat) (f : Ctx → Nat → Nat × Fl) (c : Ctx) (w : Warp) : Warp :=
  c.setFpf (fun l => (f c l).2) (c.put n (fun l => (f c l).1) w)

/-- Results and flags of the elements of a packed type put together (05 R63). -/
def packFl (t : Ty) (f : Nat → Nat × Fl) : Nat × Fl :=
  (packT t fun k => (f k).1, (List.range (tyElems t)).foldl (fun (a : Fl) k => a.or (f k).2) {})

/-- A row of one source. -/
def fp1Body (w : WC) (op : Fmt → Nat → Nat × Fl) : Ctx → Warp → Warp :=
  flagBody 1 fun c l => packFl w.type fun k =>
    let a := fpIn (fmtOf w.type) w 0 (elem w.type (c.a l) k)
    let r := op (fmtOf w.type) a.1
    (r.1, a.2.or r.2)

/-- A row of two sources. -/
def fp2Body (w : WC) (op : Fmt → Nat → Nat → Nat × Fl) : Ctx → Warp → Warp :=
  flagBody 1 fun c l => packFl w.type fun k =>
    let a := fpIn (fmtOf w.type) w 0 (elem w.type (c.a l) k)
    let b := fpIn (fmtOf w.type) w 1 (elem w.type (c.b l) k)
    let r := op (fmtOf w.type) a.1 b.1
    (r.1, (a.2.or b.2).or r.2)

/-- A row of three sources. -/
def fp3Body (w : WC) (op : Fmt → Nat → Nat → Nat → Nat × Fl) : Ctx → Warp → Warp :=
  flagBody 1 fun c l => packFl w.type fun k =>
    let a := fpIn (fmtOf w.type) w 0 (elem w.type (c.a l) k)
    let b := fpIn (fmtOf w.type) w 1 (elem w.type (c.b l) k)
    let d := fpIn (fmtOf w.type) w 2 (elem w.type (c.c l) k)
    let r := op (fmtOf w.type) a.1 b.1 d.1
    (r.1, ((a.2.or b.2).or d.2).or r.2)

/-- An exact value rounded once by an instruction's fields, with the flags of both. -/
def roundW (f : Fmt) (w : WC) (sat : Bool) (v : FVal × Fl) : Nat × Fl :=
  let r := f.round w.rnd w.ftz sat v.1
  (r.1, v.2.or r.2)

/-! ### Operations on elements -/

def faddOp (w : WC) (f : Fmt) (a b : Nat) : Nat × Fl := roundW f w false (sumVals w.rnd [f.decode a, f.decode b])
def fsubOp (w : WC) (f : Fmt) (a b : Nat) : Nat × Fl := roundW f w false (sumVals w.rnd [f.decode a, (f.decode b).negate])
def fmulOp (w : WC) (f : Fmt) (a b : Nat) : Nat × Fl := roundW f w false (mulVals (f.decode a) (f.decode b))
def ffmaOp (w : WC) (f : Fmt) (a b c : Nat) : Nat × Fl :=
  roundW f w false (fmaVals w.rnd (f.decode a) (f.decode b) (f.decode c))
def fminOp (f : Fmt) (a b : Nat) : Nat × Fl := (f.minMax false a b, {})
def fmaxOp (f : Fmt) (a b : Nat) : Nat × Fl := (f.minMax true a b, {})

/-- A function of R69 in the instruction's rounding. -/
def funcOp (w : WC) (g : FVal → FVal × Fl) (f : Fmt) (a : Nat) : Nat × Fl := roundW f w false (g (f.decode a))

/-- `frnd`: the integral value is exact and sets no flag (09 R129). -/
def frndOp (w : WC) (f : Fmt) (a : Nat) : Nat × Fl :=
  ((f.round w.rnd false false ((f.decode a).integral w.rnd)).1, {})

/-! ### Meanings -/

/-- `fadd` (09 R125). -/
def execFadd (x : Head) (w : WC) (s : State) : Host.Outcome State Fault Refusal := issueReg (.fadd x w) s (fp2Body w (faddOp w))

/-- `fsub` (09 R125). -/
def execFsub (x : Head) (w : WC) (s : State) : Host.Outcome State Fault Refusal := issueReg (.fsub x w) s (fp2Body w (fsubOp w))

/-- `fmul` (09 R125). -/
def execFmul (x : Head) (w : WC) (s : State) : Host.Outcome State Fault Refusal := issueReg (.fmul x w) s (fp2Body w (fmulOp w))

/-- `ffma` (09 R125). -/
def execFfma (x : Head) (w : WC) (s : State) : Host.Outcome State Fault Refusal := issueReg (.ffma x w) s (fp3Body w (ffmaOp w))

/-- `fmin` (09 R127). -/
def execFmin (x : Head) (w : WC) (s : State) : Host.Outcome State Fault Refusal := issueReg (.fmin x w) s (fp2Body w fminOp)

/-- `fmax` (09 R127). -/
def execFmax (x : Head) (w : WC) (s : State) : Host.Outcome State Fault Refusal := issueReg (.fmax x w) s (fp2Body w fmaxOp)

/-- `fcmp`: its condition on each element, and the flags of flushed inputs (09 R128, R113). -/
def fcmpBody (any : Bool) (w : WC) (c : Ctx) (wp : Warp) : Warp :=
  let f := fmtOf w.type
  let a (l k : Nat) := fpIn f w 0 (elem w.type (c.a l) k)
  let b (l k : Nat) := fpIn f w 1 (elem w.type (c.b l) k)
  let hit (l k : Nat) : Bool := floatCond w.cond.toNat (f.decode (a l k).1) (f.decode (b l k).1)
  let fl (l : Nat) : Fl := (List.range (tyElems w.type)).foldl (fun (r : Fl) k => (r.or (a l k).2).or (b l k).2) {}
  let wp := c.setFpf fl wp
  match c.x.d with
  | .none _ =>
    let r (l : Nat) : Bool :=
      if any then (List.range (tyElems w.type)).any (hit l) else (List.range (tyElems w.type)).all (hit l)
    c.putPred w.pd.toNat (fun l => !r l) (c.putPred c.dPred r wp)
  | _ => c.put (tyRegs w.type) (fun l => packT w.type fun k => if hit l k then 2 ^ tyWidth w.type - 1 else 0) wp

/-- `fcmp` (09 R128). -/
def execFcmp (x : Head) (w : WC) (s : State) : Host.Outcome State Fault Refusal :=
  issueReg (.fcmp x w) s (fcmpBody (bit x.sub.toNat 0) w)

/-- `frnd` (09 R129). -/
def execFrnd (x : Head) (w : WC) (s : State) : Host.Outcome State Fault Refusal := issueReg (.frnd x w) s (fp1Body w (frndOp w))

/-- `rcp` (09 R130). -/
def execRcp (x : Head) (w : WC) (s : State) : Host.Outcome State Fault Refusal :=
  issueReg (.rcp x w) s (fp1Body w (funcOp w rcpVal))

/-- `rsqrt` (09 R130). -/
def execRsqrt (x : Head) (w : WC) (s : State) : Host.Outcome State Fault Refusal :=
  issueReg (.rsqrt x w) s (fp1Body w (funcOp w rsqrtVal))

/-- `sqrt` (09 R130). -/
def execSqrt (x : Head) (w : WC) (s : State) : Host.Outcome State Fault Refusal :=
  issueReg (.sqrt x w) s (fp1Body w (funcOp w sqrtVal))

/-- `exp2` (09 R130). -/
def execExp2 (x : Head) (w : WC) (s : State) : Host.Outcome State Fault Refusal :=
  issueReg (.exp2 x w) s (fp1Body w (funcOp w exp2Val))

/-- `log2` (09 R130). -/
def execLog2 (x : Head) (w : WC) (s : State) : Host.Outcome State Fault Refusal :=
  issueReg (.log2 x w) s (fp1Body w (funcOp w log2Val))

/-- `sinpi` (09 R130). -/
def execSinpi (x : Head) (w : WC) (s : State) : Host.Outcome State Fault Refusal :=
  issueReg (.sinpi x w) s (fp1Body w (funcOp w sinpiVal))

/-- `cospi` (09 R130). -/
def execCospi (x : Head) (w : WC) (s : State) : Host.Outcome State Fault Refusal :=
  issueReg (.cospi x w) s (fp1Body w (funcOp w cospiVal))

/-- `fdot2`: one exact value of both elements and the FP32 addend, rounded to FP32 (09 R131). -/
def fdot2Val (w : WC) (c : Ctx) (l : Nat) : Nat × Fl :=
  let f := fmtOf w.type
  let a (k : Nat) := fpIn f w 0 (elem w.type (c.a l) k)
  let b (k : Nat) := fpIn f w 1 (elem w.type (c.b l) k)
  let d := fpIn fmtF32 w 2 (c.c l)
  let v := dot2Vals w.rnd (f.decode (a 0).1) (f.decode (b 0).1) (f.decode (a 1).1) (f.decode (b 1).1) (fmtF32.decode d.1)
  let r := roundW fmtF32 w false v
  (r.1, (((((a 0).2.or (a 1).2).or (b 0).2).or (b 1).2).or d.2).or r.2)

/-- `fdot2` (09 R131). -/
def execFdot2 (x : Head) (w : WC) (s : State) : Host.Outcome State Fault Refusal :=
  issueReg (.fdot2 x w) s (flagBody 1 (fdot2Val w))

/-- `fscale`: a × 2^n, rounded once (09 R125, R129). -/
def fscaleVal (w : WC) (c : Ctx) (l : Nat) : Nat × Fl :=
  packFl w.type fun k =>
    let f := fmtOf w.type
    let a := fpIn f w 0 (elem w.type (c.a l) k)
    let r := roundW f w false ((f.decode a.1).scaleBy (signExt (c.b l) 32), {})
    (r.1, a.2.or r.2)

/-- `fscale` (09 R129). -/
def execFscale (x : Head) (w : WC) (s : State) : Host.Outcome State Fault Refusal :=
  issueReg (.fscale x w) s (flagBody 1 (fscaleVal w))

/-! ### Conversions (09 R132-R136) -/

/-- `cvt` of element `n` of a source type (09 R132, 05 R67, R68). -/
def cvtVal (st : Ty) (n : Nat) (w : WC) (c : Ctx) (l : Nat) : Nat × Fl :=
  let x := elem st (c.a l) n
  let dt := w.type
  if tyFloat st then
    let a := fpIn (fmtOf st) w 0 x
    let v := (fmtOf st).decode a.1
    let r := if tyFloat dt then (fmtOf dt).round w.rnd w.ftz w.sat v else toIntBits (tySigned dt) (tyWidth dt) w.rnd v
    (r.1, a.2.or r.2)
  else if tyFloat dt then (fmtOf dt).round w.rnd w.ftz w.sat (intVal (elemVal st (c.a l) 0))
  else (reduceInt dt w.sat (elemVal st (c.a l) 0), {})

/-- `cvt` (09 R132). -/
def execCvt (x : Head) (w : WC) (s : State) : Host.Outcome State Fault Refusal :=
  issueReg (.cvt x w) s
    (flagBody (tyRegs w.type) (cvtVal ((tyOf (x.sub.toNat % 16)).getD .s32) (x.sub.toNat / 16 % 4) w))

/-- The blocks of `cvtq`, one for each pass; a lane outside `Mask()` supplies +0 (09 R134). -/
def cvtqBlocks (code : Nat) (c : Ctx) : List QBlock :=
  (List.range (c.width / 32)).map fun p =>
    quantise code ((List.range 32).map fun j =>
      if c.mask.any fun l => decide (l = 32 * p + j) then fmtF32.decode (c.a (32 * p + j)) else .fin false 0 0)

/-- The status bits [31:24] of `cvtq`: the lowest block with a NaN or infinity (09 R134). -/
def cvtqStatus : Nat → List QBlock → Nat
  | _, [] => 0
  | p, b :: r => match b.first with
    | some n => 2 ^ 31 + p * 2 ^ 29 + n * 2 ^ 24
    | none => cvtqStatus (p + 1) r

/-- `cvtq` (09 R134). -/
def cvtqBody (code : Nat) (c : Ctx) (w : Warp) : Warp :=
  let bs := cvtqBlocks code c
  let st := cvtqStatus 0 bs
  let word (l : Nat) : Nat :=
    match bs[l / 32]? with
    | some b => b.elems.getD (l % 32) 0 + 2 ^ 8 * b.scale + st
    | none => 0
  let fl : Fl := { iv := bs.any fun b => b.first.isSome, nx := bs.any fun b => b.nx }
  c.setFpf (fun _ => fl) (c.put 1 word w)

/-- `cvtq` (09 R134). -/
def execCvtq (x : Head) (w : WC) (s : State) : Host.Outcome State Fault Refusal :=
  issueReg (.cvtq x w) s (cvtqBody x.sub.toNat)

/-- `cvtd`: the scaled value of an element rounded once (09 R135). A DS8 value of magnitude 2^128 is rounded by `RND` too, as R62 has it, where
R60 gives an infinity and names no mode (DEDUCED, notes/assumptions/42.md). -/
def cvtdVal (code : Nat) (w : WC) (c : Ctx) (l : Nat) : Nat × Fl :=
  let e := c.a l % 2 ^ elemBits code
  let scale := if hasScale code then c.b l % 256 else 127
  roundW (fmtOf w.type) w false (scaledElem code e scale, { iv := hasScale code && decide (scale = 0xFF) })

/-- `cvtd` (09 R135). -/
def execCvtd (x : Head) (w : WC) (s : State) : Host.Outcome State Fault Refusal :=
  issueReg (.cvtd x w) s (flagBody 1 (cvtdVal x.sub.toNat w))

/-- One converted value of `pack` (09 R133). -/
def packElem (w : WC) (x : Nat) : Nat × Fl :=
  let t := w.type
  if tyFloat t then
    let a := fmtF32.flushIn w.ftz x
    let r := (fmtOf t).round w.rnd w.ftz w.sat (fmtF32.decode a.1)
    (r.1, a.2.or r.2)
  else (reduceInt t w.sat (if tySigned t then signExt x 32 else (x : Int)), {})

/-- `pack`: two elements at `2h` and `2h + 1`, the others of four from C (09 R133). -/
def packVal (h : Nat) (w : WC) (c : Ctx) (l : Nat) : Nat × Fl :=
  let t := w.type
  let a := packElem w (c.a l)
  let b := packElem w (c.b l)
  (packT t fun k =>
    if tyElems t = 2 then (if k = 0 then a.1 else b.1)
    else if k = 2 * h then a.1 else if k = 2 * h + 1 then b.1 else elem t (c.c l) k, a.2.or b.2)

/-- `pack` (09 R133). -/
def execPack (x : Head) (w : WC) (s : State) : Host.Outcome State Fault Refusal :=
  issueReg (.pack x w) s (flagBody 1 (packVal (x.sub.toNat % 2) w))

/-- `unpack`: element `n` widened to `s32`, `n32` or FP32 (09 R133). -/
def unpackVal (n : Nat) (w : WC) (c : Ctx) (l : Nat) : Nat × Fl :=
  let t := w.type
  if tyFloat t then
    let a := (fmtOf t).flushIn w.ftz (elem t (c.a l) n)
    ((fmtF32.round .ne false false ((fmtOf t).decode a.1)).1, a.2)
  else (toBits 32 (elemVal t (c.a l) n), {})

/-- `unpack` (09 R133). -/
def execUnpack (x : Head) (w : WC) (s : State) : Host.Outcome State Fault Refusal :=
  issueReg (.unpack x w) s (flagBody 1 (unpackVal (x.sub.toNat % 4) w))

/-- `fclass` (09 R136). -/
def execFclass (x : Head) (w : WC) (s : State) : Host.Outcome State Fault Refusal :=
  issueReg (.fclass x w) s fun c wp =>
    c.put 1 (fun l => 2 ^ (fmtOf w.type).classOf (elem w.type (c.a l) (x.sub.toNat % 2))) wp

/-! ### B32 forms (07 R77): RNE, no flush -/

/-- `fadd.f32`. -/
def execB32FaddF32 (w : B32) (s : State) : Host.Outcome State Fault Refusal :=
  issueReg (.b32FaddF32 w) s (fp2Body (b32WC w .f32 .none) (faddOp (b32WC w .f32 .none)))

/-- `fsub.f32`. -/
def execB32FsubF32 (w : B32) (s : State) : Host.Outcome State Fault Refusal :=
  issueReg (.b32FsubF32 w) s (fp2Body (b32WC w .f32 .none) (fsubOp (b32WC w .f32 .none)))

/-- `fmul.f32`. -/
def execB32FmulF32 (w : B32) (s : State) : Host.Outcome State Fault Refusal :=
  issueReg (.b32FmulF32 w) s (fp2Body (b32WC w .f32 .none) (fmulOp (b32WC w .f32 .none)))

/-- `fmin.f32`. -/
def execB32FminF32 (w : B32) (s : State) : Host.Outcome State Fault Refusal :=
  issueReg (.b32FminF32 w) s (fp2Body (b32WC w .f32 .none) fminOp)

/-- `fmax.f32`. -/
def execB32FmaxF32 (w : B32) (s : State) : Host.Outcome State Fault Refusal :=
  issueReg (.b32FmaxF32 w) s (fp2Body (b32WC w .f32 .none) fmaxOp)

/-- `fadd.f16x2`. -/
def execB32FaddF16x2 (w : B32) (s : State) : Host.Outcome State Fault Refusal :=
  issueReg (.b32FaddF16x2 w) s (fp2Body (b32WC w .f16x2 .none) (faddOp (b32WC w .f16x2 .none)))

/-- `fmul.f16x2`. -/
def execB32FmulF16x2 (w : B32) (s : State) : Host.Outcome State Fault Refusal :=
  issueReg (.b32FmulF16x2 w) s (fp2Body (b32WC w .f16x2 .none) (fmulOp (b32WC w .f16x2 .none)))

/-- `fadd.bf16x2`. -/
def execB32FaddBf16x2 (w : B32) (s : State) : Host.Outcome State Fault Refusal :=
  issueReg (.b32FaddBf16x2 w) s (fp2Body (b32WC w .bf16x2 .none) (faddOp (b32WC w .bf16x2 .none)))

/-- `fmul.bf16x2`. -/
def execB32FmulBf16x2 (w : B32) (s : State) : Host.Outcome State Fault Refusal :=
  issueReg (.b32FmulBf16x2 w) s (fp2Body (b32WC w .bf16x2 .none) (fmulOp (b32WC w .bf16x2 .none)))

end Sys2Proof.Machine
end

