-- ==== Sys2Proof/Machine/WarpOps.lean ====
section
/-! DEFINITION. Predicates, warp-wide instructions, index and block registers, and the B32 forms of `xlane` and `bcast`
(09 R116-R124). -/

namespace Sys2Proof.Machine

/-! ### Predicates (09 R116, R117) -/

/-- `pset` (09 R116): a function of two predicates, a bit, all predicates saved, or loaded. -/
def psetBody (sub imm : Nat) (c : Ctx) (w : Warp) : Warp :=
  match sub % 4 with
  | 0 =>
    c.putPred c.dPred (fun l =>
      bit (sub / 4) (2 * (c.w.pred (imm % 8) l).toNat + (c.w.pred (imm / 8 % 8) l).toNat)) w
  | 1 => c.putPred c.dPred (fun l => bit (c.a l) (imm % 32)) w
  | 2 => c.put 1 (fun l => (List.range 8).foldl (fun r k => r + (c.w.pred k l).toNat * 2 ^ k) 0) w
  | _ => (List.range 7).foldl (fun w k => c.putPred k (fun l => bit (c.a l) k) w) w

/-- `pset` (09 R116). -/
def execPset (x : Head) (w : WC) (s : State) : Host.Outcome State Fault Refusal :=
  issueReg (.pset x w) s (psetBody x.sub.toNat w.imm.toNat)

/-- The lanes of `Mask()` in which a predicate holds. -/
def Ctx.holding (c : Ctx) (p : Nat) : List Nat := c.mask.filter fun l => c.w.pred p l

/-- `vote`: every, some or same over `Mask()` (09 R117). -/
def voteOf (sub p : Nat) (c : Ctx) : Bool :=
  let n := (c.holding p).length
  match sub with
  | 0 => decide (n = c.mask.length)
  | 1 => decide (n ≠ 0)
  | _ => decide (n = 0 ∨ n = c.mask.length)

/-- `vote` (09 R117). -/
def voteBody (sub p : Nat) (c : Ctx) (w : Warp) : Warp :=
  match c.x.d with
  | .none _ => c.putPred c.dPred (fun _ => voteOf sub p c) w
  | _ => c.put 1 (fun _ => (voteOf sub p c).toNat) w

/-- `vote` (09 R117). -/
def execVote (x : Head) (w : WC) (s : State) : Host.Outcome State Fault Refusal :=
  issueReg (.vote x w) s (voteBody x.sub.toNat (w.imm.toNat % 8))

/-- A bit for each lane of a list. -/
def lanesWord (ls : List Nat) : Nat := ls.foldl (fun r l => r + 2 ^ l) 0

/-- `ballot` (09 R117). -/
def execBallot (x : Head) (w : WC) (s : State) : Host.Outcome State Fault Refusal :=
  issueReg (.ballot x w) s fun c wp => c.put (laneBitRegs c.width) (fun _ => lanesWord (c.holding (w.imm.toNat % 8))) wp

/-- `mcnt`: all, or those below each lane (09 R117). -/
def mcntBody (below : Bool) (p : Nat) (c : Ctx) (w : Warp) : Warp :=
  c.put 1 (fun l => ((c.holding p).filter fun j => !below || decide (j < l)).length) w

/-- `mcnt` (09 R117). -/
def execMcnt (x : Head) (w : WC) (s : State) : Host.Outcome State Fault Refusal :=
  issueReg (.mcnt x w) s (mcntBody (decide (x.sub = 1)) (w.imm.toNat % 8))

/-! ### Cross-lane reads (09 R118, R119) -/

/-- A lane register, or one of the `n` from it, is sealed in a lane outside `Mask()`: the read waits, but for one that was returned while it
waited (09 R118). -/
def Ctx.waitsFor (c : Ctx) (r n j : Nat) : Bool :=
  !(c.mask.any fun l => decide (l = j)) &&
    (List.range n).any fun k => c.w.sealed .v (r + k) j && (Store.look c.sp.crossed (laneKey (r + k) j)).isNone

/-- The value of a lane register of another lane: as it was returned, where the read waited for it, else as it is (09 R118). -/
def Ctx.crossReg (c : Ctx) (r j : Nat) : Word := (Store.look c.sp.crossed (laneKey r j)).getD (c.w.vreg r j)

/-- The value of `n` lane registers of a lane as a cross-lane read gives it (09 R118). -/
def Ctx.crossVal (c : Ctx) : Nat → Nat → Nat → Nat
  | _, 0, _ => 0
  | r, n + 1, j =>
    (if c.mask.any fun l => decide (l = j) then c.w.vreg r j else c.crossReg r j).toNat + 2 ^ 32 * Ctx.crossVal c (r + 1) n j

/-- The number of the lane register that source A names. -/
def Ctx.aReg (c : Ctx) : Nat :=
  match c.x.a with
  | .v n => n.toNat
  | _ => 0

/-- The lane that `xlane` reads (09 R119). -/
def xlaneTarget (sub width i b : Nat) : Nat :=
  match sub with
  | 0 => b % width
  | 1 => (i ^^^ b) % width
  | 2 => if i < b then i else i - b
  | 3 => if width ≤ i + b then i else i + b
  | _ => (i + b) % width

/-- `xlane` and `bcast`: A of a lane for each lane, and whether that lane is in `Mask()` (09 R119). -/
def xlaneBody (n pd : Nat) (target : Ctx → Nat → Nat) (c : Ctx) (s : State) : Res :=
  if c.mask.any fun l => c.waitsFor c.aReg n (target c l) then .park s .seal []
  else
    regBody (fun c w =>
      c.putPred pd (fun l => c.mask.any fun j => decide (j = target c l))
        (c.put n (fun l => c.crossVal c.aReg n (target c l)) w)) c s

/-- The lane that `bcast` reads: B, in the lowest lane of `Mask()` when it is a lane register (09 R119). -/
def bcastTarget (c : Ctx) (_ : Nat) : Nat := c.b c.lowMask % c.width

/-- `xlane` (09 R119). -/
def execXlane (x : Head) (w : WC) (s : State) : Host.Outcome State Fault Refusal :=
  issue (.xlane x w) s noBad
    (xlaneBody (tyRegs w.type) w.pd.toNat fun c l => xlaneTarget x.sub.toNat c.width l (c.b l))

/-- `bcast` (09 R119). -/
def execBcast (x : Head) (w : WC) (s : State) : Host.Outcome State Fault Refusal :=
  issue (.bcast x w) s noBad (xlaneBody (tyRegs w.type) w.pd.toNat bcastTarget)

/-- `xlane.from` (07 R77). -/
def execB32XlaneFrom (w : B32) (s : State) : Host.Outcome State Fault Refusal :=
  issue (.b32XlaneFrom w) s noBad (xlaneBody 1 7 fun c l => xlaneTarget 0 c.width l (c.b l))

/-- `xlane.swap` (07 R77). -/
def execB32XlaneSwap (w : B32) (s : State) : Host.Outcome State Fault Refusal :=
  issue (.b32XlaneSwap w) s noBad (xlaneBody 1 7 fun c l => xlaneTarget 1 c.width l (c.b l))

/-- `bcast` (07 R77). -/
def execB32Bcast (w : B32) (s : State) : Host.Outcome State Fault Refusal :=
  issue (.b32Bcast w) s noBad (xlaneBody 1 7 bcastTarget)

/-! ### Reductions and scans (09 R120) -/

/-- Running results from a first value on. -/
def scanFrom {α : Type} (f : α → α → α) : α → List α → List α
  | a, [] => [a]
  | a, b :: r => a :: scanFrom f (f a b) r

/-- Running results of a list. -/
def scanList {α : Type} (f : α → α → α) : List α → List α
  | [] => []
  | a :: r => scanFrom f a r

/-- An integer operation of `wred` on exact values (09 R120). -/
def redInt (op : Nat) (a b : Int) : Int :=
  match op with
  | 0 => a + b
  | 1 => if b < a then b else a
  | 2 => if a < b then b else a
  | 3 => (a.toNat &&& b.toNat : Nat)
  | 4 => (a.toNat ||| b.toNat : Nat)
  | _ => (a.toNat ^^^ b.toNat : Nat)

/-- The first value of a float reduction: flushed, a NaN made canonical (09 R120). -/
def redFirst (ftz : Bool) (x : Nat) : Nat × Fl :=
  let a := fmtF32.flushIn ftz x
  (if fmtF32.decode a.1 = .nan then fmtF32.nanBits else a.1, a.2)

/-- One more value of a float reduction. -/
def redFloat (op : Nat) (w : WC) (a b : Nat × Fl) : Nat × Fl :=
  let r : Nat × Fl := match op with
    | 0 => faddOp w fmtF32 a.1 b.1
    | 1 => fminOp fmtF32 a.1 b.1
    | _ => fmaxOp fmtF32 a.1 b.1
  (r.1, (a.2.or b.2).or r.2)

/-- The running results over `Mask()` with their flags (09 R120). -/
def redRun (op : Nat) (w : WC) (c : Ctx) : List (Nat × Fl) :=
  if tyFloat w.type then
    match c.mask with
    | [] => []
    | l :: r => scanFrom (redFloat op w) (redFirst w.ftz (c.a l)) (r.map fun l => fmtF32.flushIn w.ftz (c.a l))
  else (scanList (redInt op) (c.mask.map fun l => elemVal w.type (c.a l) 0)).map fun x =>
    (if op = 0 then reduceInt w.type w.sat x else toBits (tyWidth w.type) x, {})

/-- The identity of an operation, for `.excl` (09 R120). -/
def redIdentity (op : Nat) (t : Ty) : Nat :=
  match op with
  | 1 => if tyFloat t then fmtF32.infBits else toBits (tyWidth t) (intMax (tySigned t) (tyWidth t))
  | 2 => if tyFloat t then fmtF32.signBit + fmtF32.infBits else toBits (tyWidth t) (intMin (tySigned t) (tyWidth t))
  | 3 => 2 ^ tyWidth t - 1
  | _ => 0

/-- The flags of a whole reduction. -/
def redFlags (rs : List (Nat × Fl)) : Fl := (rs.map fun r => r.2).foldl Fl.or {}

/-- The result of a lane by its place in `Mask()`. -/
def Ctx.placed (c : Ctx) (rs : List Nat) (l : Nat) : Nat :=
  match (c.mask.zip rs).find? fun e => decide (e.1 = l) with
  | some e => e.2
  | none => 0

/-- `wred` (09 R120). -/
def wredBody (op : Nat) (w : WC) (c : Ctx) (wp : Warp) : Warp :=
  let rs := redRun op w c
  c.setFpf (fun _ => redFlags rs) (c.put (tyRegs w.type) (fun _ => ((rs.map fun r => r.1).getLast?).getD 0) wp)

/-- `wscan` (09 R120). With `.excl` the flags of the last lane's addition are set too, though no lane receives it (DEDUCED, notes/assumptions/45.md). -/
def wscanBody (op : Nat) (excl : Bool) (w : WC) (c : Ctx) (wp : Warp) : Warp :=
  let rs := redRun op w c
  let vs := rs.map fun r => r.1
  let vs := if excl then redIdentity op w.type :: vs else vs
  c.setFpf (fun _ => redFlags rs) (c.put (tyRegs w.type) (c.placed vs) wp)

/-- `wred` (09 R120). -/
def execWred (x : Head) (w : WC) (s : State) : Host.Outcome State Fault Refusal :=
  issueReg (.wred x w) s (wredBody x.sub.toNat w)

/-- `wscan` (09 R120). -/
def execWscan (x : Head) (w : WC) (s : State) : Host.Outcome State Fault Refusal :=
  issueReg (.wscan x w) s (wscanBody (x.sub.toNat % 8) (bit x.sub.toNat 3) w)

/-! ### Index registers (09 R121, R122) -/

/-- The register that an index reaches from a base in a lane, and its fault 0x03 at or past the limit and for a number that is not legal
(09 R121); a sealed one is a hazard (07 R94). -/
def Ctx.indexed (c : Ctx) (k base lane : Nat) : Nat × Option LaneFault :=
  let r := c.indexReg k base lane
  (r.1, if r.2 then none else some { lane, code := 0x03, detail := r.1 % 256 })

/-- The faults of the indexed registers of all lanes of `Mask()`. -/
def Ctx.indexFaults (c : Ctx) (k base : Nat) : List LaneFault := c.mask.filterMap fun l => (c.indexed k base l).2

/-- `vget` (09 R121). -/
def vgetBody (k : Nat) (c : Ctx) (s : State) : Res :=
  let fs := c.indexFaults k c.aReg
  if fs.isEmpty then
    regBody (fun c w => c.put 1 (fun l => (c.w.vreg (c.indexed k c.aReg l).1 l).toNat) w) c s
  else .fault s fs

/-- `vget` (09 R121). -/
def execVget (x : Head) (w : WC) (s : State) : Host.Outcome State Fault Refusal :=
  issue (.vget x w) s noBad (vgetBody (x.sub.toNat % 4))

/-- `vput`: each lane's register is sealed for that lane (09 R121). -/
def vputBody (k : Nat) (c : Ctx) (s : State) : Res :=
  let base := match c.x.d with
    | .v d => d.toNat
    | _ => 0
  let fs := c.indexFaults k base
  if fs.isEmpty then
    let w := c.mask.foldl (fun w l => w.setV (c.indexed k base l).1 l (BitVec.ofNat 32 (c.a l))) (c.warpIn s)
    .done (c.setWarp s w) .next [] (c.mask.map fun l => (RegKind.v, (c.indexed k base l).1, l))
  else .fault s fs

/-- `vput` (09 R121). -/
def execVput (x : Head) (w : WC) (s : State) : Host.Outcome State Fault Refusal :=
  issue (.vput x w) s noBad (vputBody (x.sub.toNat % 4))

/-- `xset` (09 R122). -/
def xsetBody (k : Nat) (add : Bool) (c : Ctx) (w : Warp) : Warp :=
  c.mask.foldl (fun w l =>
    let x := (c.w.xreg k l).toNat
    let v := if add then x / 256 * 256 + (x + c.a l) % 256 else c.b l % 256 * 256 + c.a l % 256
    w.setX k l (BitVec.ofNat 16 v)) w

/-- `xset` (09 R122). -/
def execXset (x : Head) (w : WC) (s : State) : Host.Outcome State Fault Refusal :=
  issueReg (.xset x w) s (xsetBody (x.sub.toNat % 4) (bit x.sub.toNat 2))

/-! ### Block registers and `smov` (09 R123, R124) -/

/-- The crew replaced in its slot. -/
def Ctx.updCrew (c : Ctx) (s : State) (f : Crew → Crew) : State :=
  match s.crew c.core c.slot with
  | some cr => s.setCrew c.core c.slot (f cr)
  | none => s

/-- The block register that the destination names. -/
def Ctx.bDst (c : Ctx) : Nat :=
  match c.x.d with
  | .b n => n.toNat
  | _ => 0

/-- A block register written; its earlier value is still read in this clock from other quarters (09 R123). -/
def Crew.setB (cr : Crew) (clk q n : Nat) (x : Word) : Crew :=
  let r := cr.breg n
  { cr with b := Store.put cr.b n { r with val := x, old := r.val, clk, q } }

/-- `bmov` (09 R123). -/
def bmovBody (n : Nat) (c : Ctx) (s : State) : Res :=
  if c.mask.isEmpty then .done s .next [] []
  else
    let d := c.bDst
    if (List.range n).any fun k => decide ((c.cr.breg (d + k)).owner ≠ c.wi) then
      .fault s [{ lane := c.lowMask, code := 0x05 }]
    else
      let x := c.a c.lowMask
      .done (c.updCrew s fun cr =>
        (List.range n).foldl (fun cr k => cr.setB c.clk c.w.quarter (d + k) (BitVec.ofNat 32 (x / 2 ^ (32 * k)))) cr)
        .next [] []

/-- `bmov` (09 R123). -/
def execBmov (x : Head) (w : WC) (s : State) : Host.Outcome State Fault Refusal :=
  issue (.bmov x w) s noBad (bmovBody (tyRegs w.type))

/-- `bpass` (09 R123). -/
def bpassBody (n : Nat) (c : Ctx) (s : State) : Res :=
  if c.mask.isEmpty then .done s .next [] []
  else
    let a := match c.x.a with
      | .b k => k.toNat
      | _ => 0
    let heir := c.b c.lowMask
    let rs := (List.range n).map fun k => a + k
    if rs.any (fun r => decide ((c.cr.breg r).owner ≠ c.wi)) || decide (c.cr.shape.warps ≤ heir) ||
        (c.cr.warp heir).retired then
      .fault s [{ lane := c.lowMask, code := 0x05 }]
    else
      .done (c.updCrew s fun cr =>
        { cr with b := rs.foldl (fun b r => Store.put b r { (Store.get b {} r : BReg) with owner := heir }) cr.b }) .next [] []

/-- `bpass` (09 R123). -/
def execBpass (x : Head) (w : WC) (s : State) : Host.Outcome State Fault Refusal :=
  issue (.bpass x w) s noBad (bpassBody (x.sub.toNat + 1))

/-- The lane that `smov` reads: the lowest lane of `Mask()`, or lane B mod W (09 R124). -/
def Ctx.smovLane (c : Ctx) (lane : Bool) : Nat := if lane then c.b c.lowMask % c.width else c.lowMask

/-- A lane register that `smov` reads is sealed in its lane, outside `Mask()` (09 R118). -/
def Ctx.smovWaits (c : Ctx) (n : Nat) (lane : Bool) : Bool :=
  match c.x.a with
  | .v k => c.waitsFor k.toNat n (c.smovLane lane)
  | _ => false

/-- The value that `smov` moves: A of its lane (09 R124). -/
def Ctx.smovVal (c : Ctx) (n : Nat) (lane : Bool) : Nat :=
  match c.x.a with
  | .v k => c.crossVal k.toNat n (c.smovLane lane)
  | _ => c.a (c.smovLane lane)

/-- `smov` (09 R124). -/
def smovBody (n : Nat) (lane : Bool) (c : Ctx) (s : State) : Res :=
  if c.mask.isEmpty then .done s .next [] []
  else if c.smovWaits n lane then .park s .seal []
  else regBody (fun c w => c.put n (fun _ => c.smovVal n lane) w) c s

/-- `smov` (09 R124). -/
def execSmov (x : Head) (w : WC) (s : State) : Host.Outcome State Fault Refusal :=
  issue (.smov x w) s noBad (smovBody (tyRegs w.type) (decide (x.sub = 1)))

end Sys2Proof.Machine
end

