-- ==== Sys2Proof/Machine/Arbiter.lean ====
section
/-! DEFINITION. What holds an instruction back before it issues, and the arbitration of a quarter (19 R273-R275). -/

namespace Sys2Proof.Machine

/-! ### What holds an instruction back (19 R273) -/

/-- A cross-lane read of a register that is sealed in a lane outside `Mask()` (09 R118). -/
def Ctx.crossSealed (c : Ctx) (i : Instr) : Bool :=
  match expand i with
  | .xlane x w => c.mask.any fun l => c.waitsFor c.aReg (tyRegs w.type) (xlaneTarget x.sub.toNat c.width l (c.b l))
  | .bcast _ w => !c.mask.isEmpty && c.waitsFor c.aReg (tyRegs w.type) (bcastTarget c 0)
  | .smov x w => decide (x.sub = 1) && !c.mask.isEmpty && c.smovWaits (tyRegs w.type) true
  | _ => false

/-- How many operations the queues hold that an instruction enters, each with the number of the queue: 0 to 3 copy, 4 matrix, 5 hod, 6 the
raster unit (13 R207, 17 R246, 21 R307). -/
def State.queuesOf (s : State) (core : Nat) (i : Instr) : List (Nat × Nat) :=
  let k := s.core core
  match i with
  | .cpy _ w => [(bits w.toNat 4 3, (Store.get k.copyQ [] (bits w.toNat 4 3)).length)]
  | .tcfg _ _ => [(4, k.matQ.length), (5, k.hodQ.length)]
  | .tload _ _ => [(5, k.hodQ.length)]
  | .mma _ _ | .tdrain _ _ | .tzero _ _ | .tquant _ _ => [(4, k.matQ.length)]
  | .rast _ _ => [(6, ((Store.get s.raster {} (core % 8)).batches).length)]
  | _ => []

/-- What an instruction waits for before it issues: a register of another lane, or room in a queue. One that faults at its issue, or has no
lane to act for, waits for nothing. -/
def Ctx.heldBy (c : Ctx) (s : State) (i : Instr) : Option Wait :=
  if !encOk i || !dstOk c.form.d c.x.d || !c.preFaults.isEmpty || c.mask.isEmpty then none
  else if c.crossSealed i then some .seal
  else ((s.queuesOf c.core i).find? fun q => decide (16 ≤ q.2)).map fun q => .engine q.1

/-- What keeps the next instruction of a split from issuing, and the state after the attempt to fetch it: its fetch waits, or it is held
back. -/
def State.holdBack (s : State) (core slot wi : Nat) (cr : Crew) (sp : Split) : Option (Wait × State) :=
  match s.fetchBytes (cr.agent core) sp.served (sp.lanes.headD 0) sp.pc.toNat with
  | .park w t => some (w, t)
  | .fault _ _ _ => none
  | .bytes l _ =>
    match decode l with
    | .ok (i, _) =>
      ((({ s with picked := some { core, slot, warp := wi, lane := sp.lanes.headD 0 } } : State).ctx? i).bind fun c => c.heldBy s i).map
        fun w => (w, s)
    | .error _ => none

/-- A split that the front end holds back. -/
def State.frontPark (s : State) (core slot wi : Nat) (sp : Split) (wait : Wait) : State :=
  match s.crew core slot with
  | none => s
  | some cr =>
    s.setWarp core slot wi (((cr.warp wi).uncur sp.lanes []).replaceSplit (sp.lanes.headD 0) [{ sp with st := .parked wait }])

/-- The split that a warp can issue from, and the state with the splits held back that come before it in the warp's selection (03 R41, 19
R273). Fuel: the splits of a warp. -/
def State.frontEnd : Nat → State → Nat → Nat → Nat → Option Split × State
  | 0, s, _, _, _ => (none, s)
  | f + 1, s, core, slot, wi =>
    match s.crew core slot with
    | none => (none, s)
    | some cr =>
      match cr.issuable wi with
      | none => (none, s)
      | some sp =>
        match s.holdBack core slot wi cr sp with
        | none => (some sp, s)
        | some (w, t) => State.frontEnd f (t.frontPark core slot wi sp w) core slot wi

/-- The warps of a quarter: slot, index, class of the crew, and the warp. -/
def State.quarterWarps (s : State) (core q : Nat) : List (Nat × Nat × Crew × Warp) :=
  ((s.core core).crews.map fun e =>
    e.2.warps.filterMap fun x => if x.2.quarter = q then some (e.1, x.1, e.2, x.2) else none).flatten

/-- The issuable warps of a quarter. -/
def State.contenders (s : State) (core q : Nat) : List Contender :=
  (s.quarterWarps core q).filterMap fun e =>
    (s.frontEnd 129 core e.1 e.2.1).1.map fun sp =>
      { slot := e.1, warp := e.2.1, sp, starved := e.2.2.2.starved, cls := e.2.2.1.cls, cost := s.nextCost core e.2.2.1 e.2.1 sp
        age := e.2.2.2.age }

/-- The state with every split of a quarter held back that its warp passes over. -/
def State.heldBack (s : State) (core q : Nat) : State :=
  (s.quarterWarps core q).foldl (fun s e => (s.frontEnd 129 core e.1 e.2.1).2) s

/-! ### The turn of a quarter (19 R273, R274) -/

/-- The turn of a quarter in a core clock. The quarters of a clock take their turns in order of their numbers: a turn of a quarter that has had
its own in this clock, or that a later one has had, is in the next (17 R236; notes/assumptions/9.md). Warps that have
become issuable join its queue; a quarter whose pipe is free, and which is not suspended, picks one window warp (19 R274). -/
def State.arbitrate (s : State) (core q : Nat) : State :=
  let c := s.core core
  let qu : Quarter := Store.get c.quarters {} q
  let clk := if (List.range 4).any fun k => decide (q ≤ k ∧ (Store.get c.quarters {} k : Quarter).turn = c.clk + 1) then c.clk + 1 else c.clk
  let qu := { qu with turn := clk + 1 }
  let put (s : State) (qu : Quarter) : State :=
    let c := s.core core
    s.setCore core { c with clk, quarters := Store.put c.quarters q qu }.markParked
  if s.mgmt.boot ≠ 5 then put s qu
  else
    let cs := s.contenders core q
    let s := s.heldBack core q
    if 0 < qu.suspended then put s { qu.join cs with suspended := qu.suspended - 1 }
    else if clk < qu.free then put s (qu.join cs)
    else
      let qu := qu.refill cs
      let ws := cs.filter fun c => qu.window.any fun e => decide (c.slot = e.1 ∧ c.warp = e.2)
      match firstBy Contender.before ws with
      | none => put s qu
      | some c =>
        let s := put s { qu with window := qu.window.filter fun e => decide (e ≠ (c.slot, c.warp)) }
        let s := ws.foldl (fun s d =>
          if d = c then s
          else match s.crew core d.slot with
            | some cr => s.setCrew core d.slot (cr.setWarp d.warp (cr.warp d.warp).lose)
            | none => s) s
        let s := if c.starved then s.countCore core 0x03 1 else s
        { s with picked := some { core, slot := c.slot, warp := c.warp, lane := c.sp.lanes.headD 0 } }

/-- ISSUE_ARBITRATION (19 R274). -/
def execIssueArbitration (core quarter : Nat) (s : State) : Host.Outcome State Fault Refusal := .next (s.arbitrate core quarter)

end Sys2Proof.Machine
end

