-- ==== Sys2Proof/Machine/Copy.lean ====
section
/-! DEFINITION. The copy engines: `cpy`, `qfen`, COPY_EXECUTE and COPY_COMPLETE (13 R207-R211, 11 R178). -/

namespace Sys2Proof.Machine

/-! ### Issue (13 R207, R211) -/

/-- `cpy`: the descriptor's address checked, the operation appended to its queue, or the split held while the queue is full (13 R207). -/
def cpyBody (w : WS) (c : Ctx) (s : State) : Res :=
  if c.mask.isEmpty then .done s .next [] []
  else
    let a := c.a c.lowMask
    let n := bits w.toNat 4 3
    if !canonical a then .fault s [{ lane := c.lowMask, code := 0x1E, va := a }]
    else if a % 64 ≠ 0 then .fault s [{ lane := c.lowMask, code := 0x06, detail := 6, va := a }]
    else
      let k := s.core c.core
      let q := Store.get k.copyQ [] n
      if 16 ≤ q.length then .park s (.engine n) c.sp.ans
      else
        let op : CopyOp :=
          { uid := c.cr.uid, seq := k.seq, addr := a, mode := bits w.toNat 2 0, bell := bit w.toNat 5, desc := none, done := 0
            quant := none, st := .queued, served := [] }
        let s := s.setCore c.core { k with copyQ := Store.put k.copyQ n (q ++ [op]), seq := k.seq + 1 }
        .done (c.setCrew (s.issues c.threads c.core n k.seq) fun cr => { cr with engines := cr.engines + 1 }) .next [] []

/-- `cpy` (13 R207). -/
def execCpy (x : Head) (w : WS) (s : State) : Host.Outcome State Fault Refusal := issue (.cpy x w) s noBad (cpyBody w)

/-- `qfen` (13 R211, 11 R178). -/
def qfenBody (w : WS) (c : Ctx) (s : State) : Res :=
  if c.mask.isEmpty then .done s .next [] []
  else
    let k := s.core c.core
    let j : Join := { seq := k.seq, mask := BitVec.ofNat 6 w.toNat }
    .done ((s.setCore c.core (Core.dropJoins { k with joins := k.joins ++ [j] })).joinQueues c.core j.mask) .next [] []

/-- `qfen` (13 R211). -/
def execQfen (x : Head) (w : WS) (s : State) : Host.Outcome State Fault Refusal := issue (.qfen x w) s noBad (qfenBody w)

/-! ### The descriptor (13 R207, R208, R210) -/

/-- The fields of a copy descriptor. -/
structure CopyDesc where
  saddr : Nat
  daddr : Nat
  aux   : Nat
  fut   : Nat
  count : Nat
  sfmt  : Nat
  dfmt  : Nat
  rnd   : Nat
  sat   : Bool
  sst   : Bool
  dst   : Bool
  esz   : Nat
  bell  : Nat
  res   : Nat
  pat   : List Byte
deriving DecidableEq, Repr

/-- The fields of a descriptor's 64 bytes. -/
def copyDesc (l : List Byte) : CopyDesc :=
  let ctl := fieldAt l 0x26 1
  { saddr := fieldAt l 0 8, daddr := fieldAt l 8 8, aux := fieldAt l 0x10 8, fut := fieldAt l 0x18 8, count := fieldAt l 0x20 4
    sfmt := fieldAt l 0x24 1, dfmt := fieldAt l 0x25 1, rnd := bits ctl 1 0, sat := bit ctl 2, sst := bit ctl 3, dst := bit ctl 4
    esz := bits ctl 7 5, bell := fieldAt l 0x28 4, res := fieldAt l 0x27 1 + fieldAt l 0x2C 4, pat := (l.drop 0x30).take 16 }

/-- The fields that a mode does not use are zero and its formats legal (13 R208). -/
def CopyDesc.modeOk (d : CopyDesc) (mode : Nat) : Bool :=
  let noFmt := decide (d.sfmt = 0) && decide (d.dfmt = 0) && decide (d.rnd = 0) && !d.sat
  let noPat := decide (natOf d.pat = 0)
  match mode with
  | 0 => noFmt && noPat && decide (d.aux = 0) && decide (d.esz = 0)
  | 1 => decide (d.sfmt ≤ 12) && decide (d.dfmt ≤ 4) && noPat && decide (d.esz = 0) &&
      (if hasScale d.sfmt then decide (d.count % 32 = 0) else decide (d.aux = 0))
  | 2 => decide (d.sfmt ≤ 2) && decide (5 ≤ d.dfmt) && decide (d.dfmt ≤ 10) && decide (d.rnd = 0) && !d.sat && noPat &&
      decide (d.esz = 0) && decide (d.count % 32 = 0)
  | 3 => noFmt && noPat && decide (d.esz ≤ 4)
  | _ => noFmt && decide (d.saddr = 0) && decide (d.aux = 0) && !d.sst && decide (d.esz = 0)

/-- The descriptor is one of R207 and R208 for a mode. -/
def CopyDesc.ok (d : CopyDesc) (mode : Nat) : Bool :=
  decide (d.res = 0) && decide (d.sfmt < 16) && decide (d.dfmt < 16) && decide (d.count ≤ 2 ^ 24) && d.modeOk mode

/-- The elements that the engine produces together: a block of 32 in the block modes (13 R209). -/
def CopyDesc.unit (d : CopyDesc) (mode : Nat) : Nat := if mode = 2 ∨ (mode = 1 ∧ hasScale d.sfmt = true) then 32 else 1

/-! ### Overlap (13 R208) -/

/-- A range of bytes: in the stash or not, first address, length. -/
abbrev Range := Bool × Nat × Nat

/-- The index of a gather's element, where it can be read. -/
def State.peekIndex (s : State) (ag : Agent) (d : CopyDesc) (j : Nat) : Option Nat :=
  match (s.chkGlobal ag ((d.aux + 4 * j) % 2 ^ 64) 4 .read).1 with
  | .ok pa _ => some (s.natAt pa 4)
  | _ => none

/-- The source ranges of a copy. -/
def State.sources (s : State) (ag : Agent) (d : CopyDesc) (mode : Nat) : List Range :=
  match mode with
  | 0 => [(d.sst, d.saddr, d.count)]
  | 1 => [(d.sst, d.saddr, (d.count * elemBits d.sfmt + 7) / 8)] ++
      (if hasScale d.sfmt then [(false, d.aux, d.count / 32)] else [])
  | 2 => [(d.sst, d.saddr, d.count * elemBits d.sfmt / 8)]
  | 3 => (false, d.aux, 4 * d.count) :: (List.range d.count).filterMap fun j =>
      (s.peekIndex ag d j).map fun i => (d.sst, d.saddr + i * 2 ^ d.esz, 2 ^ d.esz)
  | _ => []

/-- Bytes to be written at a destination: one that also lies in a source range is undefined (13 R208; notes/assumptions/4.md). -/
def blurred (src : List Range) (draw : Nat) (stash : Bool) (a : Nat) (bs : List Byte) : List Byte :=
  ((List.range bs.length).zip bs).map fun p =>
    if src.any fun r => decide (r.1 = stash) && decide (r.2.1 ≤ a + p.1) && decide (a + p.1 < r.2.1 + r.2.2) then
      Config.freeByte draw (a + p.1) else p.2

/-! ### Elements (13 R208, R209) -/

/-- What the engine makes of one unit: the bytes it writes, each with its place and access size, and in the quantise mode the first
special element of the block. -/
structure Made where
  writes : List (Bool × Nat × Nat × List Byte)
  first  : Option Nat
deriving DecidableEq, Repr

/-- A list of bytes as accesses of one byte each. -/
def byByte (stash : Bool) (a : Nat) (bs : List Byte) : List (Bool × Nat × Nat × List Byte) :=
  ((List.range bs.length).zip bs).map fun p => (stash, a + p.1, 1, [p.2])

/-- The byte offsets of elements `j` to `j + n - 1` of a format, in accesses of an element's size, or of a byte where elements are
packed below 8 bits (05 R58). -/
def elemAddrs (code base j n : Nat) : Nat × List Nat :=
  let b := elemBits code
  if b < 8 then (1, (List.range (n * b / 8)).map fun k => base + j * b / 8 + k)
  else (b / 8, (List.range n).map fun k => base + (j + k) * (b / 8))

/-- The values of `n` source elements read as packed bytes, under a scale. -/
def elemVals (code n scale : Nat) (bs : List Byte) : List FVal :=
  (List.range n).map fun k => scaledElem code (elemAt code (natOf bs) k) scale

/-- Elements `j` up of a convert (13 R208, 05 R67, R68). -/
def CopyDesc.converted (d : CopyDesc) (j n scale : Nat) (bs : List Byte) : Made :=
  let f := codeFmt d.dfmt
  let size := elemBits d.dfmt / 8
  let vs := (elemVals d.sfmt n scale bs).map fun v => (f.round (decodeRnd d.rnd) false d.sat v).1
  { writes := ((List.range n).zip vs).map fun p => (d.dst, d.daddr + (j + p.1) * size, size, bytesLE size p.2), first := none }

/-- The block of 32 at element `j` quantised (05 R70, 13 R208). -/
def CopyDesc.quantised (d : CopyDesc) (j : Nat) (bs : List Byte) : Made :=
  let q := quantise d.dfmt (elemVals d.sfmt 32 127 bs)
  let es := bytesLE (32 * elemBits d.dfmt / 8) (joinElems (elemBits d.dfmt) q.elems)
  { writes := byByte d.dst (d.daddr + j * elemBits d.dfmt / 8) es ++ [(false, d.aux + j / 32, 1, [BitVec.ofNat 8 q.scale])]
    first := q.first }

/-- The reads of elements `j` up and what they make (13 R208). -/
def State.copyMake (s : State) (ag : Agent) (d : CopyDesc) (mode : Nat) (served : List Served) (j : Nat) : (Halt ⊕ Made) × State :=
  match mode with
  | 0 =>
    match s.engLoad ag served d.sst (d.saddr + j) 1 with
    | (.inl h, s) => (.inl h, s)
    | (.inr bs, s) => (.inr { writes := [(d.dst, d.daddr + j, 1, bs)], first := none }, s)
  | 1 =>
    let n := d.unit 1
    let scale : (Halt ⊕ List Byte) × State :=
      if hasScale d.sfmt then s.engLoad ag served false (d.aux + j / 32) 1 else (.inr [127], s)
    match scale with
    | (.inl h, s) => (.inl h, s)
    | (.inr sc, s) =>
      let a := elemAddrs d.sfmt d.saddr j n
      match s.engLoads ag served d.sst a.1 a.2 [] with
      | (.inl h, s) => (.inl h, s)
      | (.inr bs, s) => (.inr (d.converted j n (natOf sc) bs), s)
  | 2 =>
    let a := elemAddrs d.sfmt d.saddr j 32
    match s.engLoads ag served d.sst a.1 a.2 [] with
    | (.inl h, s) => (.inl h, s)
    | (.inr bs, s) => (.inr (d.quantised j bs), s)
  | 3 =>
    match s.engLoad ag served false (d.aux + 4 * j) 4 with
    | (.inl h, s) => (.inl h, s)
    | (.inr i, s) =>
      match s.engLoad ag served d.sst (d.saddr + natOf i * 2 ^ d.esz) (2 ^ d.esz) with
      | (.inl h, s) => (.inl h, s)
      | (.inr bs, s) => (.inr { writes := [(d.dst, d.daddr + j * 2 ^ d.esz, 2 ^ d.esz, bs)], first := none }, s)
  | _ => (.inr { writes := [(d.dst, d.daddr + j, 1, [(d.pat[j % 16]?).getD 0])], first := none }, s)

/-- One unit read, checked and written: what halts it, or the first special element of its block (13 R209, R210). -/
def State.copyUnit (s : State) (ag : Agent) (d : CopyDesc) (mode : Nat) (served : List Served) (src : List Range) (draw j : Nat) :
    (Halt ⊕ Option Nat) × State :=
  match s.copyMake ag d mode served j with
  | (.inl h, s) => (.inl h, s)
  | (.inr m, s) =>
    match s.engSpots ag (m.writes.map fun w => (w.1, w.2.1, w.2.2.1)) [] with
    | (.inl h, s) => (.inl h, s)
    | (.inr ps, s) =>
      (.inr m.first, (ps.zip m.writes).foldl (fun s p => s.engWrite ag p.1 (blurred src draw p.2.1 p.2.2.1 p.2.2.2.2)) s)

/-- The elements from `done` on: the fault or wait that stopped them if one did, how many are done, and the block status (13 R209,
R210). -/
def State.copyRun (s : State) (ag : Agent) (d : CopyDesc) (mode : Nat) (served : List Served) (src : List Range) (draw : Nat) :
    Nat → Nat → Option Nat → Option Halt × Nat × Option Nat × State
  | 0, j, q => (none, j, q, s)
  | f + 1, j, q =>
    if d.count ≤ j then (none, j, q, s)
    else
      match s.copyUnit ag d mode served src draw j with
      | (.inl h, s) => (some h, j, q, s)
      | (.inr first, s) =>
        State.copyRun s ag d mode served src draw f (j + d.unit mode) (q <|> first.map fun k => j + k)

/-! ### COPY_EXECUTE (13 R209) -/

/-- The head of a copy queue changed. -/
def State.setCopy (s : State) (core n : Nat) (op : CopyOp) : State :=
  let c := s.core core
  s.setCore core { c with copyQ := Store.put c.copyQ n (op :: (Store.get c.copyQ [] n).drop 1) }

/-- The success value of a copy (13 R210). -/
def copyValue (q : Option Nat) : BitVec 64 :=
  match q with
  | some k => BitVec.ofNat 64 (2 ^ 30 + k % 2 ^ 24)
  | none => 0

/-- A copy whose descriptor is read goes on (13 R208-R210). -/
def State.copyGo (s : State) (ag : Agent) (core n : Nat) (op : CopyOp) (l : List Byte) : State :=
  let d := copyDesc l
  if !d.ok op.mode then s.setCopy core n { op with desc := some l, st := .performed (errWord 0x01 0) true }
  else
    let draw := s.freeCtr
    match { s with freeCtr := s.freeCtr + 1 }.copyRun ag d op.mode op.served (s.sources ag d op.mode) draw d.count op.done op.quant with
    | (none, j, q, s) => s.setCopy core n { op with desc := some l, done := j, quant := q, st := .performed (copyValue q) false }
    | (some h, j, q, s) => s.setCopy core n { op with desc := some l, done := j, quant := q, st := haltSt h j }

/-- A copy at the head of its queue performed up to a wait (13 R209). -/
def State.copyExecute (s : State) (core n : Nat) : State :=
  let c := s.core core
  match Store.get c.copyQ [] n with
  | [] => s
  | op :: _ =>
    match s.crewOf op.uid with
    | none => s
    | some cr =>
      if op.st ≠ .queued ∨ c.canBegin n op.seq = false then s
      else
        let ag := cr.acting core op.seq
        match op.desc with
        | some l => s.copyGo ag core n op l
        | none =>
          match s.engLoad ag op.served false op.addr 64 with
          | (.inr l, s) => s.copyGo ag core n op l
          | (.inl (.wait w), s) => s.setCopy core n { op with st := .waiting w }
          | (.inl (.fault _), s) => s.setCopy core n { op with st := .lost }

/-- COPY_EXECUTE (13 R209). -/
def execCopyExecute (core queue : Nat) (s : State) : Host.Outcome State Fault Refusal := .next (s.whenReady (s.copyExecute core queue))

/-! ### COPY_COMPLETE (13 R210) -/

/-- The head of a copy queue has completed: it leaves, and its crew and the waiting splits go on. -/
def State.copyPop (s : State) (core n uid : Nat) : State :=
  let s := ((Store.get (s.core core).copyQ [] n).map fun op => op.seq).head?.elim s (s.opEnds core n)
  let c := s.core core
  let s := s.setCore core (Core.dropJoins { c with copyQ := Store.put c.copyQ n ((Store.get c.copyQ [] n).drop 1) })
  (s.engineLess uid).wakeEngine core n

/-- The bell of a copy rung, and the copy done (13 R210). -/
def State.copyRing (s : State) (core n : Nat) (op : CopyOp) (err : Bool) : State :=
  if op.bell then
    match s.crewOf op.uid with
    | none => s.copyPop core n op.uid
    | some cr =>
      match s.engineBell (cr.acting core op.seq) (copyDesc (op.desc.getD [])).bell err with
      | (.wait w, s) => s.setCopy core n { op with st := .ring err (some w) }
      | (.lost, s) => (s.dblComp core).copyPop core n op.uid
      | (_, s) => s.copyPop core n op.uid
  else s.copyPop core n op.uid

/-- A performed copy completes: its future, then its bell (13 R210). -/
def State.copyEnd (s : State) (core n : Nat) (op : CopyOp) (value : BitVec 64) (bad : Bool) : State :=
  match s.crewOf op.uid with
  | none => s
  | some cr =>
    match s.engFuture (cr.acting core op.seq) (copyDesc (op.desc.getD [])).fut value with
    | (.wait w, s) => s.setCopy core n { op with st := .closing value bad w }
    | (.done, s) => s.copyRing core n op bad
    | (.double, s) => (s.dblComp core).copyRing core n op true
    | (.lost, s) => (s.dblComp core).copyRing core n op bad

/-- A performed copy at the head of its queue completes (13 R210). -/
def State.copyComplete (s : State) (core n : Nat) : State :=
  match Store.get (s.core core).copyQ [] n with
  | [] => s
  | op :: _ =>
    match op.st with
    | .performed value bad => s.copyEnd core n op value bad
    | .unresolved _ bad => (s.dblComp core).copyRing core n op bad
    | .ring err none => s.copyRing core n op err
    | .lost => (s.dblComp core).copyPop core n op.uid
    | _ => s

/-- COPY_COMPLETE (13 R210). -/
def execCopyComplete (core queue : Nat) (s : State) : Host.Outcome State Fault Refusal := .next (s.whenReady (s.copyComplete core queue))

end Sys2Proof.Machine
end

