-- ==== Sys2Proof/Machine/Services.lean ====
section
/-! DEFINITION. The commands of Zhevvo other than launch and `CONFIG` (23 R319-R323, R327, R330, 19 R280, R285, R287). -/

namespace Sys2Proof.Machine

/-! ### Waits that end -/

/-- An engine operation whose wait has ended goes on. -/
def OpSt.resume (st : OpSt) : OpSt :=
  match st with
  | .waiting _ => .queued
  | .closing v b _ => .performed v b
  | .ring err _ => .ring err none
  | st => st

/-- A status under a change of its wait: where nothing is left to wait for, the operation goes on. -/
def OpSt.rewait (f : Wait → Option Wait) (st : OpSt) : OpSt :=
  match st with
  | .waiting w => match f w with
    | some w => .waiting w
    | none => st.resume
  | .closing v b w => match f w with
    | some w => .closing v b w
    | none => st.resume
  | .ring err (some w) => .ring err (f w)
  | st => st

/-- A split under a change of its wait. -/
def Split.rewait (f : Wait → Option Wait) (sp : Split) : Split :=
  match sp.st with
  | .parked w => match f w with
    | some w => { sp with st := .parked w }
    | none => { sp with st := .run }
  | _ => sp

/-- Every status of an engine operation or a raster batch changed. -/
def State.mapOps (s : State) (f : OpSt → OpSt) : State :=
  { s with
    cores := Store.mapV s.cores fun _ c =>
      { c with
        copyQ := Store.mapV c.copyQ fun _ q => q.map fun op => { op with st := f op.st }
        hodQ := c.hodQ.map fun op => { op with st := f op.st }
        matQ := c.matQ.map fun op => { op with st := f op.st } }
    raster := Store.mapV s.raster fun _ u => { u with batches := u.batches.map fun b => { b with st := f b.st } } }

/-- Every wait of the device changed; what has nothing left to wait for goes on. -/
def State.rewait (s : State) (f : Wait → Option Wait) : State := (s.mapSplits (Split.rewait f)).mapOps (OpSt.rewait f)

/-! ### PAGERES (11 R153, 19 R280) -/

/-- A wait without a page: none where it was the last. -/
def Wait.withoutPage (hit : PageRef → Bool) (w : Wait) : Option Wait :=
  match w with
  | .page ps =>
    let rest := ps.filter fun x => !hit x.2.2
    if rest.isEmpty then none else some (.page rest)
  | w => some w

/-- The lanes of a wait that wait for a page, with their addresses. -/
def Wait.pageLanes (hit : PageRef → Bool) (w : Wait) : List (Nat × Nat) :=
  match w with
  | .page ps => (ps.filter fun x => hit x.2.2).map fun x => (x.1, x.2.1)
  | _ => []

/-- A split that waits for an unresolvable page raises fault 0x07 in the lanes that do (11 R153). -/
def Split.pageDead (hit : PageRef → Bool) (sp : Split) : Split :=
  match sp.st with
  | .parked w =>
    if (w.pageLanes hit).isEmpty then sp
    else { sp with st := .entryWait ((w.pageLanes hit).map fun x => { lane := x.1, code := 0x07, va := x.2 : LaneFault }), ans := [] }
  | _ => sp

/-- A status waits for a page before its operation is performed. -/
def OpSt.dead (hit : PageRef → Bool) : OpSt → Bool
  | .waiting w => !(w.pageLanes hit).isEmpty
  | _ => false

/-- A completion that waits for an unresolvable page is not delivered, nor is an arrival at a bell (13 R210). -/
def OpSt.closeDead (hit : PageRef → Bool) (st : OpSt) : OpSt :=
  match st with
  | .closing v b w => if (w.pageLanes hit).isEmpty then st else .unresolved v b
  | .ring _ (some w) => if (w.pageLanes hit).isEmpty then st else .lost
  | st => st

/-- A copy stopped by an unresolvable page (13 R208-R210). -/
def CopyOp.pageDead (hit : PageRef → Bool) (op : CopyOp) : CopyOp :=
  if op.st.dead hit then
    { op with st := if op.desc.isNone then .lost else .performed (errWord 0x07 op.done) true }
  else { op with st := op.st.closeDead hit }

/-- A drain stopped by an unresolvable page (17 R251). -/
def MatOp.pageDead (hit : PageRef → Bool) (op : MatOp) : MatOp :=
  if op.st.dead hit then { op with st := .performed (errWord 0x07 op.done) true } else { op with st := op.st.closeDead hit }

/-- A raster batch stopped by an unresolvable page (21 R313). -/
def Batch.pageDead (hit : PageRef → Bool) (b : Batch) : Batch :=
  if b.st.dead hit then
    match b.desc with
    | none => { b with st := .lost }
    | some l => if b.ord then b.fails (rastDesc l) 0x07 else { b with st := .performed (errWord 0x07 b.prim) true }
  else { b with st := b.st.closeDead hit }

/-- The `tload` at the head of a hod queue stopped by an unresolvable page: its area is marked failed (17 R239). -/
def State.hodDead (s : State) (hit : PageRef → Bool) (core : Nat) : State :=
  match (s.core core).hodQ with
  | [] => s
  | op :: _ =>
    if op.st.dead hit then
      (s.updMat op.uid fun m => { m with fails := Store.put m.fails (failKey op.area op.scales) { code := 0x07, row := op.row } }
        ).hodPop core op.uid
    else s

/-- A split waits for a page. -/
def Split.onPage (hit : PageRef → Bool) (sp : Split) : Bool :=
  match sp.st with
  | .parked w => !(w.pageLanes hit).isEmpty
  | _ => false

/-- Every access parked on a page raises its fault, every operation completes with its error (19 R280). A `sleave` whose write-back waits for the
page leaves nothing (21 R300). -/
def State.pageDead (s : State) (hit : PageRef → Bool) : State :=
  let s := s.mapCrews fun cr => cr.mapWarps fun w =>
    (w.allSplits.foldl (fun u sp => if sp.onPage hit then s.rehold u sp.leaving else u) w).mapSplits (Split.pageDead hit)
  let s := (s.cores.map fun e => e.1).foldl (fun s k => s.hodDead hit k) s
  { s with
    cores := Store.mapV s.cores fun _ c =>
      { c with
        copyQ := Store.mapV c.copyQ fun _ q => q.map fun op => op.pageDead hit
        matQ := c.matQ.map fun op => op.pageDead hit }
    raster := Store.mapV s.raster fun _ u => { u with batches := u.batches.map fun b => b.pageDead hit } }

/-- Continuations and device steps that wait for something go on, or fail where it is a page that cannot be had (13 R202, R203). -/
def State.stepsOn (s : State) (hit : Wait → Bool) (valid : Bool) : State :=
  let cs := s.conts.filter fun c => c.page.any hit
  let qs := s.qsteps.filter fun q => hit q.page
  let s := { s with qsteps := s.qsteps.filter fun q => !hit q.page }
  let s := cs.foldl (fun s c =>
    let s := s.updCont c.id fun c => { c with page := none }
    if valid then s.contCommit c.id else s.contFail { c with page := none } (.fault 0x07 0)) s
  qs.foldl (fun s q =>
    let ag : QAgent := { part := q.part, job := q.job, asn := q.asn, root := q.root }
    if valid then s.queueStep ag q.act q.hva q.hdr q.first q.count
    else
      let slot := if q.act = .deliver then (s.qhdr q.hdr).head else q.first % 2 ^ 32
      s.stepFail ag q.act q.hva q.hdr q.first q.count slot (.fault 0x07 0)) s

/-- Zhevvo's answer about a page (19 R280). -/
def State.answer (s : State) (hit : PageRef → Bool) (valid : Bool) : State :=
  let s := { s with parts := Store.mapV s.parts fun _ t => { t with reports := t.reports.filter fun r => !hit r } }
  (if valid then s.rewait fun w => w.withoutPage hit else s.pageDead hit).stepsOn (fun w => !(w.pageLanes hit).isEmpty) valid

/-- The page that a `PAGERES` names (23 R321). -/
def pageHit (p asn acc va : Nat) (r : PageRef) : Bool :=
  decide (r.part = p) && decide (r.asn = asn) && decide (r.acc = match acc with
    | 0 => .read
    | 1 => .write
    | _ => .fetch) && decide (r.page = if r.large then va / 2 ^ 21 * 2 ^ 21 else va / 2 ^ 16 * 2 ^ 16)

/-- PAGERES (19 R280). -/
def execPageres (part : Nat) (s : State) : Host.Outcome State Fault Refusal :=
  zCommand 0x04 false part s fun c t =>
    if 2 < c.field 0xA 1 ∨ 1 < c.field 0xB 1 then t.cmdDone part c 2 0 0
    else (t.answer (pageHit part (c.field 8 2) (c.field 0xA 1) (c.field 0x10 8)) (decide (c.field 0xB 1 = 0))).cmdDone part c 0 0 0

/-! ### TLBINV (11 R155, R156) -/

/-- A TLB entry that a `TLBINV` names: of the address space, and of a page that meets the range (23 R321). -/
def TlbEnt.named (t : TlbEnt) (p asn va n : Nat) : Bool :=
  let size := if t.large then 2 ^ 21 else 2 ^ 16
  decide (t.part = p) && decide (t.asn = asn) &&
    (decide (n = 0) || (decide (t.vpage * size < va + n) && decide (va < t.vpage * size + size)))

/-- TLBINV (23 R321). -/
def execTlbinv (part : Nat) (s : State) : Host.Outcome State Fault Refusal :=
  zCommand 0x03 false part s fun c t =>
    ({ t with cores := Store.mapV t.cores fun _ k =>
      { k with tlb := k.tlb.filter fun e => !e.named part (c.field 8 2) (c.field 0x10 8) (c.field 0x18 8) } }).cmdDone part c 0 0 0

/-! ### GENWR and GENINV (15 R213, 23 R323) -/

/-- GENWR (15 R213). -/
def execGenwr (part : Nat) (s : State) : Host.Outcome State Fault Refusal :=
  zCommand 0x05 false part s fun c t =>
    let a := c.field 0x10 8
    let root := c.field 0x18 8
    if !inHbm root || decide (root % 8192 ≠ 0) || !payRange a 64 then t.cmdDone part c 2 0 0
    else if t.anyPoison a 64 then t.cmdDone part c 3 0 0
    else
      let x := t.part part
      (t.setPart part { x with gens := Store.put x.gens (c.field 8 2) { bytes := t.bytesAt a 64, root } }).cmdDone part c 0 0 0

/-- The bytes of some addresses changed, with the rereads of the lanes that watch them. -/
def State.editMem (s : State) (lo n : Nat) (f : Nat → Byte → Byte) : State :=
  let g (e : Host.Cell) : Option Host.Cell :=
    if lo ≤ e.1 ∧ e.1 < lo + n then (if f e.1 e.2 = 0 then none else some (e.1, f e.1 e.2)) else some e
  let changed := s.mem.filter fun e => decide (lo ≤ e.1 ∧ e.1 < lo + n ∧ f e.1 e.2 ≠ e.2)
  let s : State := { s with
    mem := s.mem.filterMap g
    ledger := (changed.foldl (fun (t : State) e => { t with ledger := t.noted none e.1 1 }) s).ledger }
  s.recheck lo n

/-- A fill record of the partition exists. -/
def State.filling (s : State) (p : Nat) : Bool := s.slices.any fun t => t.2.fills.any fun r => decide (r.part = p)

/-- The resident lines of a partition's generated space: slice, set, way. -/
def State.genLines (s : State) (p : Nat) : List (Nat × Nat × Nat × LLine) :=
  (s.slices.map fun t => (t.2.sets.map fun n => n.2.ways.filterMap fun w =>
    let pa := 128 * w.2.line
    if inGen pa && decide (genPart pa = p) then some (t.1, n.1, w.1, w.2) else none).flatten).flatten

/-- A generated line dropped, or to be dropped when its last pin is released (23 R323). -/
def State.dropGen (s : State) (h n w : Nat) (l : LLine) : State :=
  let set := Store.get (s.slice h).sets {} n
  if l.pins.isEmpty then ((s.setSet h n { set with ways := Store.del set.ways w }).unmix l.line).eraseLine (128 * l.line)
  else s.setSet h n { set with ways := Store.put set.ways w { l with leave := true, larder := some false } }

/-- The copies of a partition's generated space in the caches of the cores dropped (23 R323; notes/assumptions/41.md). -/
def State.dropCopies (s : State) (p : Nat) : State :=
  let mine (line : Nat) : Bool := inGen (128 * line) && decide (genPart (128 * line) = p)
  { s with cores := Store.mapV s.cores fun _ c =>
      { c with l1 := c.l1.filter (fun l => !mine l.line), icache := c.icache.filter fun l => !mine l.line } }

/-- The tags of a partition's larder with `V` clear (15 R224). -/
def State.clearLarder (s : State) (p : Nat) : State :=
  let t := s.part p
  if t.lnl = 0 then s
  else
    let lo := t.lbase + 128 * 2 ^ t.lnl
    s.editMem lo (8 * 2 ^ t.lnl) fun a b => if (a - lo) % 8 = 0 then b &&& 0xFE else b

/-- `GENINV`: fill records end first, then lines and tags go, then the waiting accesses proceed (23 R323). -/
def State.geninv (s : State) (p : Nat) (c : Cmd) : State :=
  let s := (s.begin p c).setPart p { (s.begin p c).part p with geninv := true }
  if s.filling p then s
  else
    let s := ((s.genLines p).foldl (fun s e => s.dropGen e.1 e.2.1 e.2.2.1 e.2.2.2) s).dropCopies p
    let s := s.clearLarder p
    (s.setPart p { s.part p with geninv := false }).cmdDone p c 0 0 0

/-- GENINV (23 R323). -/
def execGeninv (part : Nat) (s : State) : Host.Outcome State Fault Refusal :=
  zCommand 0x06 false part s fun c t => t.geninv part c

/-! ### BIAS (23 R318, R319) -/

/-- The place in the order of arrival of a wait for a page's bias; none for another wait. -/
def Wait.flipOrder (page : Nat) (w : Wait) : Option Nat :=
  match w with
  | .flip p n => if p = page then some n else none
  | _ => none

/-- The wait of a split, an engine operation or a batch. -/
def SplitSt.wait (st : SplitSt) : Option Wait :=
  match st with
  | .parked w => some w
  | _ => none

/-- The wait of an operation, and whether it waits to complete. -/
def OpSt.wait (st : OpSt) : Option (Wait × Bool) :=
  match st with
  | .waiting w => some (w, false)
  | .closing _ _ w => some (w, true)
  | .ring _ w => w.map fun w => (w, true)
  | _ => none

/-- The step that performs or completes an operation of the matrix queue. -/
def MatKind.step (k : MatKind) (core : Nat) : Instr :=
  match k with
  | .barrier => .tcfgBarrier core
  | .mma _ _ _ _ _ _ _ => .mmaComplete core
  | .tdrain _ _ _ _ _ _ _ _ _ => .tdrainExecute core
  | .tquant _ _ _ _ _ _ => .tquantExecute core
  | .tzero _ => .tzeroExecute core

/-- The steps of the splits of a crew that wait for a page's bias, with their places. -/
def Crew.flipMoves (cr : Crew) (page core slot : Nat) : List (Nat × Instr) :=
  (cr.warps.map fun w => w.2.allSplits.filterMap fun sp =>
    match sp.st.wait.bind (Wait.flipOrder page), sp.again with
    | some n, some g => some (n, .resultReturn core slot w.1 g.op [] false)
    | _, _ => none).flatten

/-- The steps of a core's crews and engines that wait for a page's bias, with their places. -/
def Core.flipMoves (c : Core) (page core : Nat) : List (Nat × Instr) :=
  let at? (st : OpSt) (a b : Instr) : List (Nat × Instr) :=
    match st.wait with
    | some (w, z) => (w.flipOrder page).toList.map fun n => (n, if z then b else a)
    | none => []
  (c.crews.map fun e => e.2.flipMoves page core e.1).flatten ++
    (c.copyQ.map fun q => (q.2.take 1).flatMap fun op => at? op.st (.copyExecute core q.1) (.copyComplete core q.1)).flatten ++
    ((c.hodQ.take 1).flatMap fun op => at? op.st (.hodTloadExecute core) (.hodTloadExecute core)) ++
    (c.matQ.take 1).flatMap fun op => at? op.st (op.kind.step core) (op.kind.step core)

/-- A move put in its place by number. -/
def insertMove (x : Nat × Instr) : List (Nat × Instr) → List (Nat × Instr)
  | [] => [x]
  | y :: r => if x.1 < y.1 then x :: y :: r else y :: insertMove x r

/-- The step of a continuation or of the device on a queue that waited for a page's bias, by its place in the order of arrival (23 R319;
notes/assumptions/41.md). -/
def flipStep (n : Nat) : Instr := .continuationCommit (2 ^ 32 + n)

/-- The steps that wait for a page's bias, in the order of arrival (23 R319). -/
def State.flipMoves (s : State) (page : Nat) : List Instr :=
  let units : List (Nat × Instr) := s.raster.flatMap fun u => (u.2.batches.take 1).flatMap fun b => match b.st.wait with
    | some (w, z) => (w.flipOrder page).toList.map fun n => (n, if z then .rasterBatchComplete u.1 else .rasterBatch u.1)
    | none => []
  let cores : List (Nat × Instr) := s.cores.flatMap fun c => c.2.flipMoves page c.1
  let steps : List (Nat × Instr) := ((s.conts.filterMap fun c => c.page) ++ s.qsteps.map fun q => q.page).filterMap fun w =>
    (w.flipOrder page).map fun n => (n, flipStep n)
  ((cores ++ units ++ steps).foldl (fun l x => insertMove x l) []).map fun x => x.2

/-- The accesses that wait for a page that was flipping go on, one after the other in the order of their arrival (23 R319). -/
def State.endFlip (s : State) (page : Nat) : State :=
  let s' := { s with flipping := none }.rewait fun w => if (w.flipOrder page).isSome then none else some w
  { s' with agenda := s.flipMoves page ++ s'.agenda }

/-- A wait for a page's bias with a place in the order of arrival. -/
def Wait.flipAt (n : Nat) (w : Wait) : Bool :=
  match w with
  | .flip _ k => decide (k = n)
  | _ => false

/-- CONTINUATION_COMMIT: the continuation numbered `index` among those of the device (13 R202). From 2^32 up, the continuation or the device's step on
a queue that waited for a page's bias with that place in the order of arrival goes on (13 R203, 23 R319; notes/assumptions/41.md). -/
def execContinuationCommit (index : Nat) (s : State) : Host.Outcome State Fault Refusal :=
  if index < 2 ^ 32 then
    match s.conts[index]? with
    | some c => .next (s.contCommit c.id)
    | none => .next s
  else .next (s.stepsOn (Wait.flipAt (index - 2 ^ 32)) true)

/-- A page in host or device bias; a flip to device bias invalidates what host caches hold of it (23 R319). -/
def State.setBias (s : State) (page : Nat) (host : Bool) : State :=
  let rest := s.bias.filter fun n => decide (n ≠ page)
  if host then { s with bias := rest ++ [page] }
  else { s with bias := rest, hostLines := s.hostLines.filter fun l => decide (l / 512 ≠ page) }

/-- `BIAS`: one page marked, or the page that flips released and the next one marked (23 R319). -/
def State.flipNext (s : State) (p : Nat) (c : Cmd) : State :=
  let first := c.field 0x10 8 / 65536
  let n := c.field 0x18 4
  match s.flipping with
  | none => { s.begin p c with flipping := some first }
  | some page =>
    let s := (s.setBias page (decide (c.field 8 1 = 0))).endFlip page
    if page + 1 < first + n then { s with flipping := some (page + 1) } else s.cmdDone p c 0 0 0

/-- BIAS (23 R319). -/
def execBias (part : Nat) (s : State) : Host.Outcome State Fault Refusal :=
  zCommand 0x07 true part s fun c t =>
    let first := c.field 0x10 8
    let n := c.field 0x18 4
    if 1 < c.field 8 1 ∨ first % 65536 ≠ 0 ∨ n = 0 ∨ 65536 < n ∨ inHbm first = false ∨ inHbm (first + 65536 * n - 1) = false then
      t.cmdDone part c 2 0 0
    else t.flipNext part c

/-! ### COUNTERS, RACKRD, RETIRED, SETTIME (19 R285, R287, 21 R291, 23 R321) -/

/-- The value of a counter: a core of no partition reads zero (01 R21, 19 R287). -/
def State.counter (s : State) (slice : Bool) (n i : Nat) : Word :=
  if slice then (if i < 0x20 then 0 else Store.get (s.slice n).counters 0 i)
  else if (s.core n).part.isNone then 0
  else Store.get (s.core n).counters 0 i

/-- COUNTERS (23 R321). -/
def execCounters (part : Nat) (s : State) : Host.Outcome State Fault Refusal :=
  zCommand 0x08 false part s fun c t =>
    let ty := c.field 8 1
    let unit := c.field 9 1
    let n := c.field 0xB 1
    let dst := c.field 0x10 8
    if 1 < ty ∨ 95 < unit ∨ n = 0 ∨ 64 < n ∨ payRange dst (4 * n) = false then t.cmdDone part c 2 0 0
    else if part ≠ 0 ∧ (ty = 1 ∨ (t.core unit).part ≠ some part) then t.cmdDone part c 1 0 0
    else
      let bs := ((List.range n).map fun k => bytesLE 4 (t.counter (decide (ty = 1)) unit (c.field 0xA 1 + k)).toNat).flatten
      (t.zWrite part dst bs).cmdDone part c 0 0 0

/-- `OWNER` (21 R291). -/
def Owner.word : Owner → Nat
  | .none => 0
  | .warp c k w => c + 2 ^ 7 * k + 2 ^ 12 * w + 2 ^ 31
  | .ticket c k => c + 2 ^ 7 * k + 2 ^ 17 + 2 ^ 31

/-- `STATE` (21 R291). -/
def RackEnt.state (x : RackEnt) : Nat :=
  1 + 2 * x.held.toNat + 4 * x.broken.toNat + 8 * x.askip.toNat + 16 * x.stalled.toNat + 32 * x.raster.toNat + 2 ^ 8 * x.part +
    2 ^ 11 * x.cls

/-- The 64 bytes of a rack entry (21 R291). -/
def RackEnt.bytes (x : RackEnt) : List Byte :=
  bytesLE 8 x.key ++ bytesLE 4 x.next ++ bytesLE 4 x.stop ++ bytesLE 4 x.ticket ++ bytesLE 4 x.first ++ bytesLE 2 x.state ++
    bytesLE 1 x.job ++ bytesLE 1 0 ++ bytesLE 4 x.waiters ++ bytesLE 4 x.owner.word ++ bytesLE 4 x.stallcnt ++ bytesLE 4 x.rlo ++
    bytesLE 4 x.rhi ++ bytesLE 8 x.skip.toNat ++ bytesLE 8 0

/-- The bytes of an entry of a slice's rack; every field of a free one reads zero (21 R292). -/
def State.rackBytes (s : State) (sl e : Nat) : List Byte :=
  match s.rackEnt sl e with
  | some x => x.bytes
  | none => List.replicate 64 0

/-- RACKRD (23 R321). -/
def execRackrd (part : Nat) (s : State) : Host.Outcome State Fault Refusal :=
  zCommand 0x09 true part s fun c t =>
    let sl := c.field 8 2
    let first := c.field 0xA 2
    let n := c.field 0xC 2
    let dst := c.field 0x10 8
    if 95 < sl ∨ n = 0 ∨ 512 < n ∨ 512 < first + n ∨ payRange dst (64 * n) = false then t.cmdDone part c 2 0 0
    else (t.zWrite part dst ((List.range n).map fun k => t.rackBytes sl (first + k)).flatten).cmdDone part c 0 0 0

/-- RETIRED (19 R285). -/
def execRetired (part : Nat) (s : State) : Host.Outcome State Fault Refusal :=
  zCommand 0x0A true part s fun c t =>
    let l := (t.part (c.field 8 1)).retired
    let w := l.take (c.field 0x18 8)
    let dst := c.field 0x10 8
    if 7 < c.field 8 1 ∨ payRange dst (Nat.max 1 (8 * w.length)) = false then t.cmdDone part c 2 0 0
    else (t.zWrite part dst (w.map fun a => bytesLE 8 a).flatten).cmdDone part c 0 w.length l.length

/-- SETTIME (23 R321). -/
def execSettime (part : Nat) (s : State) : Host.Outcome State Fault Refusal :=
  zCommand 0x0C false part s fun c t =>
    let ks := t.coresOf part
    let dst := c.field 0x10 8
    if payRange dst (Nat.max 1 (16 * ks.length)) = false then t.cmdDone part c 2 0 0
    else
      let bs := (ks.map fun k => bytesLE 8 (c.field 8 8) ++ bytesLE 8 (t.core k).clk).flatten
      (t.zWrite part dst bs).cmdDone part c 0 0 0

/-! ### SCRUB, LAYERTEST, POWER (19 R285, 23 R321, R330) -/

/-- A page of zeros, free of poison. -/
def State.scrub (s : State) (page : Nat) : State :=
  let s := { s with poison := s.poison.filter fun l => decide (l < page / 128 ∨ page / 128 + 512 ≤ l) }
  s.editMem page 65536 fun _ _ => 0

/-- SCRUB (23 R321). -/
def execScrub (part : Nat) (s : State) : Host.Outcome State Fault Refusal :=
  zCommand 0x0B true part s fun c t =>
    let page := c.field 0x10 8
    if page % 65536 ≠ 0 ∨ payRange page 65536 = false then t.cmdDone part c 2 0 0 else (t.scrub page).cmdDone part c 0 0 0

/-- LAYERTEST, between operations of the core's matrix queue: a layer that passes is out no longer for its residue, one that fails is (17 R230,
23 R321; notes/assumptions/10.md). -/
def execLayertest (part : Nat) (s : State) : Host.Outcome State Fault Refusal :=
  zCommand 0x0D true part s fun c t =>
    let n := c.field 8 1
    if 95 < n then t.cmdDone part c 2 0 0
    else if (t.core n).inOp then t.begin part c
    else
      let pass := Config.layerTest t.freeCtr n
      let t := { t with freeCtr := t.freeCtr + 1 }.setCore n { t.core n with resOut := ~~~ pass }
      t.cmdDone part c 0 pass.toNat 0

/-- POWER (23 R330). -/
def execPower (part : Nat) (s : State) : Host.Outcome State Fault Refusal :=
  zCommand 0x0E true part s fun c t =>
    let w := c.field 8 2
    if w < 120 ∨ 350 < w then t.cmdDone part c 2 0 0
    else { t with mgmt := { t.mgmt with limit := w } }.cmdDone part c 0 0 0

/-! ### ATTEST (23 R326, R327) -/

/-- `BOOTST` (23 R317, R328). -/
def State.bootst (s : State) : Nat := s.mgmt.boot % 16 + 2 ^ 8 * (s.mgmt.err % 256)

/-- The `CONFIG` payloads in force, partition 0 first (23 R327). -/
def State.payloads (s : State) : List Byte :=
  ((List.range 8).map fun p => ((s.part p).payload ++ List.replicate 56 0).take 56).flatten

/-- The repair table as bytes (23 R329). -/
def State.repairBytes (s : State) : List Byte := (s.mgmt.repair.map fun e => bytesLE 8 e.toNat).flatten

/-- The report over a nonce but for its signature (23 R327). -/
def State.reportBody (s : State) (nonce : List Byte) : List Byte :=
  bytesLE 4 1 ++ bytesLE 4 s.bootst ++ bytesLE 8 0 ++ nonce ++ fit 64 (Config.shake256 (fit 1793 (Config.publicKey (s.mgmt.seed.getD []))) 64) ++
    fit 64 Config.romHash ++ fit 32 (Config.shake256 s.repairBytes 32) ++ fit 32 (Config.shake256 s.payloads 32) ++ bytesLE 16 0

/-- The report with its signature (23 R327; notes/assumptions/11.md). -/
def State.attestation (s : State) (nonce : List Byte) : List Byte :=
  s.reportBody nonce ++
    fit 1280 (Config.signature (s.mgmt.seed.getD []) (fit 64 (Config.shake256 (s.reportBody nonce) 64)) s.freeCtr)

/-- ATTEST (23 R327). -/
def execAttest (part : Nat) (s : State) : Host.Outcome State Fault Refusal :=
  zCommand 0x0F false part s fun c t =>
    let a := c.field 8 8
    let dst := c.field 0x10 8
    if payRange a 32 = false ∨ payRange dst 1536 = false then t.cmdDone part c 2 0 0
    else if t.anyPoison a 32 then t.cmdDone part c 3 0 0
    else ({ t with freeCtr := t.freeCtr + 1 }.zWrite part dst (t.attestation (t.bytesAt a 32))).cmdDone part c 0 0 0

end Sys2Proof.Machine
end

