-- ==== Sys2Proof/Machine/Board.lean ====
section
/-! DEFINITION. The host's registers and its CXL.mem accesses, the management port, the identity step and the boot sequence (11 R179,
23 R315-R318, R324-R329). -/

namespace Sys2Proof.Machine

/-! ### The register space (23 R317) -/

/-- A write of `Q0HDR`: honoured once per reset, in `READY`, for a header that is placed (23 R317). -/
def State.writeQ0hdr (s : State) (v : BitVec 64) : State :=
  if s.mgmt.q0used ∨ v = 0 ∨ s.anyPoison v.toNat 64 = true then s
  else
    match s.readHeader v.toNat with
    | some q => ({ s with mgmt := { s.mgmt with q0hdr := v, q0used := true } }).placeQueue 0 q
    | none => s

/-- Q0HDR (23 R317). -/
def execQ0hdr (value : BitVec 64) (s : State) : Host.Outcome State Fault Refusal := .next (s.whenReady (s.writeQ0hdr value))

/-- The module reset: `State.reset`, with what is outside it kept: host memory, the sensors' readings, the moves still to be made and
the numbers of draws (23 R317, R328; notes/assumptions/13.md). -/
def State.resetModule (s : State) : State :=
  { State.reset with
    mem := s.mem.filter fun e => inHost e.1
    mgmt := { temp := s.mgmt.temp, rails := s.mgmt.rails, pwr := s.mgmt.pwr, enrols := s.mgmt.enrols, base := s.mgmt.base }
    hostData := s.hostData, agenda := s.agenda, freeCtr := s.freeCtr, crewCtr := s.crewCtr }

/-- RESET: the value 0x0000_52E5 resets, any other is ignored (23 R317). -/
def execReset (value : BitVec 32) (s : State) : Host.Outcome State Fault Refusal :=
  .next (if value = 0x52E5 then s.resetModule else s)

/-- `IDENT`: vendor 0x1F9A, device 0x0096 (23 R317). -/
def ident : Nat := 0x00961F9A

/-- A host read of `n` bytes of the register space: `IDENT`, `BOOTST` and `Q0HDR`; offsets not listed and write-only registers read zero, as
does an access that is not a naturally aligned word of 32 or 64 bits. It changes nothing (23 R317). -/
def State.readRegister (s : State) (off n : Nat) : Nat :=
  if (n ≠ 4 ∧ n ≠ 8) ∨ off % n ≠ 0 then 0
  else
    let word (o : Nat) : Nat := match o with
      | 0x00 => ident
      | 0x08 => s.bootst
      | 0x10 => s.mgmt.q0hdr.toNat % 2 ^ 32
      | 0x14 => s.mgmt.q0hdr.toNat / 2 ^ 32
      | _ => 0
    word off + (if n = 8 then 2 ^ 32 * word (off + 4) else 0)

/-- REGISTER_WRITE_IGNORED (23 R317). -/
def execRegisterWriteIgnored (_offset : BitVec 16) (_value : BitVec 64) (s : State) : Host.Outcome State Fault Refusal := .next s

/-! ### The management port (23 R324, R325) -/

/-- The identity step waits for the board (23 R326). -/
def State.inKey (s : State) : Bool := decide (s.mgmt.boot = 2)

/-- `s` with the management core changed. -/
def State.setMgmt (s : State) (f : Mgmt → Mgmt) : State := { s with mgmt := f s.mgmt }

/-- Bytes put into others at an offset. -/
def splice (l : List Byte) (o : Nat) (bs : List Byte) : List Byte := l.take o ++ bs ++ l.drop (o + bs.length)

/-- The byte of `HELPER` at an offset: of the helper part or the repair entry selected, zero outside (23 R325). -/
def Mgmt.window (m : Mgmt) (o : Nat) : Byte :=
  let idx := bits m.hwsel.toNat 15 0
  match bits m.hwsel.toNat 63 62 with
  | 0 => if idx < 16 then (m.helper[256 * idx + o]?).getD 0 else 0
  | 1 => match m.repair[idx]? with
    | some e => if o < 8 then BitVec.ofNat 8 (e.toNat / 2 ^ (8 * o)) else 0
    | none => 0
  | _ => 0

/-- A board write of bytes of `HELPER` (23 R325). -/
def State.writeHelper (s : State) (o : Nat) (bs : List Byte) : State :=
  let idx := bits s.mgmt.hwsel.toNat 15 0
  if s.inKey ∧ bits s.mgmt.hwsel.toNat 63 62 = 0 ∧ idx < 16 ∧ o + bs.length ≤ 256 then
    s.setMgmt fun m => { m with helper := splice m.helper (256 * idx + o) bs }
  else s

/-- HELPER (23 R325). -/
def execHelper (offset : Nat) (bytes : List (BitVec 8)) (s : State) : Host.Outcome State Fault Refusal :=
  .next (s.writeHelper offset bytes)

/-- A write of `HWSEL` with some `HMODE` and no bit set that must be zero (23 R325). -/
def hwselOk (mode : Nat) (v : BitVec 64) : Bool := decide (bits v.toNat 63 62 = mode) && decide (bits v.toNat 61 16 = 0)

/-- HWSEL_HELPER_PART (23 R325). -/
def execHwselHelperPart (value : BitVec 64) (s : State) : Host.Outcome State Fault Refusal :=
  .next (if hwselOk 0 value then s.setMgmt fun m => { m with hwsel := value } else s)

/-- HWSEL_REPAIR_ENTRY (23 R325). -/
def execHwselRepairEntry (value : BitVec 64) (s : State) : Host.Outcome State Fault Refusal :=
  .next (if hwselOk 1 value then s.setMgmt fun m => { m with hwsel := value } else s)

/-! ### The identity step (23 R326) -/

/-- The 256-bit seed that helper data extract. -/
def seedOf (helper : List Byte) : List Byte := fit 32 (Config.extract (helper.take 4064))

/-- The stored hash of a seed. -/
def seedHash (seed : List Byte) : List Byte := fit 32 (Config.shake256 seed 32)

/-- The seed extracted and checked: the boot goes on, or fails with error 0x05 (23 R326). -/
def State.extractSeed (s : State) : State :=
  let seed := seedOf s.mgmt.helper
  s.setMgmt fun m =>
    if seedHash seed = m.helper.drop 4064 then { m with seed := some seed, boot := 3, hwsel := 0 }
    else { m with boot := 15, err := 5, hwsel := 0 }

/-- HWSEL_HELPER_COMPLETE (23 R326). -/
def execHwselHelperComplete (value : BitVec 64) (s : State) : Host.Outcome State Fault Refusal :=
  .next (if hwselOk 2 value ∧ s.inKey then s.extractSeed else s)

/-- A fresh identity: helper data that extract a seed, with its hash; error 0x01 is set and the boot goes on (23 R326). -/
def State.enrol (s : State) : State :=
  let h := fit 4064 (Config.enrolHelper s.mgmt.enrols)
  let seed := seedOf h
  s.setMgmt fun m =>
    { m with helper := h ++ seedHash seed, seed := some seed, enrols := m.enrols + 1, boot := 3, err := 1, hwsel := 0 }

/-- HWSEL_ENROL (23 R326). -/
def execHwselEnrol (value : BitVec 64) (s : State) : Host.Outcome State Fault Refusal :=
  .next (if hwselOk 3 value ∧ s.inKey then s.enrol else s)

/-- I3C_DYNAMIC_ADDRESS (23 R324). -/
def execI3cDynamicAddress (addr : BitVec 7) (s : State) : Host.Outcome State Fault Refusal :=
  .next (s.setMgmt fun m => { m with i3c := some addr })

/-- The static address of the I3C target (23 R324). -/
def i3cStatic : BitVec 7 := 0x4E

/-- The address at which the I3C target answers: the dynamic one once the bus controller has given it one (23 R324). -/
def State.i3cAddress (s : State) : BitVec 7 := s.mgmt.i3c.getD i3cStatic

/-- The public key (23 R324, R326; notes/assumptions/11.md). -/
def State.pubkey (s : State) : List Byte := fit 1793 (Config.publicKey (s.mgmt.seed.getD []))

/-- `REPN`: the entries of the repair table (23 R324, R329). -/
def State.repn (s : State) : Nat := s.mgmt.repair.length

/-- The bytes of a register of the I3C target, by index, as a private read returns them; no register has another index. It changes nothing
(23 R324). -/
def State.privateRead (s : State) (index : Nat) : List Byte :=
  match index with
  | 0 => bytesLE 4 s.bootst
  | 1 => (s.mgmt.temp.map fun x => bytesLE 2 x.toNat).flatten
  | 2 => (s.mgmt.rails.map fun x => bytesLE 2 x.toNat).flatten
  | 3 => bytesLE 4 s.mgmt.pwr.toNat
  | 4 => s.pubkey
  | 5 => bytesLE 4 s.repn
  | 6 => bytesLE 8 s.mgmt.hwsel.toNat
  | 7 => (List.range 256).map s.mgmt.window
  | _ => []

/-! ### Boot (23 R328, R329) -/

/-- RAILS_STABLE: from `RESET` to `ROM`, and, once the image has started, from `ROM` to `KEY` (23 R328; notes/assumptions/21.md). -/
def execRailsStable (s : State) : Host.Outcome State Fault Refusal :=
  .next (if s.mgmt.boot < 2 then s.setMgmt fun m => { m with boot := m.boot + 1 } else s)

/-- TRAIN: interface training succeeds, or is error 0x02 (23 R328). -/
def execTrain (ok : Bool) (s : State) : Host.Outcome State Fault Refusal :=
  .next (if s.mgmt.boot = 3 then s.setMgmt (fun m => if ok then { m with boot := 4 } else { m with boot := 15, err := 2 }) else s)

/-- A failing row: core, unit, bank, row. -/
abbrev BadRow := Nat × Nat × Nat × Nat

/-- Two failing rows lie in one bank. -/
def sameBank (a b : BadRow) : Bool := decide (a.1 = b.1) && decide (a.2.1 = b.2.1) && decide (a.2.2.1 = b.2.2.1)

/-- The repair entries for failing rows in the order found: each takes the lowest unused spare of its bank, if one is left (23 R329). -/
def repairs (seen : List BadRow) : List BadRow → List (BitVec 64)
  | [] => []
  | x :: r =>
    let n := (seen.filter (sameBank x)).length
    let rest := repairs (seen ++ [x]) r
    if n < 4 then BitVec.ofNat 64 (x.1 + 2 ^ 7 * x.2.1 + 2 ^ 8 * x.2.2.1 + 2 ^ 13 * x.2.2.2 + 2 ^ 25 * n) :: rest else rest

/-- A core with a bank of more than four failing rows (23 R329). -/
def coreDead (l : List BadRow) (core : Nat) : Bool := l.any fun x => decide (x.1 = core) && decide (4 < (l.filter (sameBank x)).length)

/-- The end of `MARCH`: the repair table, unusable cores, and `READY` or error 0x03 (23 R328, R329). -/
def State.march (s : State) (fails : List BadRow) : State :=
  let l := fails.eraseDups
  let s := s.setMgmt fun m => { m with repair := repairs [] l }
  let s := (List.range 96).foldl (fun s k => if coreDead l k then s.setCore k { s.core k with unusable := true } else s) s
  s.setMgmt fun m =>
    if coreDead l 0 || coreDead l 24 || coreDead l 48 || coreDead l 72 then { m with boot := 15, err := 3 } else { m with boot := 5 }

/-- MARCH (23 R329). -/
def execMarch (fails : List (Nat × Nat × Nat × Nat)) (s : State) : Host.Outcome State Fault Refusal :=
  .next (if s.mgmt.boot = 4 then s.march fails else s)

/-! ### CXL.mem (11 R179, 23 R316, R319) -/

/-- HBM holds `n` bytes from an address. -/
def hbmRange (a n : Nat) : Bool := inHbm a && inHbm (a + n - 1)

/-- The device physical address that a host address inside the decoder window reaches (23 R316). -/
def State.fromHost (s : State) (h : Nat) : Option Nat := if s.mgmt.base ≤ h then some (h - s.mgmt.base) else none

/-- The byte lies in an area that a crew has of a save pool, whose contents no rule lays out (notes/assumptions/16.md). -/
def State.inPool (s : State) (a : Nat) : Bool :=
  s.parts.any fun p => p.2.areas.any fun x => x.pieces.any fun q => decide (q.1 ≤ a ∧ a < q.1 + q.2)

/-- What the host reads at a device physical address: free values where the byte is undefined (23 R318) or of a save pool's area. -/
def State.hostBytes (s : State) (a n : Nat) : List Byte :=
  (List.range n).map fun k => if s.inPool (a + k) || s.hostStale (a + k) then Config.freeByte s.freeCtr k else s.byteAt (a + k)

/-- Lines of a page in device or host bias that the host's caches take with a read that host software allowed to be cached (23 R318). -/
def State.hostCache (s : State) (a n : Nat) : State :=
  let ls := (List.range ((a % 128 + n + 127) / 128)).map fun k => lineOf a + k
  { s with hostLines := s.hostLines ++ ls.filter fun l => !s.hostLines.any fun x => decide (x = l) }

/-- A host read of HBM; whether host software let its caches keep the lines is free (notes/assumptions/43.md). -/
def State.hostRead (s : State) (a n : Nat) : State :=
  let s' := { s with hostData := s.hostBytes a n, freeCtr := s.freeCtr + 1 }
  if Config.hostKeeps s.freeCtr then s'.hostCache a n else s'

/-- HOST_MEM_READ: the host receives the bytes at their homes, and may keep their lines in its caches (11 R179, 23 R316, R318). -/
def execHostMemRead (addr : BitVec 48) (count : Nat) (s : State) : Host.Outcome State Fault Refusal :=
  .next (match s.fromHost addr.toNat with
    | some a => if hbmRange a count then s.hostRead a count else s
    | none => s)

/-- A flip to device bias of the page of an address is in progress (23 R319). -/
def State.flipsToDevice (s : State) (pa : Nat) : Bool :=
  decide (s.flipping = some (pa / 65536)) && match (s.part 0).cmd with
    | some c => decide (c.opc = 7) && decide (c.field 8 1 = 1)
    | none => false

/-- The resident line of an address, written by the host: dirty, with no writer `ASN` (19 R283). -/
def State.hostLine (s : State) (pa : Nat) : State :=
  match s.wayOf pa, s.lineAt pa with
  | some w, some l =>
    let set := Store.get (s.slice (homeOf pa)).sets {} (setOf pa)
    s.setSet (homeOf pa) (setOf pa) { set with ways := Store.put set.ways w { l with dirty := true, writer := none } }
  | _, _ => s

/-- A host write: its bytes, or undefined ones in a page that flips to device bias, at their homes; a poisoned line that it covers whole
is poisoned no more (11 R179, 19 R285, 23 R319). -/
def State.hostWrite (s : State) (a : Nat) (bs : List Byte) : State :=
  let draw := s.freeCtr
  let one (k : Nat) (b : Byte) : Byte := if s.flipsToDevice (a + k) then Config.freeByte draw k else b
  let bs := ((List.range bs.length).zip bs).map fun p => one p.1 p.2
  let lines := (List.range ((a % 128 + bs.length + 127) / 128)).map fun k => lineOf a + k
  let s := { s with freeCtr := s.freeCtr + 1 }
  let s := lines.foldl (fun s l =>
    let s := s.hostLine (128 * l)
    if a ≤ 128 * l ∧ 128 * l + 128 ≤ a + bs.length then s.clearPoison (128 * l) else s) s
  s.storeBy (some (.host, [])) a bs

/-- HOST_MEM_WRITE (11 R179, 23 R316). -/
def execHostMemWrite (addr : BitVec 48) (bytes : List (BitVec 8)) (s : State) : Host.Outcome State Fault Refusal :=
  .next (match s.fromHost addr.toNat with
    | some a => if hbmRange a bytes.length ∧ bytes ≠ [] then s.hostWrite a bytes else s
    | none => s)

end Sys2Proof.Machine
end

