-- ==== Sys2Proof/Machine/Errors.lean ====
section
/-! DEFINITION. Storage errors, quarantine, and the power and thermal controls (17 R230, 19 R278, R282-R286, 23 R330). -/

namespace Sys2Proof.Machine

/-! ### Reports (19 R259, R283, R285) -/

/-- The record of a storage error (19 R259). -/
def errorRecord (event pa slice way writer jobs : Nat) : Record :=
  { cseq := 0, kind := 6, code := event, flags := 0, tag := 0, info1 := BitVec.ofNat 64 pa
    info2 := BitVec.ofNat 32 (slice % 128 + 2 ^ 8 * (way % 16))
    info3 := BitVec.ofNat 32 (writer % 4096 + 2 ^ 16 * (jobs % 65536)) }

/-- A record for partition 0 and for another partition (19 R283). -/
def State.addErrors (s : State) (p : Nat) (r : Record) : State :=
  if p = 0 then s.addRecord 0 r else (s.addRecord 0 r).addRecord p r

/-- The 64 KiB page of an address on a partition's retired list (19 R285). -/
def State.retire (s : State) (p pa : Nat) : State :=
  let t := s.part p
  let page := pa / 65536 * 65536
  if t.retired.any fun x => decide (x = page) then s else s.setPart p { t with retired := t.retired ++ [page] }

/-! ### HBM (19 R283) -/

/-- HBM_CORRECTED (19 R283). -/
def execHbmCorrected (pa : BitVec 48) (s : State) : Host.Outcome State Fault Refusal :=
  .next (if inHbm pa.toNat then s.countSlice (homeOf pa.toNat) 0x2A 1 else s)

/-- The partition that an HBM read of an address is for: the tag of its line, or the partition whose request the channel served last
(notes/assumptions/22.md). -/
def State.readerOf (s : State) (pa : Nat) : Nat :=
  match s.lineAt pa with
  | some l => l.tag
  | none => (Store.get s.channels {} (homeOf pa)).served

/-- An uncorrectable error on a read of HBM: the line is delivered poisoned, its page is retired (19 R283). -/
def State.hbmUncorrectable (s : State) (pa : Nat) : State :=
  let p := s.readerOf pa
  let s := ((s.addPoison pa).retire p pa).countSlice (homeOf pa) 0x2B 1
  s.addErrors p (errorRecord 1 (128 * lineOf pa) (homeOf pa) 0 0 0)

/-- HBM_UNCORRECTABLE (19 R283). -/
def execHbmUncorrectable (pa : BitVec 48) (s : State) : Host.Outcome State Fault Refusal :=
  .next (if inHbm pa.toNat then s.hbmUncorrectable pa.toNat else s)

/-! ### The LLC (19 R283, R284, R286) -/

/-- The line in a way of a set of a slice. -/
def State.llcLine (s : State) (h n w : Nat) : Option LLine := Store.look (Store.get (s.slice h).sets {} n).ways w

/-- A line dropped; the bytes of a generated one are gone. -/
def State.dropLine (s : State) (h n w : Nat) (l : LLine) : State :=
  let set := Store.get (s.slice h).sets {} n
  let s := (s.setSet h n { set with ways := Store.del set.ways w }).unmix l.line
  if l.larder.isSome then s.eraseLine (128 * l.line) else s

/-- A line of a way that is quarantined: pinned, it leaves with its last pin; dirty, it is written to HBM; clean, it is dropped (19
R286). -/
def State.emptyWay (s : State) (h n w : Nat) (l : LLine) : State :=
  let set := Store.get (s.slice h).sets {} n
  if !l.pins.isEmpty then s.setSet h n { set with ways := Store.put set.ways w { l with leave := true } }
  else if l.dirty then (s.dropLine h n w l).grant (128 * l.line) l.tag
  else s.dropLine h n w l

/-- A way quarantined in its slice until reset (19 R286). -/
def State.quarantineWay (s : State) (h w : Nat) : State :=
  let t := s.slice h
  let s := s.setSlice h { t with quarantine := t.quarantine ||| BitVec.ofNat 16 (2 ^ w) }
  t.sets.foldl (fun s n => match Store.look n.2.ways w with
    | some l => s.emptyWay h n.1 w l
    | none => s) s

/-- A corrected error of a way: the sixteenth quarantines it (19 R283). -/
def State.llcCorrected (s : State) (h w : Nat) : State :=
  let s := s.countSlice h 0x28 1
  let t := s.slice h
  let k := Store.get t.corr 0 w + 1
  let s := s.setSlice h { t with corr := Store.put t.corr w k }
  if k = 16 then s.quarantineWay h w else s

/-- LLC_CORRECTED (19 R283). -/
def execLlcCorrected (slice _set way : Nat) (s : State) : Host.Outcome State Fault Refusal := .next (s.llcCorrected slice way)

/-- A pinned line stays until its last pin is released, when it leaves (17 R238). -/
def State.leaveLater (s : State) (h n w : Nat) (l : LLine) : State :=
  let set := Store.get (s.slice h).sets {} n
  s.setSet h n { set with ways := Store.put set.ways w { l with dirty := false, leave := true } }

/-- An uncorrectable error in a clean line: it is dropped, and read again from HBM if it is not generated; its way is quarantined (19 R283). A
pinned line stays until its last pin goes, a generated one poisoned (17 R238; notes/assumptions/22.md). -/
def State.llcUeClean (s : State) (h n w : Nat) (l : LLine) : State :=
  let pa := 128 * l.line
  let s :=
    if l.pins.isEmpty then s.dropLine h n w l
    else (s.leaveLater h n w { l with larder := l.larder.map fun _ => false } : State)
  let s := if l.larder.isNone then s.grant pa l.tag else if l.pins.isEmpty then s else s.addPoison pa
  let s := (s.countSlice h 0x29 1).quarantineWay h w
  s.addErrors l.tag (errorRecord (if l.larder.isSome then 3 else 2) (128 * l.line) h w 0 0)

/-- LLC_UE_CLEAN: of a line that is there and clean (19 R283). -/
def execLlcUeClean (slice set way : Nat) (s : State) : Host.Outcome State Fault Refusal :=
  match s.llcLine slice set way with
  | some l => .next (if l.dirty then s else s.llcUeClean slice set way l)
  | none => .next s

/-- The jobs that an error in a line terminates (19 R284). -/
def State.writerJobs (s : State) (l : LLine) : List Nat :=
  match l.writer with
  | some asn => s.jobsOf l.tag asn
  | none => []

/-- An uncorrectable error in a dirty line: poison, termination, retirement, quarantine (19 R284). -/
def State.llcUeDirty (s : State) (h n w : Nat) (l : LLine) : State :=
  let pa := 128 * l.line
  let js := s.writerJobs l
  let s := if l.pins.isEmpty then s.dropLine h n w l else s.leaveLater h n w l
  let s := ((s.addPoison pa).grant pa l.tag).countSlice h 0x29 1
  let s := s.addErrors l.tag (errorRecord 4 pa h w (l.writer.getD 0) js.length)
  let s := js.foldl (fun s j => s.terminate l.tag j 0x09) s
  (s.retire l.tag pa).quarantineWay h w

/-- LLC_UE_DIRTY: of a line that is there and dirty (19 R284). -/
def execLlcUeDirty (slice set way : Nat) (s : State) : Host.Outcome State Fault Refusal :=
  match s.llcLine slice set way with
  | some l => .next (if l.dirty then s.llcUeDirty slice set way l else s)
  | none => .next s

/-! ### Register caches and stashes (19 R283) -/

/-- The record of an error in a register cache or a stash: its address, slice, way and writer are undefined (notes/assumptions/22.md). -/
def sramRecord (draw jobs : Nat) : Record :=
  let f := Config.freeWord draw
  { cseq := 0, kind := 6, code := 5, flags := 0, tag := 0, info1 := (f 0).append (f 1), info2 := f 2
    info3 := BitVec.ofNat 32 ((f 3).toNat % 65536 + 2 ^ 16 * jobs) }

/-- Every warp of a crew ends. -/
def State.endCrew (s : State) (core slot : Nat) (cr : Crew) : State :=
  (cr.warps.filter fun w => !w.2.retired).foldl (fun s w => s.endWarp core slot w.1 none) s

/-- An uncorrectable error in a register cache or stash: the owning crew's job is terminated; a fill task, which has none, ends (19
R283). -/
def State.sramUncorrectable (s : State) (core slot : Nat) : State :=
  match s.crew core slot with
  | none => s
  | some cr =>
    let s := { s with freeCtr := s.freeCtr + 1 }.addErrors cr.part (sramRecord s.freeCtr (if cr.fill.isSome then 0 else 1))
    if cr.fill.isSome then s.endCrew core slot cr else s.terminate cr.part cr.job 0x09

/-- SRAM_UNCORRECTABLE (19 R283). -/
def execSramUncorrectable (core slot : Nat) (s : State) : Host.Outcome State Fault Refusal :=
  .next (s.whenReady (s.sramUncorrectable core slot))

/-! ### Power and heat (01 R20, 17 R230, 23 R330) -/

/-- A layer of a core throttled by its loop; layer 0 is not (01 R20, 23 R330). -/
def Core.throttle (c : Core) (l : Nat) : Core :=
  if l = 0 then c else Core.settle { c with loop := c.loop ||| BitVec.ofNat 4 (2 ^ l) }

/-- A layer of a core released by its loop. -/
def Core.release (c : Core) (l : Nat) : Core := Core.settle { c with loop := c.loop &&& ~~~ BitVec.ofNat 4 (2 ^ l) }

/-- The arbitration of a quarter suspended for some more core clocks (23 R330). -/
def Core.suspend (c : Core) (q n : Nat) : Core :=
  let x : Quarter := Store.get c.quarters {} q
  { c with quarters := Store.put c.quarters q { x with suspended := x.suspended + n } }

/-- One evaluation of the adaptive loops (23 R330); a layer throttled for heat stays so. -/
def State.powerLoops (s : State) (throttle free : List (Nat × Nat)) (suspend : List (Nat × Nat × Nat)) : State :=
  let s := throttle.foldl (fun s x => s.setCore x.1 ((s.core x.1).throttle x.2)) s
  let s := free.foldl (fun s x => s.setCore x.1 ((s.core x.1).release x.2)) s
  suspend.foldl (fun s x => s.setCore x.1 ((s.core x.1).suspend x.2.1 x.2.2)) s

/-- POWER_LOOP_EVAL (23 R330; notes/assumptions/10.md). -/
def execPowerLoopEval (throttle release : List (Nat × Nat)) (suspend : List (Nat × Nat × Nat)) (s : State) :
    Host.Outcome State Fault Refusal :=
  .next (s.whenReady (s.powerLoops throttle release suspend))

/-- At 105 °C the attic layers of the hottest column are throttled (23 R330). -/
def State.heat (s : State) (column : Nat) : State :=
  let c := s.core column
  let s := s.setCore column (Core.settle { c with heat := true })
  { s with mgmt := { s.mgmt with thermal := s.mgmt.thermal.filter (fun n => decide (n ≠ column)) ++ [column] } }

/-- THERMAL_THROTTLE (23 R330). -/
def execThermalThrottle (column : Nat) (s : State) : Host.Outcome State Fault Refusal := .next (s.whenReady (s.heat column))

/-- Below 100 °C the layers throttled for heat are released, but for those that their own loops throttle (17 R230, 23 R330). -/
def State.cool (s : State) : State :=
  let s' := s.mgmt.thermal.foldl (fun s n => s.setCore n (Core.settle { s.core n with heat := false })) s
  { s' with mgmt := { s'.mgmt with thermal := [] } }

/-- DIE_FALLS_BELOW_100C (23 R330). -/
def execDieFallsBelow100c (s : State) : Host.Outcome State Fault Refusal := .next (s.whenReady s.cool)

/-- THERMAL_TRIP: all cores stop, in `FAILED` with error 0x04 (23 R330). -/
def execThermalTrip (s : State) : Host.Outcome State Fault Refusal :=
  .next { s with mgmt := { s.mgmt with boot := 15, err := 4 }, picked := none }

/-! ### Refresh (19 R278) -/

/-- CHANNEL_REFRESH: a refresh comes before the channel's next grant (19 R278). -/
def execChannelRefresh (channel : Nat) (s : State) : Host.Outcome State Fault Refusal :=
  let c : Channel := Store.get s.channels {} channel
  .next { s with channels := Store.put s.channels channel { c with refresh := true } }

end Sys2Proof.Machine
end

