-- ==== Sys2Proof/Machine/IntLogic.lean ====
section
/-! DEFINITION. The integer and logic instructions and their B32 forms (09 R110-R115, 07 R77). -/

namespace Sys2Proof.Machine

/-! ### Shared forms -/

/-- A value for each lane of `Mask()`, or once for a scalar, in `n` registers (09 R109). -/
def valBody (n : Nat) (f : Ctx → Nat → Nat) (c : Ctx) (w : Warp) : Warp := c.put n (f c) w

/-- A row that R111 reduces: per element the exact result, and the overflow predicate. -/
def arithBody (t : Ty) (sat : Bool) (pd : Nat) (f : Ctx → Nat → Nat → Int) (c : Ctx) (w : Warp) : Warp :=
  c.putPred pd (fun l => (List.range (tyElems t)).any fun k => overflows t (f c l k))
    (c.put (tyRegs t) (fun l => packT t fun k => reduceInt t sat (f c l k)) w)

/-- An element of A, B or C read in a type. -/
def Ctx.ea (c : Ctx) (t : Ty) (l k : Nat) : Int := elemVal t (c.a l) k
def Ctx.eb (c : Ctx) (t : Ty) (l k : Nat) : Int := elemVal t (c.b l) k
def Ctx.ec (c : Ctx) (t : Ty) (l k : Nat) : Int := elemVal t (c.c l) k

/-! ### Exact results (09 R110) -/

def addX (t : Ty) (c : Ctx) (l k : Nat) : Int := c.ea t l k + c.eb t l k
def subX (t : Ty) (c : Ctx) (l k : Nat) : Int := c.ea t l k - c.eb t l k
def mulX (t : Ty) (c : Ctx) (l k : Nat) : Int := c.ea t l k * c.eb t l k
def madX (t : Ty) (c : Ctx) (l k : Nat) : Int := c.ea t l k * c.eb t l k + c.ec t l k
def add3X (t : Ty) (c : Ctx) (l k : Nat) : Int := c.ea t l k + c.eb t l k + c.ec t l k
def absX (t : Ty) (c : Ctx) (l k : Nat) : Int := (c.ea t l k).natAbs
def negX (t : Ty) (c : Ctx) (l k : Nat) : Int := -c.ea t l k

/-- The lesser or the greater of two elements, as bits. -/
def minV (t : Ty) (c : Ctx) (l : Nat) : Nat :=
  packT t fun k => if c.eb t l k < c.ea t l k then elem t (c.b l) k else elem t (c.a l) k
def maxV (t : Ty) (c : Ctx) (l : Nat) : Nat :=
  packT t fun k => if c.ea t l k < c.eb t l k then elem t (c.b l) k else elem t (c.a l) k

def movV (c : Ctx) (l : Nat) : Nat := c.b l
def andV (c : Ctx) (l : Nat) : Nat := c.a l &&& c.b l
def orV (c : Ctx) (l : Nat) : Nat := c.a l ||| c.b l
def xorV (c : Ctx) (l : Nat) : Nat := c.a l ^^^ c.b l

/-- The complement at the width of the type. -/
def notV (t : Ty) (c : Ctx) (l : Nat) : Nat := 2 ^ tyWidth t - 1 - c.a l

/-- The high half of the exact product (09 R110 `mulhi`). -/
def mulhiV (t : Ty) (c : Ctx) (l : Nat) : Nat :=
  toBits (tyWidth t) ((c.ea t l 0 * c.eb t l 0) / (2 ^ tyWidth t : Nat))

/-- The 64-bit type of `madw`'s C and D (09 R110). -/
def wideOf (t : Ty) : Ty := if t = .s32 then .s64 else .n64

/-- `madw`: 32-bit factors and a 64-bit addend (09 R110). -/
def madwX (t : Ty) (c : Ctx) (l k : Nat) : Int := c.ea t l 0 * c.eb t l 0 + c.ec (wideOf t) l k

/-- `lea`: (a + b × 2^k) mod 2^64 (09 R110). -/
def leaV (t : Ty) (k : Nat) (c : Ctx) (l : Nat) : Nat := toBits 64 ((c.a l : Int) + c.eb t l 0 * (2 ^ k : Nat))

/-- `bitf`: the result bit for each column of input bits is a bit of `fn` (09 R110). -/
def bitfV (n : Nat) (fn : Nat) (c : Ctx) (l : Nat) : Nat :=
  let a := c.a l
  let b := c.b l
  let d := c.c l
  (List.range n).foldl (fun r j =>
    if bit fn ((bit a j).toNat + 2 * (bit b j).toNat + 4 * (bit d j).toNat) then r + 2 ^ j else r) 0

/-! ### Shifts and bit fields (09 R112) -/

/-- The count of a shift for element `k`: an unsigned 32-bit value, or the element's own 16 bits in types 5 and 6. -/
def shiftCount (t : Ty) (c : Ctx) (l k : Nat) : Nat := if tyElems t = 2 then elem t (c.b l) k else c.b l % 2 ^ 32

/-- Counts at or above the width give 0. -/
def shlV (t : Ty) (c : Ctx) (l : Nat) : Nat :=
  packT t fun k =>
    let n := shiftCount t c l k
    if tyWidth t ≤ n then 0 else elem t (c.a l) k * 2 ^ n % 2 ^ tyWidth t

def shrV (t : Ty) (c : Ctx) (l : Nat) : Nat :=
  packT t fun k =>
    let n := shiftCount t c l k
    if tyWidth t ≤ n then 0 else elem t (c.a l) k / 2 ^ n

/-- Counts at or above the width give copies of the sign bit. -/
def sarV (t : Ty) (c : Ctx) (l : Nat) : Nat :=
  packT t fun k =>
    let n := Nat.min (shiftCount t c l k) (tyWidth t)
    toBits (tyWidth t) (signExt (elem t (c.a l) k) (tyWidth t) / (2 ^ n : Nat))

/-- `dsh`: the pair {B, A} shifted by a count capped at 64 or taken modulo 64. -/
def dshV (left modulo : Bool) (c : Ctx) (l : Nat) : Nat :=
  let y := c.a l + 2 ^ 32 * c.b l
  let n := if modulo then c.c l % 64 else Nat.min (c.c l) 64
  if left then y * 2 ^ n % 2 ^ 64 / 2 ^ 32 else y / 2 ^ n % 2 ^ 32

/-- `fext`: the field of L bits at p of A read as an unbounded integer. -/
def fextV (t : Ty) (c : Ctx) (l : Nat) : Nat :=
  let p := bits (c.b l) 7 0
  let n := Nat.min (bits (c.b l) 15 8) 32
  let f := toBits n (c.ea t l 0 / (2 ^ p : Nat))
  if tySigned t then toBits 32 (signExt f n) else f

/-- `fins`: the low L bits of A put into B at p. -/
def finsV (c : Ctx) (l : Nat) : Nat :=
  let p := bits (c.c l) 7 0
  let n := Nat.min (bits (c.c l) 15 8) 32
  let m := (2 ^ n - 1) * 2 ^ p % 2 ^ 32
  (c.b l &&& (2 ^ 32 - 1 - m)) ||| (c.a l * 2 ^ p % 2 ^ 32 &&& m)

/-- Leading zeros among the low `w` bits. -/
def leadZeros : Nat → Nat → Nat
  | 0, _ => 0
  | w + 1, x => if bit x w then 0 else 1 + leadZeros w x

/-- One bits among the low `w` bits. -/
def oneBits : Nat → Nat → Nat
  | 0, _ => 0
  | w + 1, x => (bit x w).toNat + oneBits w x

/-- The low `w` bits in reverse order. -/
def reverseBits : Nat → Nat → Nat
  | 0, _ => 0
  | w + 1, x => (if bit x 0 then 2 ^ w else 0) + reverseBits w (x / 2)

/-! ### Compare, select, `acs`, `sad`, `bsel` (09 R113-R115) -/

/-- The predicate pair or the element masks of a compare, from its condition on each element. -/
def compareBody (t : Ty) (any : Bool) (pd : Nat) (f : Nat → Nat → Bool) (c : Ctx) (w : Warp) : Warp :=
  match c.x.d with
  | .none _ =>
    let r (l : Nat) : Bool :=
      if any then (List.range (tyElems t)).any (f l) else (List.range (tyElems t)).all (f l)
    c.putPred pd (fun l => !r l) (c.putPred c.dPred r w)
  | _ => c.put (tyRegs t) (fun l => packT t fun k => if f l k then 2 ^ tyWidth t - 1 else 0) w

/-- `sel`: A where the predicate, inverted by `neg`, holds, else B. -/
def selV (p : Nat) (neg : Bool) (c : Ctx) (l : Nat) : Nat := if c.w.pred p l != neg then c.a l else c.b l

/-- The candidates of `acs`: a + c and b − c, exact. -/
def acsPair (t : Ty) (c : Ctx) (l k : Nat) : Int × Int := (c.ea t l k + c.ec t l k, c.eb t l k - c.ec t l k)

/-- `acs`: the lesser candidate, and the decision of each element in `m[PD + k]` (09 R114). -/
def acsBody (t : Ty) (sat : Bool) (pd : Nat) (c : Ctx) (w : Warp) : Warp :=
  let second (l k : Nat) : Bool := decide ((acsPair t c l k).2 < (acsPair t c l k).1)
  let w := c.put 1 (fun l => packT t fun k =>
    reduceInt t sat (if second l k then (acsPair t c l k).2 else (acsPair t c l k).1)) w
  if pd = 7 then w
  else (List.range (tyElems t)).foldl (fun w k => c.putPred (pd + k) (fun l => second l k) w) w

/-- `sad`: the sum of absolute differences and the addend (09 R115); `u` reads the elements of type 7 unsigned. -/
def sadX (t : Ty) (u : Bool) (c : Ctx) (l : Nat) : Int :=
  (List.range (tyElems t)).foldl (fun (acc : Int) k =>
    let d : Int := if u then ((elem t (c.a l) k : Nat) : Int) - (elem t (c.b l) k : Nat) else c.ea t l k - c.eb t l k
    acc + d.natAbs) (c.c l : Nat)

/-- `bsel`: a byte, zero, or copies of a byte's sign for each byte of the result (09 R115). -/
def bselV (c : Ctx) (l : Nat) : Nat :=
  joinElems 8 ((List.range 4).map fun k =>
    let s := bits (c.c l) (8 * k + 7) (8 * k)
    let y := (c.a l + 2 ^ 32 * c.b l) / 2 ^ (8 * (s % 8)) % 256
    if bit s 4 then 0 else if bit s 3 then (if bit y 7 then 0xFF else 0) else y)

/-! ### Meanings of the X96 rows -/

/-- `nop` (09 R110). -/
def execNop (x : Head) (w : WC) (s : State) : Host.Outcome State Fault Refusal := issueReg (.nop x w) s fun _ wp => wp

/-- `mov` (09 R110). -/
def execMov (x : Head) (w : WC) (s : State) : Host.Outcome State Fault Refusal :=
  issueReg (.mov x w) s (valBody (tyRegs w.type) movV)

/-- `add` (09 R110, R111). -/
def execAdd (x : Head) (w : WC) (s : State) : Host.Outcome State Fault Refusal :=
  issueReg (.add x w) s (arithBody w.type w.sat w.pd.toNat (addX w.type))

/-- `sub` (09 R110, R111). -/
def execSub (x : Head) (w : WC) (s : State) : Host.Outcome State Fault Refusal :=
  issueReg (.sub x w) s (arithBody w.type w.sat w.pd.toNat (subX w.type))

/-- `mul` (09 R110, R111). -/
def execMul (x : Head) (w : WC) (s : State) : Host.Outcome State Fault Refusal :=
  issueReg (.mul x w) s (arithBody w.type w.sat w.pd.toNat (mulX w.type))

/-- `mulhi` (09 R110). -/
def execMulhi (x : Head) (w : WC) (s : State) : Host.Outcome State Fault Refusal :=
  issueReg (.mulhi x w) s (valBody (tyRegs w.type) (mulhiV w.type))

/-- `mad` (09 R110, R111). -/
def execMad (x : Head) (w : WC) (s : State) : Host.Outcome State Fault Refusal :=
  issueReg (.mad x w) s (arithBody w.type w.sat w.pd.toNat (madX w.type))

/-- `madw` (09 R110, R111). -/
def execMadw (x : Head) (w : WC) (s : State) : Host.Outcome State Fault Refusal :=
  issueReg (.madw x w) s (arithBody (wideOf w.type) w.sat w.pd.toNat (madwX w.type))

/-- `lea` (09 R110). -/
def execLea (x : Head) (w : WC) (s : State) : Host.Outcome State Fault Refusal :=
  issueReg (.lea x w) s (valBody 2 (leaV w.type (x.sub.toNat % 8)))

/-- `add3` (09 R110, R111). -/
def execAdd3 (x : Head) (w : WC) (s : State) : Host.Outcome State Fault Refusal :=
  issueReg (.add3 x w) s (arithBody w.type w.sat w.pd.toNat (add3X w.type))

/-- `min` (09 R110). -/
def execMin (x : Head) (w : WC) (s : State) : Host.Outcome State Fault Refusal :=
  issueReg (.min x w) s (valBody (tyRegs w.type) (minV w.type))

/-- `max` (09 R110). -/
def execMax (x : Head) (w : WC) (s : State) : Host.Outcome State Fault Refusal :=
  issueReg (.max x w) s (valBody (tyRegs w.type) (maxV w.type))

/-- `abs` (09 R110, R111). -/
def execAbs (x : Head) (w : WC) (s : State) : Host.Outcome State Fault Refusal :=
  issueReg (.abs x w) s (arithBody w.type w.sat w.pd.toNat (absX w.type))

/-- `neg` (09 R110, R111). -/
def execNeg (x : Head) (w : WC) (s : State) : Host.Outcome State Fault Refusal :=
  issueReg (.neg x w) s (arithBody w.type w.sat w.pd.toNat (negX w.type))

/-- `and` (09 R110). -/
def execAnd (x : Head) (w : WC) (s : State) : Host.Outcome State Fault Refusal :=
  issueReg (.and x w) s (valBody (tyRegs w.type) andV)

/-- `or` (09 R110). -/
def execOr (x : Head) (w : WC) (s : State) : Host.Outcome State Fault Refusal :=
  issueReg (.or x w) s (valBody (tyRegs w.type) orV)

/-- `xor` (09 R110). -/
def execXor (x : Head) (w : WC) (s : State) : Host.Outcome State Fault Refusal :=
  issueReg (.xor x w) s (valBody (tyRegs w.type) xorV)

/-- `not` (09 R110). -/
def execNot (x : Head) (w : WC) (s : State) : Host.Outcome State Fault Refusal :=
  issueReg (.not x w) s (valBody (tyRegs w.type) (notV w.type))

/-- `bitf` (09 R110). -/
def execBitf (x : Head) (w : WC) (s : State) : Host.Outcome State Fault Refusal :=
  issueReg (.bitf x w) s (valBody (tyRegs w.type) (bitfV (tyWidth w.type) (w.imm.toNat % 256)))

/-- `shl` (09 R112). -/
def execShl (x : Head) (w : WC) (s : State) : Host.Outcome State Fault Refusal :=
  issueReg (.shl x w) s (valBody (tyRegs w.type) (shlV w.type))

/-- `shr` (09 R112). -/
def execShr (x : Head) (w : WC) (s : State) : Host.Outcome State Fault Refusal :=
  issueReg (.shr x w) s (valBody (tyRegs w.type) (shrV w.type))

/-- `sar` (09 R112). -/
def execSar (x : Head) (w : WC) (s : State) : Host.Outcome State Fault Refusal :=
  issueReg (.sar x w) s (valBody (tyRegs w.type) (sarV w.type))

/-- `dsh` (09 R112). -/
def execDsh (x : Head) (w : WC) (s : State) : Host.Outcome State Fault Refusal :=
  issueReg (.dsh x w) s (valBody 1 (dshV (bit x.sub.toNat 0) (bit x.sub.toNat 1)))

/-- `fext` (09 R112). -/
def execFext (x : Head) (w : WC) (s : State) : Host.Outcome State Fault Refusal :=
  issueReg (.fext x w) s (valBody 1 (fextV w.type))

/-- `fins` (09 R112). -/
def execFins (x : Head) (w : WC) (s : State) : Host.Outcome State Fault Refusal :=
  issueReg (.fins x w) s (valBody 1 finsV)

/-- `clz` (09 R110). -/
def execClz (x : Head) (w : WC) (s : State) : Host.Outcome State Fault Refusal :=
  issueReg (.clz x w) s (valBody 1 fun c l => leadZeros (tyWidth w.type) (c.a l))

/-- `popc` (09 R110). -/
def execPopc (x : Head) (w : WC) (s : State) : Host.Outcome State Fault Refusal :=
  issueReg (.popc x w) s (valBody 1 fun c l => oneBits (tyWidth w.type) (c.a l))

/-- `brev` (09 R110). -/
def execBrev (x : Head) (w : WC) (s : State) : Host.Outcome State Fault Refusal :=
  issueReg (.brev x w) s (valBody (tyRegs w.type) fun c l => reverseBits (tyWidth w.type) (c.a l))

/-- `cmp` (09 R113). -/
def execCmp (x : Head) (w : WC) (s : State) : Host.Outcome State Fault Refusal :=
  issueReg (.cmp x w) s fun c wp =>
    compareBody w.type (bit x.sub.toNat 0) w.pd.toNat
      (fun l k => intCond w.cond.toNat (c.ea w.type l k) (c.eb w.type l k)) c wp

/-- `sel` (09 R113). -/
def execSel (x : Head) (w : WC) (s : State) : Host.Outcome State Fault Refusal :=
  issueReg (.sel x w) s (valBody (tyRegs w.type) (selV (x.sub.toNat % 8) (bit x.sub.toNat 3)))

/-- `acs` (09 R114). -/
def execAcs (x : Head) (w : WC) (s : State) : Host.Outcome State Fault Refusal :=
  issueReg (.acs x w) s (acsBody w.type w.sat w.pd.toNat)

/-- `sad` (09 R115). -/
def execSad (x : Head) (w : WC) (s : State) : Host.Outcome State Fault Refusal :=
  issueReg (.sad x w) s (arithBody .n32 w.sat w.pd.toNat fun c l _ => sadX w.type (bit x.sub.toNat 0) c l)

/-- `bsel` (09 R115). -/
def execBsel (x : Head) (w : WC) (s : State) : Host.Outcome State Fault Refusal :=
  issueReg (.bsel x w) s (valBody 1 bselV)

/-! ### Meanings of the B32 rows (07 R77) -/

/-- `nop`. -/
def execB32Nop (w : B32) (s : State) : Host.Outcome State Fault Refusal := issueReg (.b32Nop w) s fun _ wp => wp

/-- `mov.b32`. -/
def execB32Mov (w : B32) (s : State) : Host.Outcome State Fault Refusal := issueReg (.b32Mov w) s (valBody 1 movV)

/-- `add.s32`. -/
def execB32AddS32 (w : B32) (s : State) : Host.Outcome State Fault Refusal :=
  issueReg (.b32AddS32 w) s (arithBody .s32 false 7 (addX .s32))

/-- `sub.s32`. -/
def execB32SubS32 (w : B32) (s : State) : Host.Outcome State Fault Refusal :=
  issueReg (.b32SubS32 w) s (arithBody .s32 false 7 (subX .s32))

/-- `mul.s32`. -/
def execB32MulS32 (w : B32) (s : State) : Host.Outcome State Fault Refusal :=
  issueReg (.b32MulS32 w) s (arithBody .s32 false 7 (mulX .s32))

/-- `and.b32`. -/
def execB32And (w : B32) (s : State) : Host.Outcome State Fault Refusal := issueReg (.b32And w) s (valBody 1 andV)

/-- `or.b32`. -/
def execB32Or (w : B32) (s : State) : Host.Outcome State Fault Refusal := issueReg (.b32Or w) s (valBody 1 orV)

/-- `xor.b32`. -/
def execB32Xor (w : B32) (s : State) : Host.Outcome State Fault Refusal := issueReg (.b32Xor w) s (valBody 1 xorV)

/-- `shl.b32`. -/
def execB32Shl (w : B32) (s : State) : Host.Outcome State Fault Refusal :=
  issueReg (.b32Shl w) s (valBody 1 (shlV .b32))

/-- `shr.b32`. -/
def execB32Shr (w : B32) (s : State) : Host.Outcome State Fault Refusal :=
  issueReg (.b32Shr w) s (valBody 1 (shrV .b32))

/-- `sar.s32`. -/
def execB32Sar (w : B32) (s : State) : Host.Outcome State Fault Refusal :=
  issueReg (.b32Sar w) s (valBody 1 (sarV .s32))

/-- `min.s32`. -/
def execB32MinS32 (w : B32) (s : State) : Host.Outcome State Fault Refusal :=
  issueReg (.b32MinS32 w) s (valBody 1 (minV .s32))

/-- `max.s32`. -/
def execB32MaxS32 (w : B32) (s : State) : Host.Outcome State Fault Refusal :=
  issueReg (.b32MaxS32 w) s (valBody 1 (maxV .s32))

/-- `min.n32`. -/
def execB32MinN32 (w : B32) (s : State) : Host.Outcome State Fault Refusal :=
  issueReg (.b32MinN32 w) s (valBody 1 (minV .n32))

/-- `max.n32`. -/
def execB32MaxN32 (w : B32) (s : State) : Host.Outcome State Fault Refusal :=
  issueReg (.b32MaxN32 w) s (valBody 1 (maxV .n32))

/-- `add.s16x2`. -/
def execB32AddS16x2 (w : B32) (s : State) : Host.Outcome State Fault Refusal :=
  issueReg (.b32AddS16x2 w) s (arithBody .s16x2 false 7 (addX .s16x2))

/-- `sub.s16x2`. -/
def execB32SubS16x2 (w : B32) (s : State) : Host.Outcome State Fault Refusal :=
  issueReg (.b32SubS16x2 w) s (arithBody .s16x2 false 7 (subX .s16x2))

/-- `max.s16x2`. -/
def execB32MaxS16x2 (w : B32) (s : State) : Host.Outcome State Fault Refusal :=
  issueReg (.b32MaxS16x2 w) s (valBody 1 (maxV .s16x2))

/-- `min.s16x2`. -/
def execB32MinS16x2 (w : B32) (s : State) : Host.Outcome State Fault Refusal :=
  issueReg (.b32MinS16x2 w) s (valBody 1 (minV .s16x2))

end Sys2Proof.Machine
end

