-- ==== Sys2Proof/Machine/Dispatch.lean ====
section
/-! DEFINITION. Every instruction and device step dispatched to its meaning. -/

namespace Sys2Proof.Machine

def exec (i : Instr) (s : State) : Host.Outcome State Fault Refusal :=
  match i with
  | .nop x w => Sys2Proof.Machine.execNop x w s
  | .mov x w => Sys2Proof.Machine.execMov x w s
  | .add x w => Sys2Proof.Machine.execAdd x w s
  | .sub x w => Sys2Proof.Machine.execSub x w s
  | .mul x w => Sys2Proof.Machine.execMul x w s
  | .mulhi x w => Sys2Proof.Machine.execMulhi x w s
  | .mad x w => Sys2Proof.Machine.execMad x w s
  | .madw x w => Sys2Proof.Machine.execMadw x w s
  | .lea x w => Sys2Proof.Machine.execLea x w s
  | .add3 x w => Sys2Proof.Machine.execAdd3 x w s
  | .min x w => Sys2Proof.Machine.execMin x w s
  | .max x w => Sys2Proof.Machine.execMax x w s
  | .abs x w => Sys2Proof.Machine.execAbs x w s
  | .neg x w => Sys2Proof.Machine.execNeg x w s
  | .and x w => Sys2Proof.Machine.execAnd x w s
  | .or x w => Sys2Proof.Machine.execOr x w s
  | .xor x w => Sys2Proof.Machine.execXor x w s
  | .not x w => Sys2Proof.Machine.execNot x w s
  | .bitf x w => Sys2Proof.Machine.execBitf x w s
  | .shl x w => Sys2Proof.Machine.execShl x w s
  | .shr x w => Sys2Proof.Machine.execShr x w s
  | .sar x w => Sys2Proof.Machine.execSar x w s
  | .dsh x w => Sys2Proof.Machine.execDsh x w s
  | .fext x w => Sys2Proof.Machine.execFext x w s
  | .fins x w => Sys2Proof.Machine.execFins x w s
  | .clz x w => Sys2Proof.Machine.execClz x w s
  | .popc x w => Sys2Proof.Machine.execPopc x w s
  | .brev x w => Sys2Proof.Machine.execBrev x w s
  | .cmp x w => Sys2Proof.Machine.execCmp x w s
  | .sel x w => Sys2Proof.Machine.execSel x w s
  | .acs x w => Sys2Proof.Machine.execAcs x w s
  | .sad x w => Sys2Proof.Machine.execSad x w s
  | .bsel x w => Sys2Proof.Machine.execBsel x w s
  | .pset x w => Sys2Proof.Machine.execPset x w s
  | .vote x w => Sys2Proof.Machine.execVote x w s
  | .ballot x w => Sys2Proof.Machine.execBallot x w s
  | .mcnt x w => Sys2Proof.Machine.execMcnt x w s
  | .xlane x w => Sys2Proof.Machine.execXlane x w s
  | .bcast x w => Sys2Proof.Machine.execBcast x w s
  | .wred x w => Sys2Proof.Machine.execWred x w s
  | .wscan x w => Sys2Proof.Machine.execWscan x w s
  | .vget x w => Sys2Proof.Machine.execVget x w s
  | .vput x w => Sys2Proof.Machine.execVput x w s
  | .xset x w => Sys2Proof.Machine.execXset x w s
  | .bmov x w => Sys2Proof.Machine.execBmov x w s
  | .bpass x w => Sys2Proof.Machine.execBpass x w s
  | .smov x w => Sys2Proof.Machine.execSmov x w s
  | .fadd x w => Sys2Proof.Machine.execFadd x w s
  | .fsub x w => Sys2Proof.Machine.execFsub x w s
  | .fmul x w => Sys2Proof.Machine.execFmul x w s
  | .ffma x w => Sys2Proof.Machine.execFfma x w s
  | .fmin x w => Sys2Proof.Machine.execFmin x w s
  | .fmax x w => Sys2Proof.Machine.execFmax x w s
  | .fcmp x w => Sys2Proof.Machine.execFcmp x w s
  | .frnd x w => Sys2Proof.Machine.execFrnd x w s
  | .rcp x w => Sys2Proof.Machine.execRcp x w s
  | .rsqrt x w => Sys2Proof.Machine.execRsqrt x w s
  | .sqrt x w => Sys2Proof.Machine.execSqrt x w s
  | .exp2 x w => Sys2Proof.Machine.execExp2 x w s
  | .log2 x w => Sys2Proof.Machine.execLog2 x w s
  | .sinpi x w => Sys2Proof.Machine.execSinpi x w s
  | .cospi x w => Sys2Proof.Machine.execCospi x w s
  | .fdot2 x w => Sys2Proof.Machine.execFdot2 x w s
  | .cvt x w => Sys2Proof.Machine.execCvt x w s
  | .cvtq x w => Sys2Proof.Machine.execCvtq x w s
  | .cvtd x w => Sys2Proof.Machine.execCvtd x w s
  | .pack x w => Sys2Proof.Machine.execPack x w s
  | .unpack x w => Sys2Proof.Machine.execUnpack x w s
  | .fclass x w => Sys2Proof.Machine.execFclass x w s
  | .fscale x w => Sys2Proof.Machine.execFscale x w s
  | .bra x w => Sys2Proof.Machine.execBra x w s
  | .brx x w => Sys2Proof.Machine.execBrx x w s
  | .call x w => Sys2Proof.Machine.execCall x w s
  | .callR x w => Sys2Proof.Machine.execCallR x w s
  | .ret x w => Sys2Proof.Machine.execRet x w s
  | .exit x w => Sys2Proof.Machine.execExit x w s
  | .meet x w => Sys2Proof.Machine.execMeet x w s
  | .trap x w => Sys2Proof.Machine.execTrap x w s
  | .tret x w => Sys2Proof.Machine.execTret x w s
  | .yield x w => Sys2Proof.Machine.execYield x w s
  | .brk x w => Sys2Proof.Machine.execBrk x w s
  | .mfsr x w => Sys2Proof.Machine.execMfsr x w s
  | .mtsr x w => Sys2Proof.Machine.execMtsr x w s
  | .ld x w => Sys2Proof.Machine.execLd x w s
  | .st x w => Sys2Proof.Machine.execSt x w s
  | .ldg4 x w => Sys2Proof.Machine.execLdg4 x w s
  | .atom x w => Sys2Proof.Machine.execAtom x w s
  | .red x w => Sys2Proof.Machine.execRed x w s
  | .prefetch x w => Sys2Proof.Machine.execPrefetch x w s
  | .fence x w => Sys2Proof.Machine.execFence x w s
  | .waita x w => Sys2Proof.Machine.execWaita x w s
  | .smap x w => Sys2Proof.Machine.execSmap x w s
  | .swb x w => Sys2Proof.Machine.execSwb x w s
  | .cflush x w => Sys2Proof.Machine.execCflush x w s
  | .bellInit x w => Sys2Proof.Machine.execBellInit x w s
  | .bellArr x w => Sys2Proof.Machine.execBellArr x w s
  | .bellWait x w => Sys2Proof.Machine.execBellWait x w s
  | .fset x w => Sys2Proof.Machine.execFset x w s
  | .fon x w => Sys2Proof.Machine.execFon x w s
  | .qres x w => Sys2Proof.Machine.execQres x w s
  | .qcom x w => Sys2Proof.Machine.execQcom x w s
  | .qtake x w => Sys2Proof.Machine.execQtake x w s
  | .spawn x w => Sys2Proof.Machine.execSpawn x w s
  | .cpy x w => Sys2Proof.Machine.execCpy x w s
  | .qfen x w => Sys2Proof.Machine.execQfen x w s
  | .tcfg x w => Sys2Proof.Machine.execTcfg x w s
  | .bres x w => Sys2Proof.Machine.execBres x w s
  | .brel x w => Sys2Proof.Machine.execBrel x w s
  | .tload x w => Sys2Proof.Machine.execTload x w s
  | .mma x w => Sys2Proof.Machine.execMma x w s
  | .tdrain x w => Sys2Proof.Machine.execTdrain x w s
  | .tzero x w => Sys2Proof.Machine.execTzero x w s
  | .tquant x w => Sys2Proof.Machine.execTquant x w s
  | .mstat x w => Sys2Proof.Machine.execMstat x w s
  | .sopen x w => Sys2Proof.Machine.execSopen x w s
  | .senter x w => Sys2Proof.Machine.execSenter x w s
  | .sleave x w => Sys2Proof.Machine.execSleave x w s
  | .sskip x w => Sys2Proof.Machine.execSskip x w s
  | .stake x w => Sys2Proof.Machine.execStake x w s
  | .rast x w => Sys2Proof.Machine.execRast x w s
  | .fdone x w => Sys2Proof.Machine.execFdone x w s
  | .fpois x w => Sys2Proof.Machine.execFpois x w s
  | .b32Nop w => Sys2Proof.Machine.execB32Nop w s
  | .b32Mov w => Sys2Proof.Machine.execB32Mov w s
  | .b32AddS32 w => Sys2Proof.Machine.execB32AddS32 w s
  | .b32SubS32 w => Sys2Proof.Machine.execB32SubS32 w s
  | .b32MulS32 w => Sys2Proof.Machine.execB32MulS32 w s
  | .b32And w => Sys2Proof.Machine.execB32And w s
  | .b32Or w => Sys2Proof.Machine.execB32Or w s
  | .b32Xor w => Sys2Proof.Machine.execB32Xor w s
  | .b32Shl w => Sys2Proof.Machine.execB32Shl w s
  | .b32Shr w => Sys2Proof.Machine.execB32Shr w s
  | .b32Sar w => Sys2Proof.Machine.execB32Sar w s
  | .b32MinS32 w => Sys2Proof.Machine.execB32MinS32 w s
  | .b32MaxS32 w => Sys2Proof.Machine.execB32MaxS32 w s
  | .b32MinN32 w => Sys2Proof.Machine.execB32MinN32 w s
  | .b32MaxN32 w => Sys2Proof.Machine.execB32MaxN32 w s
  | .b32FaddF32 w => Sys2Proof.Machine.execB32FaddF32 w s
  | .b32FsubF32 w => Sys2Proof.Machine.execB32FsubF32 w s
  | .b32FmulF32 w => Sys2Proof.Machine.execB32FmulF32 w s
  | .b32FminF32 w => Sys2Proof.Machine.execB32FminF32 w s
  | .b32FmaxF32 w => Sys2Proof.Machine.execB32FmaxF32 w s
  | .b32FaddF16x2 w => Sys2Proof.Machine.execB32FaddF16x2 w s
  | .b32FmulF16x2 w => Sys2Proof.Machine.execB32FmulF16x2 w s
  | .b32FaddBf16x2 w => Sys2Proof.Machine.execB32FaddBf16x2 w s
  | .b32FmulBf16x2 w => Sys2Proof.Machine.execB32FmulBf16x2 w s
  | .b32AddS16x2 w => Sys2Proof.Machine.execB32AddS16x2 w s
  | .b32SubS16x2 w => Sys2Proof.Machine.execB32SubS16x2 w s
  | .b32MaxS16x2 w => Sys2Proof.Machine.execB32MaxS16x2 w s
  | .b32MinS16x2 w => Sys2Proof.Machine.execB32MinS16x2 w s
  | .b32XlaneFrom w => Sys2Proof.Machine.execB32XlaneFrom w s
  | .b32XlaneSwap w => Sys2Proof.Machine.execB32XlaneSwap w s
  | .b32Bcast w => Sys2Proof.Machine.execB32Bcast w s
  | .issueArbitration a b => Sys2Proof.Machine.execIssueArbitration a b s
  | .maskPredictionRepair a b c => Sys2Proof.Machine.execMaskPredictionRepair a b c s
  | .resultReturn a b c d e f => Sys2Proof.Machine.execResultReturn a b c d e f s
  | .lineRequest a b c d => Sys2Proof.Machine.execLineRequest a b c d s
  | .fillRecordWaitServed a b => Sys2Proof.Machine.execFillRecordWaitServed a b s
  | .fillTaskPlace a => Sys2Proof.Machine.execFillTaskPlace a s
  | .fillRelease a b c => Sys2Proof.Machine.execFillRelease a b c s
  | .copyExecute a b => Sys2Proof.Machine.execCopyExecute a b s
  | .copyComplete a b => Sys2Proof.Machine.execCopyComplete a b s
  | .continuationCommit a => Sys2Proof.Machine.execContinuationCommit a s
  | .hodTloadExecute a => Sys2Proof.Machine.execHodTloadExecute a s
  | .tcfgBarrier a => Sys2Proof.Machine.execTcfgBarrier a s
  | .mmaExecute a b => Sys2Proof.Machine.execMmaExecute a b s
  | .mmaComplete a => Sys2Proof.Machine.execMmaComplete a s
  | .tdrainExecute a => Sys2Proof.Machine.execTdrainExecute a s
  | .tquantExecute a => Sys2Proof.Machine.execTquantExecute a s
  | .tzeroExecute a => Sys2Proof.Machine.execTzeroExecute a s
  | .mstatReport a b c => Sys2Proof.Machine.execMstatReport a b c s
  | .stallBudgetExpiry a b => Sys2Proof.Machine.execStallBudgetExpiry a b s
  | .stallCount a => Sys2Proof.Machine.execStallCount a s
  | .rasterBatch a => Sys2Proof.Machine.execRasterBatch a s
  | .tileKeyOpen a => Sys2Proof.Machine.execTileKeyOpen a s
  | .rasterBatchComplete a => Sys2Proof.Machine.execRasterBatchComplete a s
  | .crewDispatch a => Sys2Proof.Machine.execCrewDispatch a s
  | .parkedEviction a => Sys2Proof.Machine.execParkedEviction a s
  | .crewSave a b => Sys2Proof.Machine.execCrewSave a b s
  | .saveDeferLimit a b => Sys2Proof.Machine.execSaveDeferLimit a b s
  | .crewRetire a b => Sys2Proof.Machine.execCrewRetire a b s
  | .jobEnd a b => Sys2Proof.Machine.execJobEnd a b s
  | .completionRecordWrite a => Sys2Proof.Machine.execCompletionRecordWrite a s
  | .doorbell a b => Sys2Proof.Machine.execDoorbell a b s
  | .launch a => Sys2Proof.Machine.execLaunch a s
  | .jobBind a => Sys2Proof.Machine.execJobBind a s
  | .config a => Sys2Proof.Machine.execConfig a s
  | .coreMove a => Sys2Proof.Machine.execCoreMove a s
  | .tlbinv a => Sys2Proof.Machine.execTlbinv a s
  | .pageres a => Sys2Proof.Machine.execPageres a s
  | .genwr a => Sys2Proof.Machine.execGenwr a s
  | .geninv a => Sys2Proof.Machine.execGeninv a s
  | .bias a => Sys2Proof.Machine.execBias a s
  | .counters a => Sys2Proof.Machine.execCounters a s
  | .rackrd a => Sys2Proof.Machine.execRackrd a s
  | .retired a => Sys2Proof.Machine.execRetired a s
  | .scrub a => Sys2Proof.Machine.execScrub a s
  | .settime a => Sys2Proof.Machine.execSettime a s
  | .layertest a => Sys2Proof.Machine.execLayertest a s
  | .power a => Sys2Proof.Machine.execPower a s
  | .attest a => Sys2Proof.Machine.execAttest a s
  | .q0hdr a => Sys2Proof.Machine.execQ0hdr a s
  | .reset a => Sys2Proof.Machine.execReset a s
  | .registerWriteIgnored a b => Sys2Proof.Machine.execRegisterWriteIgnored a b s
  | .helper a b => Sys2Proof.Machine.execHelper a b s
  | .hwselHelperPart a => Sys2Proof.Machine.execHwselHelperPart a s
  | .hwselRepairEntry a => Sys2Proof.Machine.execHwselRepairEntry a s
  | .hwselHelperComplete a => Sys2Proof.Machine.execHwselHelperComplete a s
  | .hwselEnrol a => Sys2Proof.Machine.execHwselEnrol a s
  | .i3cDynamicAddress a => Sys2Proof.Machine.execI3cDynamicAddress a s
  | .railsStable => Sys2Proof.Machine.execRailsStable s
  | .train a => Sys2Proof.Machine.execTrain a s
  | .march a => Sys2Proof.Machine.execMarch a s
  | .hostMemRead a b => Sys2Proof.Machine.execHostMemRead a b s
  | .hostMemWrite a b => Sys2Proof.Machine.execHostMemWrite a b s
  | .hbmCorrected a => Sys2Proof.Machine.execHbmCorrected a s
  | .hbmUncorrectable a => Sys2Proof.Machine.execHbmUncorrectable a s
  | .llcCorrected a b c => Sys2Proof.Machine.execLlcCorrected a b c s
  | .llcUeClean a b c => Sys2Proof.Machine.execLlcUeClean a b c s
  | .llcUeDirty a b c => Sys2Proof.Machine.execLlcUeDirty a b c s
  | .sramUncorrectable a b => Sys2Proof.Machine.execSramUncorrectable a b s
  | .powerLoopEval a b c => Sys2Proof.Machine.execPowerLoopEval a b c s
  | .thermalThrottle a => Sys2Proof.Machine.execThermalThrottle a s
  | .thermalTrip => Sys2Proof.Machine.execThermalTrip s
  | .dieFallsBelow100c => Sys2Proof.Machine.execDieFallsBelow100c s
  | .channelRefresh a => Sys2Proof.Machine.execChannelRefresh a s

end Sys2Proof.Machine
end

