-- ==== Sys2Proof/WellFormed.lean ====
section
/-! DEFINITION. Well-formed instructions: the warp instructions whose words break none of the rules of 07 R82, and the steps of the
device's other agents whose arguments name things that exist. -/

namespace Sys2Proof

open Sys2Proof.Machine

/-- A core number (01 R12). -/
def coreOk (c : Nat) : Bool := decide (c < 96)

/-- A slot number (03 R29). -/
def slotOk (k : Nat) : Bool := decide (k < 32)

/-- A partition number (01 R21). -/
def partOk (p : Nat) : Bool := decide (p < 8)

/-- The arguments of a device step name cores, slots, slices, queues and partitions that exist (01 R12, R21, 03 R29, R30, 13 R207).
A warp instruction is no device step. -/
def eventOk : Instr → Bool
  | .nop _ _ | .mov _ _ | .add _ _ | .sub _ _ | .mul _ _ | .mulhi _ _ | .mad _ _ | .madw _ _ | .lea _ _ | .add3 _ _
  | .min _ _ | .max _ _ | .abs _ _ | .neg _ _ | .and _ _ | .or _ _ | .xor _ _ | .not _ _ | .bitf _ _ | .shl _ _
  | .shr _ _ | .sar _ _ | .dsh _ _ | .fext _ _ | .fins _ _ | .clz _ _ | .popc _ _ | .brev _ _ | .cmp _ _ | .sel _ _
  | .acs _ _ | .sad _ _ | .bsel _ _ | .pset _ _ | .vote _ _ | .ballot _ _ | .mcnt _ _ | .xlane _ _ | .bcast _ _
  | .wred _ _ | .wscan _ _ | .vget _ _ | .vput _ _ | .xset _ _ | .bmov _ _ | .bpass _ _ | .smov _ _ | .fadd _ _
  | .fsub _ _ | .fmul _ _ | .ffma _ _ | .fmin _ _ | .fmax _ _ | .fcmp _ _ | .frnd _ _ | .rcp _ _ | .rsqrt _ _
  | .sqrt _ _ | .exp2 _ _ | .log2 _ _ | .sinpi _ _ | .cospi _ _ | .fdot2 _ _ | .cvt _ _ | .cvtq _ _ | .cvtd _ _
  | .pack _ _ | .unpack _ _ | .fclass _ _ | .fscale _ _ | .bra _ _ | .brx _ _ | .call _ _ | .callR _ _ | .ret _ _
  | .exit _ _ | .meet _ _ | .trap _ _ | .tret _ _ | .yield _ _ | .brk _ _ | .mfsr _ _ | .mtsr _ _ | .ld _ _
  | .st _ _ | .ldg4 _ _ | .atom _ _ | .red _ _ | .prefetch _ _ | .fence _ _ | .waita _ _ | .smap _ _ | .swb _ _
  | .cflush _ _ | .bellInit _ _ | .bellArr _ _ | .bellWait _ _ | .fset _ _ | .fon _ _ | .qres _ _ | .qcom _ _
  | .qtake _ _ | .spawn _ _ | .cpy _ _ | .qfen _ _ | .tcfg _ _ | .bres _ _ | .brel _ _ | .tload _ _ | .mma _ _
  | .tdrain _ _ | .tzero _ _ | .tquant _ _ | .mstat _ _ | .sopen _ _ | .senter _ _ | .sleave _ _ | .sskip _ _
  | .stake _ _ | .rast _ _ | .fdone _ _ | .fpois _ _ | .b32Nop _ | .b32Mov _ | .b32AddS32 _ | .b32SubS32 _
  | .b32MulS32 _ | .b32And _ | .b32Or _ | .b32Xor _ | .b32Shl _ | .b32Shr _ | .b32Sar _ | .b32MinS32 _ | .b32MaxS32 _
  | .b32MinN32 _ | .b32MaxN32 _ | .b32FaddF32 _ | .b32FsubF32 _ | .b32FmulF32 _ | .b32FminF32 _ | .b32FmaxF32 _
  | .b32FaddF16x2 _ | .b32FmulF16x2 _ | .b32FaddBf16x2 _ | .b32FmulBf16x2 _ | .b32AddS16x2 _ | .b32SubS16x2 _
  | .b32MaxS16x2 _ | .b32MinS16x2 _ | .b32XlaneFrom _ | .b32XlaneSwap _ | .b32Bcast _ => false
  | .issueArbitration c q => coreOk c && decide (q < 4)
  | .maskPredictionRepair c k w | .mstatReport c k w => coreOk c && slotOk k && decide (w < 32)
  | .resultReturn c k w _ ls _ => coreOk c && slotOk k && decide (w < 32) && ls.all fun l => decide (l < 128)
  | .lineRequest c _ p _ => coreOk c && decide (p.toNat < 6)
  | .fillRecordWaitServed h l => coreOk h && decide (l < 4)
  | .fillTaskPlace h | .stallCount h => coreOk h
  | .fillRelease h _ l => coreOk h && decide (l < 4)
  | .copyExecute c q | .copyComplete c q => coreOk c && decide (q < 4)
  | .continuationCommit _ => true
  | .hodTloadExecute c | .tcfgBarrier c | .mmaComplete c | .tdrainExecute c | .tquantExecute c | .tzeroExecute c
  | .crewDispatch c | .parkedEviction c | .coreMove c => coreOk c
  | .mmaExecute c fs => coreOk c && fs.all fun f => decide (f.2 < 4)
  | .stallBudgetExpiry h e => coreOk h && decide (e < 512)
  | .rasterBatch u | .tileKeyOpen u | .rasterBatchComplete u => decide (u < 8)
  | .crewSave c k | .saveDeferLimit c k | .crewRetire c k | .sramUncorrectable c k => coreOk c && slotOk k
  | .jobEnd p j => partOk p && decide (j < 256)
  | .completionRecordWrite p | .doorbell p _ | .launch p | .jobBind p | .config p | .tlbinv p | .pageres p | .genwr p
  | .geninv p | .bias p | .counters p | .rackrd p | .retired p | .scrub p | .settime p | .layertest p | .power p
  | .attest p => partOk p
  | .q0hdr _ | .reset _ | .registerWriteIgnored _ _ | .hwselHelperPart _ | .hwselRepairEntry _ | .hwselHelperComplete _
  | .hwselEnrol _ | .i3cDynamicAddress _ | .railsStable | .train _ | .hostMemRead _ _ | .hostMemWrite _ _ | .hbmCorrected _
  | .hbmUncorrectable _ | .thermalTrip | .dieFallsBelow100c => true
  | .helper o bs => decide (o + bs.length ≤ 256)
  | .march fs => fs.all fun f => coreOk f.1 && decide (f.2.1 < 2) && decide (f.2.2.1 < 32) && decide (f.2.2.2 < 4096)
  | .llcCorrected h n w | .llcUeClean h n w | .llcUeDirty h n w =>
    coreOk h && decide (n < 3072) && decide (w < 16)
  | .powerLoopEval a b q =>
    a.all (fun x => coreOk x.1 && decide (x.2 < 4)) && b.all (fun x => coreOk x.1 && decide (x.2 < 4)) &&
      q.all fun x => coreOk x.1 && decide (x.2.1 < 4)
  | .thermalThrottle col => decide (col < 96)
  | .channelRefresh ch => decide (ch < 96)

/-- The instruction's words are legal (07 R82), or its arguments name what exists. -/
def Instr.wf (i : Instr) : Bool := encOk i || eventOk i

end Sys2Proof
end

