-- ==== Sys2Proof/Machine/Step.lean ====
section
/-! DEFINITION. One step of the machine: the picked warp issues its next instruction, or the agent whose turn it is moves. -/

namespace Sys2Proof.Machine

/-- One step. A picked split issues (19 R274); otherwise the first move of the agenda is made, one that is no device step being dropped;
with an empty agenda the device's agents move by themselves (notes/assumptions/1.md). -/
def step (s : State) : Host.Outcome State Fault Refusal :=
  match s.picked with
  | some p =>
    match s.fetch p with
    | .run i s' => exec i s'
    | .done s' => .next s'
  | none =>
    match s.agenda with
    | i :: r => if eventOk i then exec i { s with agenda := r } else .next { s with agenda := r }
    | [] =>
      match s.nextEvent with
      | some m => exec m.2 { s with turn := m.1 + 1 }
      | none => .next s

/-- The page that `withFetchWord` uses, as virtual and as physical address. -/
def bootPage : Nat := 0x100000

/-- The descriptor of the job that `withFetchWord` places: one crew of one width-32 warp with every register. -/
def bootDesc : JobDesc :=
  { shape := { width := 32, warps := 1, vregs := 256, sregs := 64, stash := 0, entry := 0x100000, handler := 0, param := 0
               cor := false, strict := false }
    dimx := 1, dimy := 1, dimz := 1, prio := 2, done := 0, tag := 0 }

/-- `s` with an instruction placed at the program counter of a warp that has just started and been picked: the launch of a job of one
crew stands for the path by which a program comes to run (notes/assumptions/12.md). -/
def State.withFetchWord (s : State) (nbits w : Nat) : State :=
  let warp : Warp := { splits := [{ lanes := List.range 32, pc := BitVec.ofNat 64 bootPage, st := .run }] }
  let crew : Crew :=
    { uid := s.crewCtr, kind := .ordinary, shape := bootDesc.shape, part := 0, job := 0, asn := 1, root := 0x200000
      cx := 0, cy := 0, cz := 0, report := 0, prio := 2, cls := 2, warps := [(0, warp)] }
  let job : Job :=
    { desc := bootDesc, cseq := 0, asn := 1, root := 0x200000, lseq := 0, crews := 1, fault := none, bad := 0
      term := none }
  let tlb : TlbEnt :=
    { part := 0, asn := 1, root := 0x200000, vpage := bootPage / 2 ^ 16, large := false
      leaf := BitVec.ofNat 64 (bootPage + 0x1B7), leafPa := 0x200000 }
  let c := s.core 0
  let p := s.part 0
  let s := s.setCore 0 { c with part := some 0, crews := Store.put c.crews 0 crew, tlb := tlb :: c.tlb }
  let s := s.setPart 0 { p with configured := true, jobs := Store.put p.jobs 0 job }
  { s with
    mgmt := { s.mgmt with boot := 5 }
    crewCtr := s.crewCtr + 1
    mem := memPut s.mem bootPage (bytesLE 20 (w % 2 ^ nbits))
    picked := some { core := 0, slot := 0, warp := 0, lane := 0 } }

end Sys2Proof.Machine
end

