-- ==== Sys2Proof/Safety.lean ====
section
/-! DEFINITION. What counts as a safe state and a safe run, in the words claims use. -/

namespace Sys2Proof.Machine

/-- Memory is in its one canonical form: addresses rise strictly and no entry equals what an unlisted address reads as. -/
abbrev Memory.wf (m : List Host.Cell) : Prop := Store.wf m (0 : Byte) = true

end Sys2Proof.Machine
end

