-- ==== Sys2Proof/Certificates/Slice0/Obligations.lean ====
section
/-! DEFINITION. The statements for the provers, by family, with the words they use. -/

namespace Sys2Proof.Claims

open Sys2Proof.Machine

/-! ### The words of the statements -/

/-- Instruction `i` is at issue as `c`: a warp is picked for it, its encoding is legal (07 R82), and no lane has a hazard or names a
register out of range (07 R94, 03 R32). -/
def Issues (i : Instr) (s : State) (c : Ctx) : Prop :=
  s.ctx? i = some c ∧ encOk i = true ∧ dstOk c.form.d c.x.d = true ∧ c.preFaults = []

/-- The state in which the effect of an instruction at issue takes place: the pick is used up and the issue is charged to the pipe
(19 R274, R287). -/
def issued (c : Ctx) (s : State) : State := c.charge { s with picked := none }

/-- `exec` answers: the instruction has had the effect `t`, and its lanes go on as `ctl` says. -/
def Goes (i : Instr) (s : State) (c : Ctx) (t : State) (ctl : Ctl) : Prop := exec i s = .next (c.finish t ctl [] [])

/-- `exec` answers: the instruction's effect is on the registers of its warp alone, and they are then `w'`. -/
def Leaves (i : Instr) (s : State) (c : Ctx) (w' : Warp) : Prop := Goes i s c (c.setWarp (issued c s) w') .next

/-- The state at an issue whose instruction has no effect: it is charged and counted alone (07 R96, 19 R274). -/
def untouched (c : Ctx) (s : State) : State := c.setWarp (issued c s) (c.account (c.warpIn (issued c s)))

/-- The release of an instruction is done: `t` is the state after the crew's windows are written back, where that is due (11 R165). -/
def Released (c : Ctx) (need : Bool) (s t : State) : Prop :=
  if need then s.writeBack c.agent false = (none, t) else t = s

/-- The rules of an encoding that depend on the state: `tret` in a handler, a job-scope bell in a co-resident job (09 R141, 03 R48). -/
def stateRule (i : Instr) (c : Ctx) : Bool :=
  match i with
  | .tret _ _ => c.inHandler
  | .bellInit _ w | .bellArr _ w | .bellWait _ w => !bellBadScope w c
  | _ => true

/-- Register `r` of lane `l` is one of the `n` that destination `d` names, written for that lane: lane registers in the lanes of
`Mask()` (07 R79, R80). -/
def IsDst (c : Ctx) (d n r l : Nat) : Prop := l ∈ c.mask ∧ d ≤ r ∧ r < d + n

/-- `w'` is `w` with a value of `n` registers written to the destination: `val l` in every lane `l` of `Mask()`, or for a scalar the
value of the lowest lane, once; every other register is as before (07 R79, R80, 09 R109). -/
def WritesD (c : Ctx) (n : Nat) (val : Nat → Nat) (w w' : Warp) : Prop :=
  { w' with v := w.v, s := w.s } = w ∧
  match c.x.d with
  | .v d => w'.s = w.s ∧ (∀ l ∈ c.mask, w'.vval d.toNat n l = val l % 2 ^ (32 * n)) ∧
      ∀ r l, r < 512 → ¬ IsDst c d.toNat n r l → w'.vreg r l = w.vreg r l
  | .s d => w'.v = w.v ∧ (∀ l, c.mask.head? = some l → w'.sval d.toNat n = val l % 2 ^ (32 * n)) ∧
      ∀ r, ¬ (c.mask ≠ [] ∧ d.toNat ≤ r ∧ r < d.toNat + n) → w'.sreg r = w.sreg r
  | _ => w' = w

/-- `w'` is `w` with predicate `k` written in every lane of `Mask()`; m7 keeps nothing and reads 1 (07 R79). -/
def WritesP (c : Ctx) (k : Nat) (p : Nat → Bool) (w w' : Warp) : Prop :=
  { w' with m := w.m } = w ∧ (∀ l ∈ c.mask, k < 7 → w'.pred k l = p l) ∧ (∀ l, w'.pred 7 l = true) ∧
    ∀ j l, j < 512 → ¬ (l ∈ c.mask ∧ j = k) → w'.pred j l = w.pred j l

/-- No slice holds a line of generated space and no partition has a larder: then lines that leave the caches change no byte (11 R160). -/
def NoneGenerated (s : State) : Prop :=
  (∀ t ∈ s.slices, ∀ n ∈ t.2.sets, ∀ w ∈ n.2.ways, w.2.larder = none) ∧ ∀ p, (s.part p).lnl = 0

/-- The physical address of a virtual address in the page of a leaf (11 R148). -/
def pageAddr (leaf : BitVec 64) (va : Nat) : Nat :=
  if leaf.getLsbD 9 then 2 ^ 21 * bits leaf.toNat 47 21 + va % 2 ^ 21 else 2 ^ 16 * bits leaf.toNat 47 16 + va % 2 ^ 16

/-- A leaf permits an access, and its address lies in a range that the leaf may reach: generated space of the partition through `G`; HBM, or
host memory through `H`, without it (11 R147, R152, 15 R212). -/
def Allows (p : Nat) (leaf : BitVec 64) (va : Nat) (acc : Access) : Prop :=
  (acc = .write → leaf.getLsbD 1 = true ∧ leaf.getLsbD 3 = false) ∧ (acc = .fetch → leaf.getLsbD 2 = true) ∧
    if leaf.getLsbD 3 then 0x400000000000 ≤ pageAddr leaf va ∧ pageAddr leaf va < 0x500000000000 ∧ bits (pageAddr leaf va) 43 41 = p
    else pageAddr leaf va < 0x1800000000 ∨
      (0x800000000000 ≤ pageAddr leaf va ∧ pageAddr leaf va < 0x1000000000000 ∧ leaf.getLsbD 6 = true)

/-- The bytes of instruction words, first word first (07 R74). -/
def bytesOfWords (l : List Nat) : List Byte := (l.map bytesOf).flatten

/-- The words decode to an instruction, with nothing left over. -/
def Decodes (l : List Nat) (i : Instr) : Prop := (decode (bytesOfWords l)).toOption = some (i, [])

end Sys2Proof.Claims

open Sys2Proof Sys2Proof.Machine Sys2Proof.Claims

/-! ### Encodings, fetch and the step -/

/-- Decoding an encoded legal instruction gives it back, with every operand and whatever bytes follow (07 R74-R91). -/
def Obligations.DecodeOfEncodeIsTheInstruction : Prop :=
  ∀ (i : Instr) (rest : List Byte), encOk i = true → decode (encode i ++ rest) = .ok (i, rest)

/-- The words that the specification works out bit by bit, of every family, decode to the instructions they stand for. -/
def Obligations.WorkedWordsDecode : Prop :=
  Decodes [0x24317C20] (.b32AddS32 ⟨false, false, true, 7, 5, 3, 9, none⟩) ∧
  Decodes [0x01054862, 0x0003280C, 0x000E0098]
    (.ffma ⟨false, 0, 2, true, .v 130, 0, .v 12, .v 40, .v 3, none⟩ ⟨.f32, .tz, false, true, 0, 0, 0, 7, 0⟩) ∧
  Decodes [0x0028E043, 0x0C000014, 0x000E0003, 0, 1]
    (.add ⟨false, 0, 7, false, .v 20, 0, .v 20, .imm, .v 0, some 0x100000000⟩ ⟨.s64, .ne, false, false, 0, 0, 0, 7, 0⟩) ∧
  Decodes [0x0002E382, 0xCC000000, 0x00CE8002]
    (.cmp ⟨false, 0, 7, false, .none 1, 0, .v 0, .imm, .v 0, none⟩ ⟨.n32, .ne, false, false, 0, 0, 2, 7, 12⟩) ∧
  Decodes [0x040AE706, 0x00000010, 0x000E0000]
    (.vget ⟨true, 0, 7, false, .v 5, 2, .v 16, .v 0, .v 0, none⟩ ⟨.b32, .ne, false, false, 0, 0, 0, 7, 0⟩) ∧
  Decodes [0x0400F662, 0xC5000A08, 0x00000000]
    (.tload ⟨false, 0, 7, false, .none 0, 2, .s 8, .s 10, .v 0, none⟩ 0) ∧
  Decodes [0x0000F802, 0xD5070604, 0x00020000]
    (.sopen ⟨false, 0, 7, false, .none 0, 0, .s 4, .s 6, .s 7, none⟩ 0x20000) ∧
  Decodes [0x0000D462, 0xC100040C, 0x00000003]
    (.fset ⟨false, 0, 6, false, .none 0, 0, .s 12, .v 4, .v 0, none⟩ 3) ∧
  Decodes [0x0006F002, 0x00000006, 0x00000590]
    (.ld ⟨false, 0, 7, false, .v 3, 0, .v 6, .v 0, .v 0, none⟩ ⟨0, 2, false, 3, 1, 0, 0⟩)

/-- A step of a picked split that runs, and is at the beginning of an instruction, executes the instruction that the bytes at its program
counter decode to (07 R74, 19 R274); bytes that are no legal instruction raise fault 0x01 in the lowest lane of the split (09 R109), a fetch
that fails raises its fault, and one that must wait parks the split (07 R97). Two clauses are the model's choice: that the instruction's
registers are brought into the register cache between its fetch and its issue (DESIGN CHOICE, notes/assumptions/16.md), and that a split in
the middle of an instruction, which it goes on with after a wait, executes that instruction without a new fetch (DEDUCED,
notes/assumptions/8.md). That a fetch fault is raised in the lowest lane alone is the model's reading too (notes/assumptions/45.md). -/
def Obligations.PickedSplitRunsItsInstruction : Prop :=
  ∀ (s : State) (p : Pick) (cr : Crew) (sp : Split),
    s.picked = some p → s.crew p.core p.slot = some cr → (cr.warp p.warp).splitOf p.lane = some sp → sp.st = .run →
    (∀ g, sp.again = some g → step s = exec g.instr s) ∧
    (sp.again = none →
      let fetched := s.fetchBytes (cr.agent p.core) sp.served (sp.lanes.headD 0) sp.pc.toNat
      (∀ l s', fetched = .bytes l s' →
        (∀ i r, decode l = .ok (i, r) → step s = exec i (s'.readRegs i)) ∧
        ∀ e, decode l = .error e → step s = .next (s'.fetchFault p sp 0x01 0)) ∧
      (∀ code detail s', fetched = .fault code detail s' → step s = .next (s'.fetchFault p sp code detail)) ∧
      ∀ w s', fetched = .park w s' → step s = .next (s'.fetchPark p sp w))

/-- A step without a pick makes the first move of the agenda, or with an empty agenda the next move of the device's own agents, and
stays where it is when they have none. The order of moves is the model's own (notes/assumptions/1.md). -/
def Obligations.StepWithoutPickMakesTheNextMove : Prop :=
  ∀ s : State, s.picked = none →
    (∀ i r, s.agenda = i :: r → eventOk i = true → step s = exec i { s with agenda := r }) ∧
    (∀ i r, s.agenda = i :: r → eventOk i = false → step s = .next { s with agenda := r }) ∧
    (∀ n i, s.agenda = [] → s.nextEvent = some (n, i) → step s = exec i { s with turn := n + 1 }) ∧
    (s.agenda = [] → s.nextEvent = none → step s = .next s)

/-- The checks of a fetch, in their order: a non-canonical program counter is fault 0x1E, a misaligned one fault 0x06 with `DETAIL` 2;
then translation, whose failures are its own; a fetch from a page whose bias is changing waits for it in the order of arrival; a word on a
poisoned line is fault 0x09; otherwise the word is the four bytes at the translated address. Stated for words outside generated space.
Translation (11 R146, R148 to R152, R156): a TLB entry of the agent's partition, address space, root and page gives its leaf; otherwise the
walk of the four tables does, with a leaf that it marks accessed. The leaf gives the address in its page where it permits the access and
the address lies in a range that it may reach, else fault 0x08; an entry without `V` is a page fault, a malformed one fault 0x07, a
poisoned one fault 0x09. -/
def Obligations.FetchChecksInOrder : Prop :=
  ∀ (s s' : State) (ag : Agent) (srv : List Served) (lane va : Nat),
    (2 ^ 56 ≤ va → s.fetchWord ag srv lane va = .fault 0x1E 0 s) ∧
    (va < 2 ^ 56 → va % 4 ≠ 0 → s.fetchWord ag srv lane va = .fault 0x06 2 s) ∧
    (va < 2 ^ 56 → va % 4 = 0 →
      (∀ code, s.translate ag va .fetch = (.fault code, s') → s.fetchWord ag srv lane va = .fault code 0 s') ∧
      (∀ ref, s.translate ag va .fetch = (.page ref, s') →
        s.fetchWord ag srv lane va = .park (.page [(lane, 0, ref)]) (s'.report ag.core [ref])) ∧
      ∀ pa leaf, s.translate ag va .fetch = (.ok pa leaf, s') →
        (leaf.getLsbD 6 = true → s'.flipping = some (pa / 65536) →
          s.fetchWord ag srv lane va = .park (.flip (pa / 65536) s'.arrivals) { s' with arrivals := s'.arrivals + 1 }) ∧
        (¬ (leaf.getLsbD 6 = true ∧ s'.flipping = some (pa / 65536)) → inGen pa = false →
          s.fetchWord ag srv lane va = if s'.poisoned pa then .fault 0x09 0 s' else .bytes (s'.bytesAt pa 4) s')) ∧
    (∀ (acc : Access),
      let answers (leaf : BitVec 64) : Prop :=
        (Allows ag.part leaf va acc → (s.translate ag va acc).1 = .ok (pageAddr leaf va) leaf) ∧
        (¬ Allows ag.part leaf va acc → (s.translate ag va acc).1 = .fault 0x08)
      let entry := (s.core ag.core).tlb.find? fun t =>
        decide (t.part = ag.part ∧ t.asn = ag.asn ∧ t.root = ag.root ∧ t.vpage = if t.large then va / 2 ^ 21 else va / 2 ^ 16)
      (∀ t, entry = some t → answers t.leaf) ∧
      (entry = none →
        let r := (s.countSlice ag.core 0x2C 1).walk ag.part ag.root va
        (∀ code, r.1 = .fault code → (s.translate ag va acc).1 = .fault code) ∧
        (∀ large, r.1 = .absent large → (s.translate ag va acc).1 = .page
          { part := ag.part, asn := ag.asn, page := if large then va / 2 ^ 21 * 2 ^ 21 else va / 2 ^ 16 * 2 ^ 16, large, acc }) ∧
        ∀ e pa large, r.1 = .leaf e pa large → answers (BitVec.ofNat 64 (e ||| 256)))) ∧
    ∀ (p root : Nat), NoneGenerated s →
      let word (a : Nat) : Nat := s.natAt a 8
      let next (a : Nat) : Nat := 8192 * bits (word a) 47 13
      let a3 := root + 8 * bits va 55 46
      let a2 := next a3 + 8 * bits va 45 36
      let a1 := next a2 + 8 * bits va 35 26
      let large := bit (word a1) 9
      let a0 := next a1 + 8 * (if large then 32 * bits va 25 21 else bits va 25 16)
      let good (a : Nat) (top : Bool) : Prop := bits (word a) 8 1 = 0 ∧ (top = true → bit (word a) 9 = false) ∧ bits (word a) 12 10 = 0 ∧
        bits (word a) 63 48 = 0 ∧ next a < 0x1800000000
      let leafGood : Prop := bits (word a0) 15 10 = 0 ∧ bits (word a0) 63 60 = 0 ∧ (bit (word a0) 3 = false → bits (word a0) 59 48 = 0) ∧
        (bit (word a0) 9 = true → bits (word a0) 20 16 = 0) ∧
        (bit (word a0) 3 = true → bit (word a0) 4 = true ∧ bit (word a0) 6 = false) ∧ bit (word a0) 9 = large
      let passes (a : Nat) (top : Bool) : Prop := s.poisoned a = false ∧ bit (word a) 0 = true ∧ good a top
      let stops (a : Nat) (ok : Prop) (lg : Bool) : Prop :=
        (s.poisoned a = true → (s.walk p root va).1 = .fault 0x09) ∧
        (s.poisoned a = false → bit (word a) 0 = false → (s.walk p root va).1 = .absent lg) ∧
        (s.poisoned a = false → bit (word a) 0 = true → ¬ ok → (s.walk p root va).1 = .fault 0x07)
      stops a3 (good a3 true) false ∧
      (passes a3 true → stops a2 (good a2 true) false ∧
        (passes a2 true → stops a1 (good a1 false) false ∧
          (passes a1 false → stops a0 leafGood large ∧
            (s.poisoned a0 = false → bit (word a0) 0 = true → leafGood → (s.walk p root va).1 = .leaf (word a0) a0 large))))

/-! ### The issue of an instruction -/

/-- What stops an instruction at its issue, for every instruction of a warp. An encoding that breaks R82 raises fault 0x01, before every
other fault of the instruction and even if `Mask()` is empty, for the lowest lane of the split; so do a destination as wide as the warp that
is misaligned (`ballot`), `tret` outside a handler and a job-scope bell in a crew that is not co-resident. A hazard (fault 0x04) or a register
out of range (fault 0x03) in any lane comes before the lane's other faults: the list that is raised has for each such lane that one fault. A
sealed guard is the hazard of its lane before any other (which of several sealed registers `DETAIL` names is the model's choice,
notes/assumptions/45.md); `nop` reads nothing, its guard included, and has no hazard (07 R76). In all these cases no lane has any effect: the
faults are raised on the state at the issue. -/
def Obligations.IllegalAndHazardousIssuesHaveNoEffect : Prop :=
  ∀ (i : Instr) (s : State) (c : Ctx), s.ctx? i = some c →
    (encOk i = false → exec i s = .next (c.raise (untouched c s) [{ lane := c.low, code := 0x01 }])) ∧
    (dstOk c.form.d c.x.d = false ∨ stateRule i c = false →
      exec i s = .next (c.raise (untouched c s) [{ lane := c.low, code := 0x01 }])) ∧
    (encOk i = true → dstOk c.form.d c.x.d = true → stateRule i c = true → c.preFaults ≠ [] →
      ∃ fs, exec i s = .next (c.raise (untouched c s) fs) ∧
        (∀ f ∈ c.preFaults, fs.find? (fun g => decide (g.lane = f.lane)) = some f) ∧
        ∀ f ∈ fs, ∀ g ∈ c.preFaults, f.lane = g.lane → f = g) ∧
    (∀ f ∈ c.preFaults, f.code = 0x04 ∨ f.code = 0x03) ∧
    (∀ l ∈ c.sp.lanes, c.sp.again = none → c.x.g ≠ 7 → c.w.sealed .m c.x.g.toNat l = true → readsNothing c.instr = false →
      ({ lane := l, code := 0x04, detail := c.x.g.toNat } : LaneFault) ∈ c.preFaults) ∧
    ∀ (x : Head) (w : WC), i = .nop x w → c.preFaults = []


/-! ### Taking a fault and returning from it -/

/-- Delivery of a fault in a crew with a handler, to a warp outside its handler: `%fault` is written, and every lane of the split enters the
handler as one split with v240 to v255 as the table of R106 gives; m0 to m6, x0 to x3, `%fpf` and every other register keep the
program's values; the save area holds what was saved; the meeting stacks and the hold are empty; the other splits are suspended as they
are. The word of `%fault` has the code, the reporting lane, whether more than one lane faulted, and the detail in the places of R103, and zeros
elsewhere. -/
def Obligations.FaultEntersTheHandler : Prop :=
  (∀ (f : LaneFault) (r : List LaneFault), f.code < 32 → f.lane < 128 → f.detail < 256 →
    let x := (faultWord (f :: r)).toNat
    bits x 4 0 = f.code ∧ bits x 7 5 = 0 ∧ bits x 14 8 = f.lane ∧ bit x 15 = !r.isEmpty ∧ bits x 23 16 = f.detail ∧ bits x 31 24 = 0) ∧
  ∀ (s : State) (k j wi lane : Nat) (cr : Crew) (sp : Split) (pc resume : Addr) (fs : List LaneFault),
    s.crew k j = some cr → (cr.warp wi).save = none → cr.shape.handler ≠ 0 → (cr.warp wi).splitOf lane = some sp →
    let w := cr.warp wi
    ∃ cr', (s.deliver k j wi lane pc resume fs).crew k j = some cr' ∧
      let w' := cr'.warp wi
      w'.fault = faultWord fs ∧
      w'.splits = [{ lanes := sp.lanes, pc := cr.shape.handler, st := .run }] ∧
      (∀ l ∈ sp.lanes,
        w'.vreg 240 l = faultWord fs ∧ w'.vreg 241 l = (if fs.any fun f => decide (f.lane = l) then 1 else 0) ∧
        w'.vval 242 2 l = resume.toNat ∧ w'.vval 244 2 l = pc.toNat ∧
        w'.vval 246 2 l = ((fs.find? fun f => decide (f.lane = l)).map fun f => f.va % 2 ^ 64).getD 0 ∧
        ∀ r, 248 ≤ r → r < 256 → w'.vreg r l = 0) ∧
      (∀ r l, r < 512 → ¬ (l ∈ sp.lanes ∧ 240 ≤ r ∧ r < 256) → w'.vreg r l = w.vreg r l) ∧
      w'.m = w.m ∧ w'.x = w.x ∧ w'.fpf = w.fpf ∧ w'.s = w.s ∧ w'.seals = w.seals ∧ w'.meets = [] ∧ w'.hold = [] ∧
      ∃ v, w'.save = some v ∧ v.m = w.m ∧ v.x = w.x ∧ v.fpf = w.fpf ∧ v.lanes = sp.lanes ∧ v.meets = w.meets ∧
        v.splits = w.splits.filter (fun t => decide (t ≠ sp)) ∧
        ∀ r l, 240 ≤ r → r < 512 → Store.get v.v 0 (laneKey r l) = w.vreg r l

/-- A fault in a warp that is in its handler, and any fault in a crew whose `HANDLER` is zero, end the warp: it retires, and the crew's
first status names the warp with the fault word, whose code is 0x15 for the first and the fault's own for the second. -/
def Obligations.DoubleFaultEndsTheWarp : Prop :=
  ∀ (s : State) (k j wi lane : Nat) (cr : Crew) (pc resume : Addr) (fs : List LaneFault),
    s.crew k j = some cr → cr.status = none →
    ((cr.warp wi).save.isSome = true → ∃ cr', (s.deliver k j wi lane pc resume fs).crew k j = some cr' ∧ (cr'.warp wi).retired = true ∧
      (cr'.warp wi).splits = [] ∧ cr'.status = some { warp := wi, fault := doubleWord (faultWord fs) } ∧
      bits (doubleWord (faultWord fs)).toNat 4 0 = 0x15) ∧
    ((cr.warp wi).save = none → cr.shape.handler = 0 →
      ∃ cr', (s.deliver k j wi lane pc resume fs).crew k j = some cr' ∧ (cr'.warp wi).retired = true ∧
        (cr'.warp wi).splits = [] ∧ cr'.status = some { warp := wi, fault := faultWord fs })

/-- `trap` and `brk` with a lane in `Mask()` raise their fault in every lane of it, with the `CODE` of word 2 as detail, and the handler's
`tret` is to resume after the instruction; with an empty mask they do nothing and their lanes go on. -/
def Obligations.TrapAndBreakRaiseTheirFault : Prop :=
  ∀ (x : Head) (w : WS) (s : State) (c : Ctx),
    (∀ p ∈ [(Instr.trap x w, 0x18), (Instr.brk x w, 0x1B)], Issues p.1 s c →
      (c.mask ≠ [] → exec p.1 s =
        .next (c.raise (untouched c s) (c.mask.map fun l => { lane := l, code := p.2, detail := w.toNat % 256 }))) ∧
      (c.mask = [] → Goes p.1 s c (issued c s) .next)) ∧
    ∀ pc l d, resumeOf pc [{ lane := l, code := 0x18, detail := d }] = pc + 12 ∧
      resumeOf pc [{ lane := l, code := 0x1B, detail := d }] = pc + 12


namespace Sys2Proof.Claims

open Sys2Proof.Machine

/-- Every issue of `i` completes: a value of `n` registers with the property `p` goes to its destination in every lane of `Mask()`, and
nothing else of its warp changes. -/
def GivesSuch (i : Instr) (n : Nat) (p : Ctx → Nat → Nat → Prop) : Prop :=
  ∀ (s : State) (c : Ctx), Issues i s c →
    ∃ val w', Leaves i s c w' ∧ WritesD c n val c.w w' ∧ ∀ l ∈ c.mask, p c l (val l)

/-- Every issue of `i` completes with the value `f` in its destination, and nothing else of its warp changes. -/
def Gives (i : Instr) (n : Nat) (f : Ctx → Nat → Nat) : Prop := GivesSuch i n fun c l x => x = f c l

/-- Every issue of `i` completes and writes predicate `k c`, and nothing else of its warp changes. -/
def GivesPred (i : Instr) (k : Ctx → Nat) (f : Ctx → Nat → Bool) : Prop :=
  ∀ (s : State) (c : Ctx), Issues i s c → ∃ w', Leaves i s c w' ∧ WritesP c (k c) (f c) c.w w'

/-- The least and the greatest value of an element of an integer type (05 R55). -/
def least (t : Ty) : Int := if tySigned t then -2 ^ (tyWidth t - 1) else 0
def greatest (t : Ty) : Int := if tySigned t then 2 ^ (tyWidth t - 1) - 1 else 2 ^ tyWidth t - 1

/-- An arithmetic row (09 R111): `x` is the exact result of each element. Element k of D is `x` clamped to the range of the element type
under `SAT`, and `x` mod 2^w otherwise; the predicate `PD` says whether `x` is outside the range for some element. -/
def IntRow (i : Instr) (t : Ty) (sat : Bool) (pd : Nat) (x : Ctx → Nat → Nat → Int) : Prop :=
  ∀ (s : State) (c : Ctx), Issues i s c →
    ∃ val w₁ w', Leaves i s c w' ∧ WritesD c (tyRegs t) val c.w w₁ ∧
      WritesP c pd (fun l => (List.range (tyElems t)).any fun k => decide (x c l k < least t ∨ greatest t < x c l k)) w₁ w' ∧
      ∀ l k, k < tyElems t → (elem t (val l) k : Int) =
        (if sat then min (max (x c l k) (least t)) (greatest t) else x c l k) % 2 ^ tyWidth t

/-- A row whose result has elements: element k of D is `f`. -/
def ElemRow (i : Instr) (t : Ty) (f : Ctx → Nat → Nat → Nat) : Prop :=
  GivesSuch i (tyRegs t) fun c l x => ∀ k, k < tyElems t → elem t x k = f c l k

/-- An element as a bit vector, and a whole value. -/
def bv (t : Ty) (x k : Nat) : BitVec (tyWidth t) := BitVec.ofNat _ (elem t x k)
def word (x : Nat) : Word := BitVec.ofNat 32 x

end Sys2Proof.Claims

/-! ### Operands -/

/-- How an operand is read: a lane register, or the pair or quad from it, in the lane itself; a scalar, and a block register, the same for every
lane; a class-11 operand by R81: the literal, or `IMM12` sign-extended, or by the type of the operand as the table of R81 gives it. A block
register that another quarter has written in the same clock reads its earlier value. That an instruction that goes on after a wait reads the
scalars and the block registers as they were at its issue is the model's choice, read from the chapters on page faults and parked loads
(DEDUCED, notes/assumptions/8.md). -/
def Obligations.OperandsReadByClass : Prop :=
  ∀ (c : Ctx) (u : Use),
    let words (f : Nat → Word) : Nat := ((List.range u.n).map fun k => 2 ^ (32 * k) * (f k).toNat).sum
    (∀ (l : Nat) (r : BitVec 8), c.src u (.v r) l = words fun k => c.w.vreg (r.toNat + k) l) ∧
    (∀ (l : Nat) (r : BitVec 6),
      (c.sp.again = none → c.src u (.s r) l = words fun k => c.w.sreg (r.toNat + k)) ∧
      ∀ g, c.sp.again = some g → c.src u (.s r) l = words fun k => Store.get g.s 0 (r.toNat + k)) ∧
    (∀ (l : Nat) (r : BitVec 6),
      let read (b : BReg) : Word := if b.clk = c.clk ∧ b.q < 4 ∧ b.q ≠ c.w.quarter then b.old else b.val
      (c.sp.again = none → c.src u (.b r) l = words fun k => read (Store.get c.cr.b {} (r.toNat + k))) ∧
      ∀ g, c.sp.again = some g → c.src u (.b r) l = words fun k => read (Store.get g.b {} (r.toNat + k))) ∧
    (∀ l : Nat, c.src u .imm l = immVal u.ity u.n c.x.lit c.imm) ∧
    (∀ (t : Ty) (n : Nat) (x : BitVec 64) (m : BitVec 12), immVal t n (some x) m = x.toNat % 2 ^ (32 * n)) ∧
    ∀ (n : Nat) (m : BitVec 12),
      (∀ t ∈ [Ty.b32, .s32, .n32, .s64, .n64, .b64, .b128], immVal t n none m = (m.signExtend (32 * n)).toNat) ∧
      (∀ t ∈ [Ty.s16x2, .n16x2], immVal t n none m = (m.signExtend 16).toNat * 0x10001) ∧
      (∀ t ∈ [Ty.s8x4, .e4m3x4, .e5m2x4], immVal t n none m = m.toNat % 256 * 0x1010101) ∧
      immVal .f32 n none m = m.toNat * 2 ^ 20 ∧
      ∀ t ∈ [Ty.f16x2, .bf16x2], immVal t n none m = m.toNat * 16 * 0x10001

/-! ### Integer and logic instructions -/

/-- The arithmetic rows of R110: the exact results of `add`, `sub`, `mul`, `mad`, `madw`, `add3`, `abs`, `neg` and `sad`, reduced by
R111, with the overflow predicate. Without `SAT`, an element of the sum, the difference and the product is the bit-vector operation on the
elements, and the exact result is out of the element's range just when that operation overflows. -/
def Obligations.ArithmeticRowsReduceTheExactResult : Prop :=
  (∀ (t : Ty) (x y k : Nat), k < tyElems t →
     let a := elemVal t x k
     let b := elemVal t y k
     reduceInt t false (a + b) = (bv t x k + bv t y k).toNat ∧ reduceInt t false (a - b) = (bv t x k - bv t y k).toNat ∧
     reduceInt t false (a * b) = (bv t x k * bv t y k).toNat ∧
     (tySigned t = true → overflows t (a + b) = (bv t x k).saddOverflow (bv t y k) ∧
       overflows t (a - b) = (bv t x k).ssubOverflow (bv t y k) ∧ overflows t (a * b) = (bv t x k).smulOverflow (bv t y k)) ∧
     (tySigned t = false → overflows t (a + b) = (bv t x k).uaddOverflow (bv t y k) ∧
       overflows t (a - b) = (bv t x k).usubOverflow (bv t y k) ∧ overflows t (a * b) = (bv t x k).umulOverflow (bv t y k))) ∧
  ∀ (x : Head) (w : WC),
    let t := w.type
    let row (i : Instr) (f : Int → Int → Int → Int) : Prop := IntRow i t w.sat w.pd.toNat fun c l k =>
      f (elemVal t (c.a l) k) (elemVal t (c.b l) k) (elemVal t (c.c l) k)
    row (.add x w) (fun a b _ => a + b) ∧ row (.sub x w) (fun a b _ => a - b) ∧ row (.mul x w) (fun a b _ => a * b) ∧
    row (.mad x w) (fun a b c => a * b + c) ∧ row (.add3 x w) (fun a b c => a + b + c) ∧
    row (.abs x w) (fun a _ _ => (a.natAbs : Int)) ∧ row (.neg x w) (fun a _ _ => -a) ∧
    (∀ wide, (t = .s32 ∧ wide = .s64) ∨ (t = .n32 ∧ wide = .n64) →
      IntRow (.madw x w) wide w.sat w.pd.toNat fun c l _ =>
        elemVal t (c.a l) 0 * elemVal t (c.b l) 0 + elemVal wide (c.c l) 0) ∧
    (x.sub = 0 → IntRow (.sad x w) .n32 w.sat w.pd.toNat fun c l _ =>
      ((List.range (tyElems t)).map fun k => ((elemVal t (c.a l) k - elemVal t (c.b l) k).natAbs : Int)).sum + c.c l) ∧
    (x.sub = 1 → IntRow (.sad x w) .n32 w.sat w.pd.toNat fun c l _ =>
      ((List.range (tyElems t)).map fun k => (((elem t (c.a l) k : Int) - elem t (c.b l) k).natAbs : Int)).sum + c.c l)

/-- The rows of R110 that only move or combine bits or elements: `nop`, `mov`, `and`, `or`, `xor`, `not`, `bitf`, `min`, `max`, `mulhi` and
`lea`. -/
def Obligations.LogicRowsGiveTheirResults : Prop :=
  ∀ (x : Head) (w : WC),
    let t := w.type
    let n := tyRegs t
    (∀ s c, Issues (.nop x w) s c → Leaves (.nop x w) s c c.w) ∧
    Gives (.mov x w) n (fun c l => c.b l) ∧
    GivesSuch (.and x w) n (fun c l y => ∀ j, y.testBit j = ((c.a l).testBit j && (c.b l).testBit j)) ∧
    GivesSuch (.or x w) n (fun c l y => ∀ j, y.testBit j = ((c.a l).testBit j || (c.b l).testBit j)) ∧
    GivesSuch (.xor x w) n (fun c l y => ∀ j, y.testBit j = ((c.a l).testBit j != (c.b l).testBit j)) ∧
    GivesSuch (.not x w) n (fun c l y => ∀ j, y.testBit j = (decide (j < tyWidth t) && !(c.a l).testBit j)) ∧
    GivesSuch (.bitf x w) n (fun c l y => ∀ j, y.testBit j = (decide (j < tyWidth t) &&
      w.imm.toNat.testBit (((c.a l).testBit j).toNat + 2 * ((c.b l).testBit j).toNat + 4 * ((c.c l).testBit j).toNat))) ∧
    GivesSuch (.min x w) n (fun c l y => ∀ k, k < tyElems t → elemVal t y k = min (elemVal t (c.a l) k) (elemVal t (c.b l) k)) ∧
    GivesSuch (.max x w) n (fun c l y => ∀ k, k < tyElems t → elemVal t y k = max (elemVal t (c.a l) k) (elemVal t (c.b l) k)) ∧
    GivesSuch (.mulhi x w) n (fun c l y =>
      elemVal t y 0 = (elemVal t (c.a l) 0 * elemVal t (c.b l) 0) / 2 ^ tyWidth t) ∧
    GivesSuch (.lea x w) 2 (fun c l y =>
      (y : Int) = (c.a l + elemVal t (c.b l) 0 * 2 ^ x.sub.toNat) % 2 ^ 64)

/-- The shifts and bit fields of R112 and the bit counts of R110. A shift is the bit-vector shift of each element by its count, which
gives zeros, or copies of the sign, from the width on. -/
def Obligations.ShiftsAndBitFieldsGiveTheirResults : Prop :=
  ∀ (x : Head) (w : WC),
    let t := w.type
    let count (c : Ctx) (l k : Nat) : Nat := if tyElems t = 2 then elem t (c.b l) k else c.b l % 2 ^ 32
    let pair (c : Ctx) (l : Nat) : BitVec 64 := word (c.b l) ++ word (c.a l)
    let len (y : Nat) : Nat := min (y / 256 % 256) 32
    ElemRow (.shl x w) t (fun c l k => (bv t (c.a l) k <<< count c l k).toNat) ∧
    ElemRow (.shr x w) t (fun c l k => (bv t (c.a l) k >>> count c l k).toNat) ∧
    ElemRow (.sar x w) t (fun c l k => ((bv t (c.a l) k).sshiftRight (count c l k)).toNat) ∧
    (x.sub = 0 → Gives (.dsh x w) 1 fun c l => (pair c l >>> c.c l).toNat % 2 ^ 32) ∧
    (x.sub = 1 → Gives (.dsh x w) 1 fun c l => (pair c l <<< c.c l).toNat / 2 ^ 32) ∧
    (x.sub = 2 → Gives (.dsh x w) 1 fun c l => (pair c l >>> (c.c l % 64)).toNat % 2 ^ 32) ∧
    (x.sub = 3 → Gives (.dsh x w) 1 fun c l => (pair c l <<< (c.c l % 64)).toNat / 2 ^ 32) ∧
    GivesSuch (.fext x w) 1 (fun c l y => ∀ j, j < 32 →
      y.testBit j =
        let p := c.b l % 256
        let n := len (c.b l)
        let src (q : Nat) : Bool := if q < 32 then (c.a l).testBit q else decide (t = .s32) && (c.a l).testBit 31
        if j < n then src (p + j) else decide (t = .s32) && decide (0 < n) && src (p + (n - 1))) ∧
    GivesSuch (.fins x w) 1 (fun c l y => ∀ j, j < 32 →
      y.testBit j =
        let p := c.c l % 256
        if p ≤ j ∧ j < p + len (c.c l) then (c.a l).testBit (j - p) else (c.b l).testBit j) ∧
    GivesSuch (.clz x w) 1 (fun c l y => y ≤ tyWidth t ∧ (∀ j, tyWidth t - y ≤ j → j < tyWidth t → (c.a l).testBit j = false) ∧
      (y < tyWidth t → (c.a l).testBit (tyWidth t - 1 - y) = true)) ∧
    GivesSuch (.popc x w) 1 (fun c l y => y = ((List.range (tyWidth t)).filter fun j => (c.a l).testBit j).length) ∧
    GivesSuch (.brev x w) (tyRegs t) (fun c l y => ∀ j, j < tyWidth t → y.testBit j = (c.a l).testBit (tyWidth t - 1 - j))

/-- `cmp`: with a predicate destination, D gets whether the condition holds in every element, or in some with `.any`, and then PD its
negation; with a register destination, where `SUB` is 0 and PD 7, each element becomes all ones or zero. `COND` 0 to 5, the only ones, are equal, not equal, less, at most, greater
and at least, on the elements read in the type. `sel` selects by the predicate, `bsel` bytes by the selectors; that `sel` into a scalar goes by the
predicate of the lowest lane of `Mask()` is the model's choice (DESIGN CHOICE, notes/assumptions/42.md). `acs`
gives of the exact candidates a + c and b − c the lesser, the first where they are equal, reduced by R111; the decision of element k goes to
the predicate `PD` + k, below 7. -/
def Obligations.CompareAndSelect : Prop :=
  ∀ (x : Head) (w : WC),
    let t := w.type
    let hit (c : Ctx) (l k : Nat) : Bool :=
      let a := elemVal t (c.a l) k
      let b := elemVal t (c.b l) k
      ([decide (a = b), decide (a ≠ b), decide (a < b), decide (a ≤ b), decide (b < a), decide (b ≤ a)]).getD w.cond.toNat false
    let all (c : Ctx) (l : Nat) : Bool := (List.range (tyElems t)).all (hit c l)
    let any (c : Ctx) (l : Nat) : Bool := (List.range (tyElems t)).any (hit c l)
    (encOk (.cmp x w) = true → w.cond.toNat < 6 ∧ ((∀ d, x.d ≠ .none d) → x.sub = 0 ∧ w.pd = 7)) ∧
    (∀ s c d, Issues (.cmp x w) s c → x.d = .none d →
      ∃ w₁ w', Leaves (.cmp x w) s c w' ∧
        WritesP c d.toNat (fun l => if x.sub = 1 then any c l else all c l) c.w w₁ ∧
        WritesP c w.pd.toNat (fun l => !(if x.sub = 1 then any c l else all c l)) w₁ w') ∧
    ((∀ d, x.d ≠ .none d) → ElemRow (.cmp x w) t fun c l k => if hit c l k then 2 ^ tyWidth t - 1 else 0) ∧
    Gives (.sel x w) (tyRegs t) (fun c l => if c.w.pred (x.sub.toNat % 8) l != x.sub.getLsbD 3 then c.a l else c.b l) ∧
    GivesSuch (.bsel x w) 1 (fun c l y => ∀ k, k < 4 →
      let s := c.c l / 2 ^ (8 * k) % 256
      let byte := (if s % 8 < 4 then c.a l / 2 ^ (8 * (s % 8)) else c.b l / 2 ^ (8 * (s % 8 - 4))) % 256
      y / 2 ^ (8 * k) % 256 = if s.testBit 4 then 0 else if s.testBit 3 then (if 128 ≤ byte then 255 else 0) else byte) ∧
    ∀ s c, Issues (.acs x w) s c →
      let p (l k : Nat) : Int := elemVal t (c.a l) k + elemVal t (c.c l) k
      let q (l k : Nat) : Int := elemVal t (c.b l) k - elemVal t (c.c l) k
      ∃ val w₁ w', Leaves (.acs x w) s c w' ∧ WritesD c 1 val c.w w₁ ∧
        (∀ l k, k < tyElems t → (elem t (val l) k : Int) =
          (if w.sat then min (max (min (p l k) (q l k)) (least t)) (greatest t) else min (p l k) (q l k)) % 2 ^ tyWidth t) ∧
        { w' with m := w₁.m } = w₁ ∧
        (∀ l ∈ c.mask, ∀ k, k < tyElems t → w.pd.toNat + k < 7 → w'.pred (w.pd.toNat + k) l = decide (q l k < p l k)) ∧
        ∀ j l, j < 512 → ¬ (l ∈ c.mask ∧ w.pd.toNat ≤ j ∧ j < w.pd.toNat + tyElems t) → w'.pred j l = c.w.pred j l

/-- The compact integer forms of R77 compute what their rows compute on 32-bit or packed 16-bit operands, without saturation or
overflow predicate. -/
def Obligations.CompactIntegerForms : Prop :=
  ∀ w : B32,
    let sum (t : Ty) (i : Instr) (f : Int → Int → Int) : Prop :=
      IntRow i t false 7 fun c l k => f (elemVal t (c.a l) k) (elemVal t (c.b l) k)
    let pick (t : Ty) (i : Instr) (f : Int → Int → Int) : Prop :=
      GivesSuch i 1 fun c l y => ∀ k, k < tyElems t → elemVal t y k = f (elemVal t (c.a l) k) (elemVal t (c.b l) k)
    (∀ s c, Issues (.b32Nop w) s c → Leaves (.b32Nop w) s c c.w) ∧
    Gives (.b32Mov w) 1 (fun c l => c.b l) ∧
    sum .s32 (.b32AddS32 w) (fun a b => a + b) ∧ sum .s32 (.b32SubS32 w) (fun a b => a - b) ∧
    sum .s32 (.b32MulS32 w) (fun a b => a * b) ∧
    sum .s16x2 (.b32AddS16x2 w) (fun a b => a + b) ∧ sum .s16x2 (.b32SubS16x2 w) (fun a b => a - b) ∧
    Gives (.b32And w) 1 (fun c l => (word (c.a l) &&& word (c.b l)).toNat) ∧
    Gives (.b32Or w) 1 (fun c l => (word (c.a l) ||| word (c.b l)).toNat) ∧
    Gives (.b32Xor w) 1 (fun c l => (word (c.a l) ^^^ word (c.b l)).toNat) ∧
    Gives (.b32Shl w) 1 (fun c l => (word (c.a l) <<< (c.b l)).toNat) ∧
    Gives (.b32Shr w) 1 (fun c l => (word (c.a l) >>> (c.b l)).toNat) ∧
    Gives (.b32Sar w) 1 (fun c l => ((word (c.a l)).sshiftRight (c.b l)).toNat) ∧
    pick .s32 (.b32MinS32 w) min ∧ pick .s32 (.b32MaxS32 w) max ∧ pick .n32 (.b32MinN32 w) min ∧
    pick .n32 (.b32MaxN32 w) max ∧ pick .s16x2 (.b32MinS16x2 w) min ∧ pick .s16x2 (.b32MaxS16x2 w) max


namespace Sys2Proof.Claims

open Sys2Proof.Machine

/-- `f` holds a flag just when `g` does for some lane of `ls` and some number below `n` (05 R63, R66). -/
def Raises (f : Fl) (ls : List Nat) (n : Nat) (g : Nat → Nat → Fl) : Prop :=
  ∀ p ∈ [Fl.iv, Fl.dz, Fl.of, Fl.uf, Fl.nx, Fl.id], p f = true ↔ ∃ l ∈ ls, ∃ k, k < n ∧ p (g l k) = true

/-- A floating-point row: every issue completes; element k of D is the bits of `r`, its flags are set in `%fpf`, which keeps every flag
it holds, and nothing else of the warp changes (09 R126, 05 R63, R66). -/
def FloatRow (i : Instr) (t : Ty) (r : Ctx → Nat → Nat → Nat × Fl) : Prop :=
  ∀ (s : State) (c : Ctx), Issues i s c →
    ∃ val w₁ f, Leaves i s c { w₁ with fpf := c.w.fpf ||| Fl.word f } ∧ WritesD c 1 val c.w w₁ ∧
      (∀ l ∈ c.mask, ∀ k, k < tyElems t → elem t (val l) k = (r c l k).1) ∧ Raises f c.mask (tyElems t) fun l k => (r c l k).2

/-- A row with one result and its flags for each lane. -/
def FlagRow (i : Instr) (n : Nat) (r : Ctx → Nat → Nat × Fl) : Prop :=
  ∀ (s : State) (c : Ctx), Issues i s c →
    ∃ w₁ f, Leaves i s c { w₁ with fpf := c.w.fpf ||| Fl.word f } ∧ WritesD c n (fun l => (r c l).1) c.w w₁ ∧
      Raises f c.mask 1 fun l _ => (r c l).2

/-- The value of a finite number. -/
def rat : FVal → ℚ
  | .fin s m e => (if s then -1 else 1) * m * (2 : ℚ) ^ e
  | _ => 0

/-- A number is finite. -/
def isFin : FVal → Bool
  | .fin _ _ _ => true
  | _ => false

/-- The sign of a value; that of a NaN counts as plus. -/
def signOf : FVal → Bool
  | .fin s _ _ => s
  | .inf s => s
  | .nan => false

/-- `y` is the integer to which `x` rounds in a mode (05 R62). -/
def IsRounded (rnd : Rnd) (x : ℚ) (y : Int) : Prop :=
  match rnd with
  | .ne => (∀ z : Int, |(y : ℚ) - x| ≤ |(z : ℚ) - x|) ∧ (2 * |(y : ℚ) - x| = 1 → y % 2 = 0)
  | .tz => |(y : ℚ)| ≤ |x| ∧ |x| < |(y : ℚ)| + 1 ∧ 0 ≤ (y : ℚ) * x
  | .dn => (y : ℚ) ≤ x ∧ x < (y : ℚ) + 1
  | .up => x ≤ (y : ℚ) ∧ (y : ℚ) < x + 1

/-- No rounding to a format of 24 bits or fewer tells a finite value from the number `y`, nor one of them exact where the other is not: they are
equal, or lie strictly between the same two neighbouring multiples of a power of two, each of which has 27 bits or more (05 R69). -/
def Stands (v : FVal) (y : ℝ) : Prop :=
  isFin v = true ∧ ((rat v : ℝ) = y ∨ ∃ k q : Int, 2 ^ 26 ≤ |k| ∧ 2 ^ 26 ≤ |k + 1| ∧ (k : ℝ) * 2 ^ q < (rat v : ℝ) ∧
    (rat v : ℝ) < ((k : ℝ) + 1) * 2 ^ q ∧ (k : ℝ) * 2 ^ q < y ∧ y < ((k : ℝ) + 1) * 2 ^ q)

/-- Element k of a source, as an operation takes it: read in the type, flushed, then `ABS`, then `NEG` (09 R126). -/
def inputA (w : WC) (c : Ctx) (l k : Nat) : Nat × Fl := fpIn (fmtOf w.type) w 0 (elem w.type (c.a l) k)
def inputB (w : WC) (c : Ctx) (l k : Nat) : Nat × Fl := fpIn (fmtOf w.type) w 1 (elem w.type (c.b l) k)
def inputC (w : WC) (c : Ctx) (l k : Nat) : Nat × Fl := fpIn (fmtOf w.type) w 2 (elem w.type (c.c l) k)

/-- An exact result rounded once to a format in the mode and with the flush that word 2 names, with the flags of the inputs, of the
operation and of the rounding (05 R62-R66). -/
def rounded (f : Fmt) (w : WC) (ins : Fl) (x : FVal × Fl) : Nat × Fl :=
  ((f.round w.rnd w.ftz false x.1).1, (ins.or x.2).or (f.round w.rnd w.ftz false x.1).2)

/-- The second of two values is the lesser, the greater: −0 counts as less than +0 (09 R127). -/
def lesser (p q : FVal) : Bool := q.lt p || (decide (rat p = 0) && decide (rat q = 0) && isFin p && isFin q && signOf q && !signOf p)
def greater (p q : FVal) : Bool := p.lt q || (decide (rat p = 0) && decide (rat q = 0) && isFin p && isFin q && signOf p && !signOf q)

/-- Which of two encodings a minimum or maximum gives: a number before a NaN, and else the second where `op` takes it (09 R127). -/
def picked (f : Fmt) (op : FVal → FVal → Bool) (p q : Nat) : Nat :=
  if f.decode p = .nan then (if f.decode q = .nan then f.nanBits else q)
  else if f.decode q = .nan then p else if op (f.decode p) (f.decode q) then q else p

/-- `fcmp`'s condition on two values: `COND` 0 to 7 are equal, not equal, less, at most, greater, at least, ordered, unordered; with a
NaN only not equal and unordered hold (07 R84). -/
def compares (cond : Nat) (a b : FVal) : Bool :=
  if a = .nan ∨ b = .nan then decide (cond = 1 ∨ cond = 7)
  else ([!a.lt b && !b.lt a, a.lt b || b.lt a, a.lt b, !b.lt a, b.lt a, !a.lt b, true, false]).getD cond false

end Sys2Proof.Claims

/-! ### Floating-point instructions -/

/-- Exact arithmetic: the sum, the product and the multiply-add of finite values are theirs exactly; an exact zero sum of values that
are not zeros of one sign is −0 in RD and +0 otherwise; a NaN gives a NaN without a flag; +∞ − ∞ and 0 × ∞ give NaN with `IV`. -/
def Obligations.FloatOperationsAreExactBeforeRounding : Prop :=
  ∀ (rnd : Rnd) (a b c d e : FVal),
    (isFin a = true → isFin b = true →
      (sumVals rnd [a, b]).2 = {} ∧ isFin (sumVals rnd [a, b]).1 = true ∧ rat (sumVals rnd [a, b]).1 = rat a + rat b ∧
      (rat a + rat b = 0 → signOf (sumVals rnd [a, b]).1 =
        if rat a = 0 ∧ signOf a = signOf b then signOf a else decide (rnd = .dn)) ∧
      (mulVals a b).2 = {} ∧ isFin (mulVals a b).1 = true ∧ rat (mulVals a b).1 = rat a * rat b ∧
      signOf (mulVals a b).1 = (signOf a != signOf b) ∧
      (isFin c = true → (fmaVals rnd a b c).2 = {} ∧ rat (fmaVals rnd a b c).1 = rat a * rat b + rat c ∧
        (isFin d = true → isFin e = true →
          (dot2Vals rnd a b c d e).2 = {} ∧ rat (dot2Vals rnd a b c d e).1 = rat a * rat b + rat c * rat d + rat e))) ∧
    (a = .nan ∨ b = .nan → sumVals rnd [a, b] = (.nan, {}) ∧ mulVals a b = (.nan, {})) ∧
    (∀ s, a = .inf s → b = .inf !s → sumVals rnd [a, b] = (.nan, { iv := true })) ∧
    (∀ s, a = .inf s → isFin b = true → rat b = 0 → mulVals a b = (.nan, { iv := true }) ∧ mulVals b a = (.nan, { iv := true }))

/-- Rounding a finite value in RD, RU or RZ gives a value on the side that the mode names, and `NX` is set just when the result differs
from the value; in RNE no value of the format is nearer than the result, and of two that are as near the one with an even significand is
taken. Without flush and saturation, for every format with a NaN and every result that is finite. -/
def Obligations.RoundingBracketsOrIsNearest : Prop :=
  ∀ (f : Fmt) (rnd : Rnd) (s : Bool) (m : Nat) (e : Int),
    f ∈ [fmtF32, fmtF16, fmtBf16, fmtE4m3, fmtE5m2] →
    let v := FVal.fin s m e
    let r := f.round rnd false false v
    let y := f.decode r.1
    isFin y = true →
      (rnd = .dn → rat y ≤ rat v) ∧ (rnd = .up → rat v ≤ rat y) ∧ (rnd = .tz → |rat y| ≤ |rat v|) ∧ (r.2.nx = true ↔ rat y ≠ rat v) ∧
      (rnd = .ne → ∀ x, isFin (f.decode x) = true →
        |rat y - rat v| ≤ |rat (f.decode x) - rat v| ∧
        (|rat y - rat v| = |rat (f.decode x) - rat v| → rat (f.decode x) ≠ rat y → r.1 % 2 = 0))

/-- A value of a format rounds to its own encoding, in every mode and without a flag: a zero with its sign, and every finite value; a NaN
rounds to the canonical NaN. An infinity keeps its encoding where the format has one, is the NaN of E4M3 with `IV`, and is the largest finite value
with `OF` and `NX` under saturation. Beyond the range, an overflow becomes the infinity of its sign, or the NaN of E4M3, or the largest finite value
by the mode, with `OF` and `NX`, and the largest finite value under saturation. A result is tiny where the value rounded to the format's
significand with unbounded exponent is below the smallest normal number: `UF` says that it is tiny and inexact, and with the flush it becomes a zero
of its sign, with `UF` and `NX`; a result that is not tiny is the same with the flush. -/
def Obligations.RepresentableOverflowingAndTinyResults : Prop :=
  (∀ (f : Fmt) (rnd : Rnd) (x : Nat),
     f ∈ [fmtF32, fmtF16, fmtBf16, fmtE4m3, fmtE5m2, fmtE2m3, fmtE3m2, fmtE2m1] → x < 2 ^ (1 + f.eb + f.fb) →
     (f.decode x ≠ .nan → f.round rnd false false (f.decode x) = (x, {})) ∧
     (f.decode x = .nan → f.round rnd false false (f.decode x) = (f.nanBits, {}))) ∧
  (∀ e ∈ [(fmtF32, 0x7F7FFFFF, 0x7F800000, 0x7FC00000), (fmtF16, 0x7BFF, 0x7C00, 0x7E00), (fmtBf16, 0x7F7F, 0x7F80, 0x7FC0),
      (fmtE5m2, 0x7B, 0x7C, 0x7E)], e.1.maxBits = e.2.1 ∧ e.1.infBits = e.2.2.1 ∧ e.1.nanBits = e.2.2.2) ∧
  (∀ (f : Fmt) (rnd : Rnd) (ftz s : Bool), f ∈ [fmtF32, fmtF16, fmtBf16, fmtE5m2] →
    let sign := if s then f.signBit else 0
    f.round rnd ftz false (.inf s) = (sign + f.infBits, {}) ∧ f.round rnd ftz true (.inf s) = (sign + f.maxBits, { of := true, nx := true })) ∧
  (∀ (rnd : Rnd) (ftz s : Bool), fmtE4m3.round rnd ftz false (.inf s) = (0x7F, { iv := true }) ∧
    fmtE4m3.round rnd ftz true (.inf s) = ((if s then 0x80 else 0) + 0x7E, { of := true, nx := true })) ∧
  (∀ (f : Fmt) (rnd : Rnd) (sat s : Bool) (m : Nat) (e : Int), f ∈ [fmtF32, fmtF16, fmtBf16, fmtE5m2] →
    let v := FVal.fin s m e
    let sign := if s then f.signBit else 0
    let lim : ℚ := 2 ^ (2 ^ f.eb - 1 - f.bias : Int)
    |rat v| ≥ lim ∨ (rnd = .ne ∧ |rat v| ≥ lim * (1 - 2 ^ (-(f.fb : Int) - 2))) →
      (f.round rnd false sat v).2 = { of := true, nx := true } ∧
      (f.round rnd false sat v).1 = sign +
        if sat = true ∨ rnd = .tz ∨ (rnd = .dn ∧ s = false) ∨ (rnd = .up ∧ s = true) then f.maxBits else f.infBits) ∧
  (∀ (rnd : Rnd) (sat s : Bool) (m : Nat) (e : Int),
    let v := FVal.fin s m e
    |rat v| ≥ 480 ∨ (rnd = .ne ∧ |rat v| > 464) →
      (fmtE4m3.round rnd false sat v).2 = { of := true, nx := true } ∧
      (fmtE4m3.round rnd false sat v).1 =
        if sat = true ∨ rnd = .tz ∨ (rnd = .dn ∧ s = false) ∨ (rnd = .up ∧ s = true) then (if s then 0x80 else 0) + 0x7E else 0x7F) ∧
  ∀ (f : Fmt) (rnd : Rnd) (sat s : Bool) (m : Nat) (e : Int), f ∈ [fmtF32, fmtF16, fmtBf16, fmtE4m3, fmtE5m2] → m ≠ 0 →
    let v := FVal.fin s m e
    let r := f.round rnd false sat v
    let normal : ℚ := 2 ^ (1 - f.bias : Int)
    let away : Prop := (rnd = .up ∧ s = false) ∨ (rnd = .dn ∧ s = true)
    let tiny : Prop := |rat v| < normal ∧ (rnd = .ne → |rat v| < normal * (1 - 2 ^ (-(f.fb : Int) - 2))) ∧
      (away → |rat v| ≤ normal * (1 - 2 ^ (-(f.fb : Int) - 1)))
    (tiny → r.2 = { uf := r.2.nx, nx := r.2.nx } ∧
      (f ∈ [fmtF32, fmtF16, fmtBf16] → f.round rnd true sat v = (if s then f.signBit else 0, { uf := true, nx := true }))) ∧
    (¬ tiny ∨ f ∈ [fmtE4m3, fmtE5m2] → f.round rnd true sat v = r) ∧ (¬ tiny → r.2.uf = false)

/-- An input of a floating-point row: under `FTZ` a subnormal FP32, FP16 or BF16 number becomes a zero of its sign with `ID`; then `ABS`
clears the sign and `NEG` turns it, on every input and without a flag. -/
def Obligations.InputsAreFlushedThenSigned : Prop :=
  ∀ (f : Fmt) (w : WC) (q x : Nat), f ∈ [fmtF32, fmtF16, fmtBf16, fmtE4m3, fmtE5m2] → x < 2 ^ (1 + f.eb + f.fb) → q < 3 →
    let y := fpIn f w q x
    let mag := x % 2 ^ (f.eb + f.fb)
    let sub := mag < 2 ^ f.fb ∧ 0 < mag
    let flush := w.ftz = true ∧ f.eb ≠ 4 ∧ f ≠ fmtE5m2 ∧ sub
    let sign := (w.neg.getLsbD q != (!w.abs.getLsbD q && x.testBit (f.eb + f.fb)))
    (y.1 % 2 ^ (f.eb + f.fb) = mag ∧ ¬ flush ∨ y.1 % 2 ^ (f.eb + f.fb) = 0 ∧ flush) ∧
    y.1 / 2 ^ (f.eb + f.fb) = sign.toNat ∧ (y.2.id = true ↔ flush) ∧ y.2 = { id := y.2.id } ∧
    (w.neg.getLsbD q = false → w.abs.getLsbD q = false → f.flushIn w.ftz x = y)

/-- The arithmetic rows of R125 and the compact forms of R77, which round to nearest and do not flush: each element of D is the exact
result of the elements of the sources, rounded once, with its flags in `%fpf`. -/
def Obligations.FloatRowsRoundOnce : Prop :=
  ∀ (x : Head) (w : WC) (b : B32),
    let row2 (i : Instr) (w : WC) (op : FVal → FVal → FVal × Fl) : Prop := FloatRow i w.type fun c l k =>
      rounded (fmtOf w.type) w ((inputA w c l k).2.or (inputB w c l k).2)
        (op ((fmtOf w.type).decode (inputA w c l k).1) ((fmtOf w.type).decode (inputB w c l k).1))
    let pick (i : Instr) (w : WC) (op : FVal → FVal → Bool) : Prop := FloatRow i w.type fun c l k =>
      (picked (fmtOf w.type) op (inputA w c l k).1 (inputB w c l k).1, (inputA w c l k).2.or (inputB w c l k).2)
    let b32 (t : Ty) : WC := b32WC b t .none
    row2 (.fadd x w) w (fun p q => sumVals w.rnd [p, q]) ∧ row2 (.fsub x w) w (fun p q => sumVals w.rnd [p, q.negate]) ∧
    row2 (.fmul x w) w mulVals ∧
    FloatRow (.ffma x w) w.type (fun c l k =>
      rounded (fmtOf w.type) w (((inputA w c l k).2.or (inputB w c l k).2).or (inputC w c l k).2)
        (fmaVals w.rnd ((fmtOf w.type).decode (inputA w c l k).1) ((fmtOf w.type).decode (inputB w c l k).1)
          ((fmtOf w.type).decode (inputC w c l k).1))) ∧
    pick (.fmin x w) w lesser ∧ pick (.fmax x w) w greater ∧
    row2 (.b32FaddF32 b) (b32 .f32) (fun p q => sumVals .ne [p, q]) ∧
    row2 (.b32FsubF32 b) (b32 .f32) (fun p q => sumVals .ne [p, q.negate]) ∧ row2 (.b32FmulF32 b) (b32 .f32) mulVals ∧
    row2 (.b32FaddF16x2 b) (b32 .f16x2) (fun p q => sumVals .ne [p, q]) ∧ row2 (.b32FmulF16x2 b) (b32 .f16x2) mulVals ∧
    row2 (.b32FaddBf16x2 b) (b32 .bf16x2) (fun p q => sumVals .ne [p, q]) ∧ row2 (.b32FmulBf16x2 b) (b32 .bf16x2) mulVals ∧
    pick (.b32FminF32 b) (b32 .f32) lesser ∧ pick (.b32FmaxF32 b) (b32 .f32) greater

/-- `fcmp` by the conditions of R84, the correctly rounded functions of R130 with the exact functions' values as the model computes them
(notes/assumptions/14.md), `frnd`, `fscale`, `fdot2` and `fclass`. An integral value is the integer to which its argument rounds, with its sign. -/
def Obligations.FloatFunctionsAndComparisons : Prop :=
  (∀ (rnd : Rnd) (s : Bool) (m : Nat) (e : Int), let v := FVal.fin s m e
    isFin (v.integral rnd) = true ∧ signOf (v.integral rnd) = s ∧
      (∃ z : Int, rat (v.integral rnd) = z ∧ IsRounded rnd (rat v) z) ∧
      (FVal.inf s).integral rnd = .inf s ∧ FVal.nan.integral rnd = .nan) ∧
  ∀ (x : Head) (w : WC),
    let f := fmtOf w.type
    let n := tyElems w.type
    let hit (c : Ctx) (l k : Nat) : Bool := compares w.cond.toNat (f.decode (inputA w c l k).1) (f.decode (inputB w c l k).1)
    let r (c : Ctx) (l : Nat) : Bool := if x.sub = 1 then (List.range n).any (hit c l) else (List.range n).all (hit c l)
    let fun1 (i : Instr) (g : FVal → FVal × Fl) : Prop := FloatRow i w.type fun c l k =>
      rounded f w (inputA w c l k).2 (g (f.decode (inputA w c l k).1))
    (∀ s c d, Issues (.fcmp x w) s c → x.d = .none d →
      ∃ w₁ w₂ g, Leaves (.fcmp x w) s c { w₂ with fpf := c.w.fpf ||| Fl.word g } ∧ WritesP c d.toNat (r c) c.w w₁ ∧
        WritesP c w.pd.toNat (fun l => !r c l) w₁ w₂ ∧
        Raises g c.mask n fun l k => (inputA w c l k).2.or (inputB w c l k).2) ∧
    ((∀ d, x.d ≠ .none d) → FloatRow (.fcmp x w) w.type fun c l k =>
      (if hit c l k then 2 ^ tyWidth w.type - 1 else 0, (inputA w c l k).2.or (inputB w c l k).2)) ∧
    fun1 (.rcp x w) rcpVal ∧ fun1 (.rsqrt x w) rsqrtVal ∧ fun1 (.sqrt x w) sqrtVal ∧ fun1 (.exp2 x w) exp2Val ∧
    fun1 (.log2 x w) log2Val ∧ fun1 (.sinpi x w) sinpiVal ∧ fun1 (.cospi x w) cospiVal ∧
    FloatRow (.frnd x w) w.type (fun c l k =>
      ((f.round w.rnd false false ((f.decode (inputA w c l k).1).integral w.rnd)).1, (inputA w c l k).2)) ∧
    FloatRow (.fscale x w) w.type (fun c l k =>
      rounded f w (inputA w c l k).2 ((f.decode (inputA w c l k).1).scaleBy (word (c.b l)).toInt, {})) ∧
    FlagRow (.fdot2 x w) 1 (fun c l =>
      let z := fpIn fmtF32 w 2 (c.c l)
      rounded fmtF32 w ((((inputA w c l 0).2.or (inputA w c l 1).2).or ((inputB w c l 0).2.or (inputB w c l 1).2)).or z.2)
        (dot2Vals w.rnd (f.decode (inputA w c l 0).1) (f.decode (inputB w c l 0).1) (f.decode (inputA w c l 1).1)
          (f.decode (inputB w c l 1).1) (fmtF32.decode z.1))) ∧
    Gives (.fclass x w) 1 (fun c l =>
      let e := elem w.type (c.a l) x.sub.toNat
      let v := f.decode e
      let low (k : Nat) : Nat := if signOf v then 2 ^ k else 2 ^ (7 - k)
      if v = .nan then 256 else if !isFin v then low 0 else if rat v = 0 then low 3 else if f.subnormal e then low 2 else low 1)

/-- The functions of R69: their special values; `rcp`, `sqrt` and `rsqrt` of every other value, whose results stand for the exact ones under
every rounding; and of `exp2`, `log2`, `sinpi` and `cospi`, which the model sums as series (notes/assumptions/14.md), the laws by which one value gives
another, and values in FP32. -/
def Obligations.FunctionsAtTheirSpecialValues : Prop :=
  (∀ s e, rcpVal (.fin s 0 e) = (.inf s, { dz := true }) ∧ rcpVal (.inf s) = (.fin s 0 0, {})) ∧
  (∀ s e, rsqrtVal (.fin s 0 e) = (.inf s, { dz := true }) ∧ rsqrtVal (.inf false) = (.fin false 0 0, {})) ∧
  (∀ m e, m ≠ 0 → ∀ f ∈ [rsqrtVal, sqrtVal, log2Val],
    f (.fin true m e) = (.nan, { iv := true }) ∧ f (.inf true) = (.nan, { iv := true })) ∧
  (∀ s e, sqrtVal (.fin s 0 e) = (.fin s 0 0, {}) ∧ sqrtVal (.inf false) = (.inf false, {})) ∧
  exp2Val (.inf true) = (.fin false 0 0, {}) ∧ exp2Val (.inf false) = (.inf false, {}) ∧
  (∀ s e, exp2Val (.fin s 0 e) = (.fin false 1 0, {})) ∧
  (∀ s m, m < 1000 → exp2Val (.fin s m 0) = (.fin false 1 (if s then -m else m), {})) ∧
  (∀ s e, log2Val (.fin s 0 e) = (.inf true, { dz := true }) ∧ log2Val (.inf false) = (.inf false, {})) ∧
  (∀ k : Nat, k < 1000 → (log2Val (.fin false (2 ^ k) 0)).2 = {} ∧ rat (log2Val (.fin false (2 ^ k) 0)).1 = k) ∧
  (∀ s m, sinpiVal (.fin s m 0) = (.fin s 0 0, {}) ∧ sinpiVal (.inf s) = (.nan, { iv := true })) ∧
  (∀ s m, (cospiVal (.fin s m 0)).2 = {} ∧ rat (cospiVal (.fin s m 0)).1 = (-1) ^ m ∧ cospiVal (.inf s) = (.nan, { iv := true })) ∧
  (∀ s m, m % 2 = 1 → cospiVal (.fin s m (-1)) = (.fin false 0 0, {})) ∧
  (∀ s m e, m ≠ 0 → m < 2 ^ 24 → let v := FVal.fin s m e
    ((rcpVal v).2 = {} ∧ Stands (rcpVal v).1 (1 / (rat v : ℝ))) ∧
    (s = false → ((sqrtVal v).2 = {} ∧ Stands (sqrtVal v).1 (Real.sqrt (rat v : ℝ))) ∧
      (rsqrtVal v).2 = {} ∧ Stands (rsqrtVal v).1 (1 / Real.sqrt (rat v : ℝ)))) ∧
  (∀ m, m < 2 ^ 24 → rat (exp2Val (.fin false (m + 2 ^ 23) (-23))).1 = 2 * rat (exp2Val (.fin false m (-23))).1) ∧
  (∀ m e, m ≠ 0 → (0 : Int) ≤ m.log2 + e → rat (log2Val (.fin false m (e + 1))).1 = rat (log2Val (.fin false m e)).1 + 1) ∧
  (∀ m e, (sinpiVal (.fin true m e)).1 = (sinpiVal (.fin false m e)).1.negate ∧ cospiVal (.fin true m e) = cospiVal (.fin false m e)) ∧
  (∀ s m, sinpiVal (.fin s (m + 2 ^ 24) (-23)) = sinpiVal (.fin s m (-23)) ∧ cospiVal (.fin s (m + 2 ^ 24) (-23)) = cospiVal (.fin s m (-23))) ∧
  ∀ e ∈ [(exp2Val, 0x3F000000, 0x3FB504F3), (exp2Val, 0x3FA00000, 0x401837F0), (exp2Val, 0xC0490FDB, 0x3DE8118D),
      (log2Val, 0x40400000, 0x3FCAE00D), (log2Val, 0x41200000, 0x40549A78), (log2Val, 0x3F333333, 0xBF03BB12),
      (sinpiVal, 0x3E800000, 0x3F3504F3), (sinpiVal, 0x3E000000, 0x3EC3EF15), (sinpiVal, 0x3FA66666, 0xBF4F1BBB),
      (cospiVal, 0x3E800000, 0x3F3504F3), (cospiVal, 0x3E000000, 0x3F6C835E), (cospiVal, 0x3FA66666, 0xBF16791A)],
    fmtF32.round .ne false false (e.1 (fmtF32.decode e.2.1)).1 = (e.2.2, { nx := true })

/-- The conversions: `cvt` between integers and floats, `pack` and `unpack` of elements, `cvtd` of a stored element with its scale, and
`cvtq` of a block of 32 lanes, whose word holds the element, the scale and the status in the places of R134. A float becomes the integer to which it
rounds; an element is worth what R57 to R59 say, times its scale; and quantising takes the scale of the greatest value and the nearest elements, an
INT8 element also between -2 and -127/64, where log 42 says how R70 is read. -/
def Obligations.ConversionsGiveTheirResults : Prop :=
  (∀ (rnd : Rnd) (sg : Bool) (n : Nat), 0 < n →
    let lo : Int := if sg then -2 ^ (n - 1) else 0
    let hi : Int := if sg then 2 ^ (n - 1) - 1 else 2 ^ n - 1
    toIntBits sg n rnd .nan = (0, { iv := true }) ∧
    (∀ s, (toIntBits sg n rnd (.inf s)).2 = { iv := true } ∧
      ((toIntBits sg n rnd (.inf s)).1 : Int) = (if s then lo else hi) % 2 ^ n) ∧
    ∀ s m e z, let v := FVal.fin s m e
      let r := toIntBits sg n rnd v
      IsRounded rnd (rat v) z →
      (z < lo → (r.1 : Int) = lo % 2 ^ n ∧ r.2 = { iv := true }) ∧ (hi < z → (r.1 : Int) = hi % 2 ^ n ∧ r.2 = { iv := true }) ∧
      (lo ≤ z → z ≤ hi → (r.1 : Int) = z % 2 ^ n ∧ (rat v = z → r.2 = {}) ∧ (rat v ≠ z → r.2 = { nx := true }))) ∧
  (∀ x : Nat, x < 256 →
    let term (sg : Bool) (e : Nat) : ℚ := if e = 7 then 0 else (if sg then -1 else 1) * 2 ^ (-(e : Int))
    (∀ code ∈ [10, 11, 12], isFin (elemValue code x) = true ∧ (rat (elemValue code x) = 0 → signOf (elemValue code x) = false)) ∧
    rat (elemValue 10 x) = ((if x < 128 then (x : Int) else x - 256 : Int) : ℚ) / 64 ∧
    rat (elemValue 11 x) = term (bit x 7) (bits x 6 4) + term (bit x 3) (bits x 2 0) ∧
    rat (elemValue 12 x) = ((if x < 128 then (x : Int) else x - 256 : Int) : ℚ)) ∧
  (∀ e ∈ [(0, fmtF32, 32), (1, fmtF16, 16), (2, fmtBf16, 16), (3, fmtE4m3, 8), (5, fmtE4m3, 8), (4, fmtE5m2, 8), (6, fmtE5m2, 8),
      (7, fmtE2m3, 6), (8, fmtE3m2, 6), (9, fmtE2m1, 4)], ∀ x, x < 2 ^ e.2.2 → elemValue e.1 x = e.2.1.decode x) ∧
  (∀ code x scale, ((code < 5 ∨ 11 < code) → scaledElem code x scale = elemValue code x) ∧
    (5 ≤ code → code ≤ 11 → scaledElem code x 255 = .nan ∧
      (scale < 255 → (isFin (elemValue code x) = false → scaledElem code x scale = elemValue code x) ∧
        (isFin (elemValue code x) = true → isFin (scaledElem code x scale) = true ∧ signOf (scaledElem code x scale) = signOf (elemValue code x) ∧
          rat (scaledElem code x scale) = rat (elemValue code x) * 2 ^ ((scale : Int) - 127))))) ∧
  (∀ e ∈ [(5, (8 : Int)), (6, 15), (7, 2), (8, 4), (9, 2), (10, 0)], ∀ vs : List FVal,
    let code := e.1
    let q := quantise code vs
    (∀ n v, vs[n]? = some v → isFin v = false → (∀ k < n, ∀ u, vs[k]? = some u → isFin u = true) →
      q = ⟨0xFF, vs.map fun _ => 0, some n, false⟩) ∧
    ((∀ v ∈ vs, isFin v = true) →
      let value (n : Nat) : FVal := elemValue code (q.elems.getD n 0)
      let y (v : FVal) : ℚ := rat v / 2 ^ ((q.scale : Int) - 127)
      q.first = none ∧ q.elems.length = vs.length ∧ ((∀ v ∈ vs, rat v = 0) → q.scale = 0) ∧
      (∀ t : Int, (∃ v ∈ vs, (2 : ℚ) ^ t ≤ |rat v|) → (∀ v ∈ vs, |rat v| < (2 : ℚ) ^ (t + 1)) →
        (q.scale : Int) = max (t - e.2) (-127) + 127) ∧
      (q.nx = true ↔ ∃ n v, vs[n]? = some v ∧ rat (value n) ≠ y v) ∧
      ∀ n v, vs[n]? = some v → q.elems.getD n 0 < 2 ^ elemBits code ∧ isFin (value n) = true ∧
        (code ≠ 10 → signOf (value n) = signOf v) ∧
        ∀ x, x < 2 ^ elemBits code → isFin (elemValue code x) = true →
          |rat (value n) - y v| ≤ |rat (elemValue code x) - y v| ∧
          (|rat (value n) - y v| = |rat (elemValue code x) - y v| → rat (elemValue code x) ≠ rat (value n) → q.elems.getD n 0 % 2 = 0))) ∧
  ∀ (x : Head) (w : WC),
    let t := w.type
    let f := fmtOf t
    (∀ st, tyOf (x.sub.toNat % 16) = some st →
      let n := x.sub.toNat / 16
      let src (c : Ctx) (l : Nat) : Nat × Fl := fpIn (fmtOf st) w 0 (elem st (c.a l) n)
      let v (c : Ctx) (l : Nat) : FVal := (fmtOf st).decode (src c l).1
      (tyFloat st = false → tyFloat t = false → Gives (.cvt x w) (tyRegs t) fun c l => reduceInt t w.sat (elemVal st (c.a l) 0)) ∧
      (tyFloat st = false → tyFloat t = true → FlagRow (.cvt x w) 1 fun c l =>
        f.round w.rnd w.ftz w.sat (.fin (decide (elemVal st (c.a l) 0 < 0)) (elemVal st (c.a l) 0).natAbs 0)) ∧
      (tyFloat st = true → tyFloat t = false → FlagRow (.cvt x w) (tyRegs t) fun c l =>
        ((toIntBits (tySigned t) (tyWidth t) w.rnd (v c l)).1,
          (src c l).2.or (toIntBits (tySigned t) (tyWidth t) w.rnd (v c l)).2)) ∧
      (tyFloat st = true → tyFloat t = true → FlagRow (.cvt x w) 1 fun c l =>
        ((f.round w.rnd w.ftz w.sat (v c l)).1, (src c l).2.or (f.round w.rnd w.ftz w.sat (v c l)).2))) ∧
    (let one (y : Nat) : Nat × Fl :=
        if tyFloat t then
          ((f.round w.rnd w.ftz w.sat (fmtF32.decode (fmtF32.flushIn w.ftz y).1)).1,
            (fmtF32.flushIn w.ftz y).2.or (f.round w.rnd w.ftz w.sat (fmtF32.decode (fmtF32.flushIn w.ftz y).1)).2)
        else (reduceInt t w.sat (if tySigned t then (word y).toInt else y), {})
      ∀ s c, Issues (.pack x w) s c → ∃ val w₁ g, Leaves (.pack x w) s c { w₁ with fpf := c.w.fpf ||| Fl.word g } ∧
        WritesD c 1 val c.w w₁ ∧ Raises g c.mask 2 (fun l k => if k = 0 then (one (c.a l)).2 else (one (c.b l)).2) ∧
        ∀ l ∈ c.mask, ∀ k, k < tyElems t → elem t (val l) k =
          if k = 2 * x.sub.toNat then (one (c.a l)).1
          else if k = 2 * x.sub.toNat + 1 then (one (c.b l)).1 else elem t (c.c l) k) ∧
    (tyFloat t = false → Gives (.unpack x w) 1 fun c l => (BitVec.ofInt 32 (elemVal t (c.a l) x.sub.toNat)).toNat) ∧
    (tyFloat t = true → FlagRow (.unpack x w) 1 fun c l =>
      let y := f.flushIn w.ftz (elem t (c.a l) x.sub.toNat)
      ((fmtF32.round .ne false false (f.decode y.1)).1, y.2)) ∧
    FlagRow (.cvtd x w) 1 (fun c l =>
      let code := x.sub.toNat
      let scale := if hasScale code then c.b l % 256 else 127
      rounded f w {} (scaledElem code (c.a l % 2 ^ elemBits code) scale, { iv := hasScale code && decide (scale = 255) })) ∧
    ∀ s c, Issues (.cvtq x w) s c → c.width ∈ [32, 64, 128] →
      let block (p : Nat) : QBlock := quantise x.sub.toNat ((List.range 32).map fun j =>
        if c.mask.any fun l => decide (l = 32 * p + j) then fmtF32.decode (c.a (32 * p + j)) else .fin false 0 0)
      let bad := (List.range (c.width / 32)).find? fun p => (block p).first.isSome
      ∃ val w₁ g, Leaves (.cvtq x w) s c { w₁ with fpf := c.w.fpf ||| Fl.word g } ∧ WritesD c 1 val c.w w₁ ∧
        Raises g c.mask 1 (fun _ _ => { iv := bad.isSome, nx := (List.range (c.width / 32)).any fun p => (block p).nx }) ∧
        (∀ l ∈ c.mask, bits (val l) 7 0 = (block (l / 32)).elems.getD (l % 32) 0 ∧ bits (val l) 15 8 = (block (l / 32)).scale ∧
          bits (val l) 23 16 = 0 ∧ bits (val l) 28 24 = (bad.bind fun p => (block p).first).getD 0 ∧
          bits (val l) 30 29 = bad.getD 0 ∧ bit (val l) 31 = bad.isSome)


namespace Sys2Proof.Claims

open Sys2Proof.Machine

/-- The lanes of `Mask()` whose predicate `p` holds. -/
def lanesWith (c : Ctx) (p : Nat) : List Nat := c.mask.filter fun l => c.w.pred p l

/-- No lane register of the `n` from source A waits for a result in the lane that `j` names (09 R118). -/
def readable (c : Ctx) (n : Nat) (j : Nat → Nat) : Prop := ∀ l ∈ c.mask, c.waitsFor c.aReg n (j l) = false

/-- Every issue of a cross-lane move whose reads need not wait completes: D gets A of the lane that `j` names, as `Ctx.crossVal` reads it, and
`PD` whether that lane is in `Mask()` (09 R119). -/
def MoveRow (i : Instr) (n pd : Nat) (j : Ctx → Nat → Nat) : Prop :=
  ∀ (s : State) (c : Ctx), Issues i s c → readable c n (j c) →
    ∃ w₁ w', Leaves i s c w' ∧ WritesD c n (fun l => c.crossVal c.aReg n (j c l)) c.w w₁ ∧
      WritesP c pd (fun l => decide (j c l ∈ c.mask)) w₁ w'

/-- The lanes of `Mask()` up to lane `l`, or below it with `.excl`, in increasing order. -/
def upTo (excl : Bool) (c : Ctx) (l : Nat) : List Nat := c.mask.filter fun j => decide (j < l) || (!excl && decide (j = l))

/-- The running value of a float reduction over some lanes, the first as it is read (09 R120). -/
def running (op : Nat) (w : WC) (c : Ctx) : List Nat → Nat × Fl
  | [] => (if op = 0 then 0 else if op = 1 then 0x7F800000 else 0xFF800000, {})
  | j :: r => (r.map fun i => fmtF32.flushIn w.ftz (c.a i)).foldl (redFloat op w) (redFirst w.ftz (c.a j))

/-- An integer or logic reduction `y` of A over some lanes; over none, the identity (09 R120). -/
def Reduces (op : Nat) (w : WC) (c : Ctx) (ls : List Nat) (y : Nat) : Prop :=
  let t := w.type
  let a (j : Nat) : Int := elemVal t (c.a j) 0
  (op = 0 → y = reduceInt t w.sat ((ls.map a).sum)) ∧
  (op = 1 → if ls = [] then elemVal t y 0 = greatest t else (∃ j ∈ ls, elemVal t y 0 = a j) ∧ ∀ j ∈ ls, elemVal t y 0 ≤ a j) ∧
  (op = 2 → if ls = [] then elemVal t y 0 = least t else (∃ j ∈ ls, elemVal t y 0 = a j) ∧ ∀ j ∈ ls, a j ≤ elemVal t y 0) ∧
  (∀ n, n < tyWidth t → (op = 3 → y.testBit n = ls.all fun j => (c.a j).testBit n) ∧
    (op = 4 → y.testBit n = ls.any fun j => (c.a j).testBit n) ∧
    (op = 5 → y.testBit n = (ls.map fun j => (c.a j).testBit n).foldr xor false))

/-- The register that lane `l` reaches through index register `k` from base `b`, and that it may: the index is below the limit, the
number is legal, and the register is not sealed in the lane (09 R121). -/
def reached (c : Ctx) (k b l : Nat) : Nat := b + (c.w.xreg k l).toNat % 256
def Reaches (c : Ctx) (k b : Nat) : Prop :=
  ∀ l ∈ c.mask, (c.w.xreg k l).toNat % 256 < (c.w.xreg k l).toNat / 256 ∧ reached c k b l < 256 ∧
    c.vOk (reached c k b l) 1 = true ∧ c.w.sealed .v (reached c k b l) l = false

end Sys2Proof.Claims

/-! ### Predicates and the warp -/

/-- `pset` in its four modes, and `vote`, `ballot` and `mcnt` over `Mask()`. -/
def Obligations.PredicatesVotesAndBallots : Prop :=
  ∀ (x : Head) (w : WC),
    let p := w.imm.toNat
    let votes (c : Ctx) : Bool :=
      if x.sub = 0 then c.mask.all fun l => c.w.pred p l
      else if x.sub = 1 then c.mask.any fun l => c.w.pred p l
      else (c.mask.all fun l => c.w.pred p l) || c.mask.all fun l => !c.w.pred p l
    (∀ d, x.d = .none d → x.sub.toNat % 4 = 0 → GivesPred (.pset x w) (fun _ => d.toNat) fun c l =>
      (x.sub.toNat / 4).testBit (2 * (c.w.pred (p % 8) l).toNat + (c.w.pred (p / 8) l).toNat)) ∧
    (∀ d, x.d = .none d → x.sub.toNat % 4 = 1 → GivesPred (.pset x w) (fun _ => d.toNat) fun c l => (c.a l).testBit p) ∧
    (x.sub.toNat % 4 = 2 → GivesSuch (.pset x w) 1 fun c l y => ∀ j, y.testBit j = (decide (j < 8) && c.w.pred j l)) ∧
    (x.sub.toNat % 4 = 3 → ∀ s c, Issues (.pset x w) s c → ∃ w', Leaves (.pset x w) s c w' ∧ { w' with m := c.w.m } = c.w ∧
      (∀ l ∈ c.mask, ∀ k, k < 7 → w'.pred k l = (c.a l).testBit k) ∧
      ∀ k l, k < 512 → l ∉ c.mask → w'.pred k l = c.w.pred k l) ∧
    (∀ d, x.d = .none d → GivesPred (.vote x w) (fun _ => d.toNat) fun c _ => votes c) ∧
    ((∀ d, x.d ≠ .none d) → Gives (.vote x w) 1 fun c _ => (votes c).toNat) ∧
    (∀ s c, Issues (.ballot x w) s c → c.width ∈ [32, 64, 128] →
      ∃ y w', Leaves (.ballot x w) s c w' ∧ WritesD c (c.width / 32) (fun _ => y) c.w w' ∧
        ∀ j, y.testBit j = decide (j ∈ lanesWith c p)) ∧
    Gives (.mcnt x w) 1 (fun c l => ((lanesWith c p).filter fun j => decide (x.sub = 0) || decide (j < l)).length)

/-- `xlane`, `bcast` and `smov`, and their compact forms, read another lane's register when it need not be waited for, by the table of R119.
A read of a register that is sealed in a lane outside `Mask()` parks the split at the instruction until registers are unsealed; it raises no
fault. A register of another lane reads as it is, but one whose result the read waited for reads as it was returned, whatever is written there
before it is read (09 R118); that a result discarded with its lane reads as it was computed is the model's choice (notes/assumptions/45.md). -/
def Obligations.CrossLaneMoves : Prop :=
  ∀ (x : Head) (w : WC) (v : B32),
    let n := tyRegs w.type
    let bc (c : Ctx) (_ : Nat) : Nat := c.b c.lowMask % c.width
    (∀ sub ∈ [(0, fun (c : Ctx) (i : Nat) => c.b i % c.width), (1, fun c i => (i ^^^ c.b i) % c.width),
        (2, fun c i => if i < c.b i then i else i - c.b i), (3, fun c i => if c.width ≤ i + c.b i then i else i + c.b i),
        (4, fun c i => (i + c.b i) % c.width)],
      x.sub.toNat = sub.1 → MoveRow (.xlane x w) n w.pd.toNat sub.2) ∧
    MoveRow (.bcast x w) n w.pd.toNat bc ∧
    MoveRow (.b32XlaneFrom v) 1 7 (fun c i => c.b i % c.width) ∧
    MoveRow (.b32XlaneSwap v) 1 7 (fun c i => (i ^^^ c.b i) % c.width) ∧
    MoveRow (.b32Bcast v) 1 7 bc ∧
    (∀ s c, Issues (.smov x w) s c → c.mask = [] → Goes (.smov x w) s c (issued c s) .next) ∧
    (∀ s c, Issues (.smov x w) s c → c.mask ≠ [] →
      let j := if x.sub = 1 then c.b c.lowMask % c.width else c.lowMask
      let waits : Prop := (∃ k, c.x.a = .v k) ∧ c.waitsFor c.aReg n j = true
      (¬ waits → ∃ w', Leaves (.smov x w) s c w' ∧
        WritesD c n (fun _ => if (∃ k, c.x.a = .v k) then c.crossVal c.aReg n j else c.a j) c.w w') ∧
      (waits → exec (.smov x w) s = .next (c.parkAt (issued c s) .seal []))) ∧
    (∀ s c l, Issues (.xlane x w) s c → x.sub = 0 → l ∈ c.mask → c.waitsFor c.aReg n (c.b l % c.width) = true →
      exec (.xlane x w) s = .next (c.parkAt (issued c s) .seal [])) ∧
    (∀ (c : Ctx) (r k j : Nat), c.crossVal r k j = ((List.range k).map fun i => 2 ^ (32 * i) *
      (match Store.look c.sp.crossed (laneKey (r + i) j) with
        | some y => if j ∈ c.mask then c.w.vreg (r + i) j else y
        | none => c.w.vreg (r + i) j).toNat).sum) ∧
    ∀ (sp : Split) (gone : List Seal) (value : Nat → Nat → Word), (∀ y ∈ gone, y.num < 512) →
      (sp.st ≠ .parked .seal → sp.cross gone value = sp) ∧
      (sp.st = .parked .seal → { sp.cross gone value with crossed := sp.crossed } = sp ∧
        ∀ r j, r < 512 → Store.look (sp.cross gone value).crossed (laneKey r j) =
          match Store.look sp.crossed (laneKey r j) with
          | some y => some y
          | none => if ∃ y ∈ gone, y.kind = .v ∧ y.num = r ∧ y.lane = j then some (value r j) else none)

/-- `wred` and `wscan`: reductions of A over the lanes of `Mask()` in increasing lane order, exactly and reduced once for integers, rounded
at each lane for floats. A float sum adds each further lane's flushed value to the running value and rounds it once, a minimum or maximum takes
one of the two by R127; the first value is flushed alone, and a NaN there is the canonical one. The flags of every addition of `wscan` are set,
also with `.excl`, where no lane receives the last result (the model's choice, notes/assumptions/45.md). -/
def Obligations.ReductionsAndScans : Prop :=
  (∀ (w : WC) (p q : Nat × Fl),
    let sum := sumVals w.rnd [fmtF32.decode p.1, fmtF32.decode q.1]
    let f := fmtF32.round w.rnd w.ftz false sum.1
    redFloat 0 w p q = (f.1, (p.2.or q.2).or (sum.2.or f.2)) ∧
    redFloat 1 w p q = (picked fmtF32 lesser p.1 q.1, p.2.or q.2) ∧ redFloat 2 w p q = (picked fmtF32 greater p.1 q.1, p.2.or q.2) ∧
    ∀ y, redFirst w.ftz y =
      (if fmtF32.decode (fmtF32.flushIn w.ftz y).1 = .nan then 0x7FC00000 else (fmtF32.flushIn w.ftz y).1, (fmtF32.flushIn w.ftz y).2)) ∧
  ∀ (x : Head) (w : WC),
    let op := x.sub.toNat % 8
    let excl := x.sub.getLsbD 3
    (tyFloat w.type = false →
      GivesSuch (.wred x w) (tyRegs w.type) (fun c _ y => Reduces op w c c.mask y) ∧
      GivesSuch (.wscan x w) (tyRegs w.type) (fun c l y => Reduces op w c (upTo excl c l) y)) ∧
    (tyFloat w.type = true →
      FlagRow (.wred x w) 1 (fun c _ => running op w c c.mask) ∧
      FlagRow (.wscan x w) 1 (fun c l => ((running op w c (upTo excl c l)).1, (running op w c (upTo false c l)).2)))

/-! ### Index and block registers -/

/-- `vget` and `vput` reach the register that the lane's index names; `vput` seals it for that lane alone. `xset` writes index and limit,
or adds to the index. An index at or past the limit, or a register number that is not legal, is fault 0x03 with the low bits of
the number as detail, in each such lane, and no lane moves. `xset` has no destination and `SUB`[6:3] zero, and `xset.add` does not read B. -/
def Obligations.IndexedRegisters : Prop :=
  ∀ (x : Head) (w : WC),
    let k := x.sub.toNat % 4
    (∀ s c n, x.a = .v n → Issues (.vget x w) s c → Reaches c k n.toNat →
      ∃ w', Leaves (.vget x w) s c w' ∧ WritesD c 1 (fun l => (c.w.vreg (reached c k n.toNat l) l).toNat) c.w w') ∧
    (∀ s c n, x.d = .v n → Issues (.vput x w) s c → Reaches c k n.toNat →
      ∃ w', exec (.vput x w) s = .next (c.finish (c.setWarp (issued c s) w') .next []
          (c.mask.map fun l => (RegKind.v, reached c k n.toNat l, l))) ∧
        { w' with v := c.w.v } = c.w ∧ (∀ l ∈ c.mask, w'.vreg (reached c k n.toNat l) l = word (c.a l)) ∧
        ∀ r l, r < 512 → ¬ (l ∈ c.mask ∧ r = reached c k n.toNat l) → w'.vreg r l = c.w.vreg r l) ∧
    (∀ s c, Issues (.xset x w) s c → ∃ w', Leaves (.xset x w) s c w' ∧ { w' with x := c.w.x } = c.w ∧
      (∀ l ∈ c.mask, (w'.xreg k l).toNat =
        if x.sub.getLsbD 2 then (c.w.xreg k l).toNat / 256 * 256 + ((c.w.xreg k l).toNat % 256 + c.a l % 256) % 256
        else c.b l % 256 * 256 + c.a l % 256) ∧
      ∀ j l, j < 512 → ¬ (l ∈ c.mask ∧ j = k) → w'.xreg j l = c.w.xreg j l) ∧
    (encOk (.xset x w) = true → x.d = .none 0 ∧ x.sub.toNat < 8) ∧
    (∀ (s : State) (c : Ctx), s.ctx? (.xset x w) = some c → x.sub.getLsbD 2 = true → c.form.b.n = 0) ∧
    ∀ s c n i, (i = .vget x w ∧ x.a = .v n) ∨ (i = .vput x w ∧ x.d = .v n) → Issues i s c →
      let bad (l : Nat) : Prop := (c.w.xreg k l).toNat / 256 ≤ (c.w.xreg k l).toNat % 256 ∨ 256 ≤ reached c k n.toNat l ∨
        c.vOk (reached c k n.toNat l) 1 = false
      (∃ l ∈ c.mask, bad l) →
      ∃ fs, exec i s = .next (c.raise (untouched c s) fs) ∧
        ∀ l ∈ c.mask, bad l → ({ lane := l, code := 0x03, detail := reached c k n.toNat l % 256 } : LaneFault) ∈ fs

/-- `bmov` writes the block registers that the warp owns, once for the warp: read from another quarter in the clock of the write they
still give the earlier value. `bpass` hands a range to a warp of the crew that has not retired. With an empty mask both do nothing; without
ownership both are fault 0x05 and change nothing. -/
def Obligations.BlockRegisters : Prop :=
  ∀ (x : Head) (w : WC) (s : State) (c : Ctx),
    (∀ d, x.d = .b d → Issues (.bmov x w) s c →
      let n := tyRegs w.type
      let mine (r : Nat) : Prop := d.toNat ≤ r ∧ r < d.toNat + n
      (c.mask = [] → Goes (.bmov x w) s c (issued c s) .next) ∧
      (c.mask ≠ [] → (∃ r, mine r ∧ (c.cr.breg r).owner ≠ c.wi) →
        exec (.bmov x w) s = .next (c.raise (untouched c s) [{ lane := c.lowMask, code := 0x05 }])) ∧
      (c.mask ≠ [] → (∀ r, mine r → (c.cr.breg r).owner = c.wi) →
        ∃ cr, Goes (.bmov x w) s c ((issued c s).setCrew c.core c.slot cr) .next ∧ { cr with b := c.cr.b } = c.cr ∧
          (∀ k, k < n → (cr.breg (d.toNat + k)).val = word (c.a c.lowMask / 2 ^ (32 * k)) ∧
            (cr.breg (d.toNat + k)).owner = c.wi ∧
            ∀ clk q, cr.bval1 clk q (d.toNat + k) =
              if clk = c.clk ∧ q ≠ c.w.quarter ∧ c.w.quarter < 4 then (c.cr.breg (d.toNat + k)).val
              else word (c.a c.lowMask / 2 ^ (32 * k))) ∧
          ∀ r, ¬ mine r → cr.breg r = c.cr.breg r)) ∧
    ∀ b, x.a = .b b → Issues (.bpass x w) s c →
      let mine (r : Nat) : Prop := b.toNat ≤ r ∧ r < b.toNat + x.sub.toNat + 1
      let heir := c.b c.lowMask
      let may : Prop := (∀ r, mine r → (c.cr.breg r).owner = c.wi) ∧ heir < c.cr.shape.warps ∧ (c.cr.warp heir).retired = false
      (c.mask = [] → Goes (.bpass x w) s c (issued c s) .next) ∧
      (c.mask ≠ [] → ¬ may →
        exec (.bpass x w) s = .next (c.raise (untouched c s) [{ lane := c.lowMask, code := 0x05 }])) ∧
      (c.mask ≠ [] → may →
        ∃ cr, Goes (.bpass x w) s c ((issued c s).setCrew c.core c.slot cr) .next ∧ { cr with b := c.cr.b } = c.cr ∧
          ∀ r, cr.breg r = if mine r then { c.cr.breg r with owner := heir } else c.cr.breg r)

/-! ### Control flow -/

/-- `bra` takes the lanes of `Mask()` to its target, four bytes times the offset from the branch; `call` also writes the address of the next
instruction to D. `brx`, `call.r` and `ret` take each lane to the address in its A, unless one is not canonical (fault 0x1E) or no multiple of 4 (fault 0x06 with `DETAIL` 2); the canonical
check comes first, the lanes of `Mask()` are checked at issue, and then no lane moves. -/
def Obligations.BranchesGoToTheirTargets : Prop :=
  ∀ (x : Head) (w : WB) (v : WS) (s : State) (c : Ctx),
    let near : List (Nat × Addr) := c.mask.map fun l => (l, c.pc + (w.off.signExtend 64 <<< 2))
    let far : List (Nat × Addr) := c.mask.map fun l => (l, BitVec.ofNat 64 (c.a l))
    let legal : Prop := ∀ l ∈ c.mask, c.a l < 2 ^ 56 ∧ c.a l % 4 = 0
    let fault (l : Nat) : Option LaneFault :=
      if 2 ^ 56 ≤ c.a l then some { lane := l, code := 0x1E }
      else if c.a l % 4 ≠ 0 then some { lane := l, code := 0x06, detail := 2 } else none
    (Issues (.bra x w) s c → Goes (.bra x w) s c (issued c s) (.goto near)) ∧
    (Issues (.call x w) s c → ∃ w', Goes (.call x w) s c (c.setWarp (issued c s) w') (.goto near) ∧
      WritesD c 2 (fun _ => (c.pc + 12).toNat) c.w w') ∧
    (Issues (.brx x w) s c → legal → Goes (.brx x w) s c (c.setWarp (issued c s) c.w) (.goto far)) ∧
    (Issues (.ret x v) s c → legal → Goes (.ret x v) s c (c.setWarp (issued c s) c.w) (.goto far)) ∧
    (Issues (.callR x w) s c → legal → ∃ w', Goes (.callR x w) s c (c.setWarp (issued c s) w') (.goto far) ∧
      WritesD c 2 (fun _ => (c.pc + 12).toNat) c.w w') ∧
    (c.mask.filterMap fault ≠ [] → ∀ i ∈ [Instr.brx x w, .callR x w, .ret x v], Issues i s c →
      exec i s = .next (c.raise (untouched c s) (c.mask.filterMap fault)))

/-- A branch parts the issuing split: the lanes outside `Mask()` go on at the next instruction, each group of lanes of equal target stands
at its target as one split, and the other splits stay as they are. A branch that parts its split is counted in `%mpred` where its mask was
predicted, which is open (DESIGN CHOICE, notes/assumptions/5.md). -/
def Obligations.BranchPartsTheSplit : Prop :=
  ∀ (i : Instr) (s : State) (c : Ctx) (a : Nat → Addr) (n : Nat) (w : Warp), s.ctx? i = some c →
    let w' := c.branch (c.mask.map fun l => (l, a l)) n w
    (∀ l ∈ c.sp.lanes, ∃ sp ∈ w'.splits, sp.st = .run ∧ sp.pc = (if l ∈ c.mask then a l else c.next) ∧
      ∀ j, j ∈ sp.lanes ↔ j ∈ c.sp.lanes ∧ (j ∈ c.mask ↔ l ∈ c.mask) ∧ (l ∈ c.mask → a j = a l)) ∧
    let parted : Prop := ∃ l ∈ c.sp.lanes, ∃ j ∈ c.sp.lanes, l ∈ c.mask ∧ (j ∉ c.mask ∨ a l ≠ a j)
    (∀ sp ∈ w.splits, c.low ∉ sp.lanes → sp ∈ w'.splits) ∧ w'.v = w.v ∧ w'.s = w.s ∧ w'.m = w.m ∧ w'.meets = w.meets ∧
    (¬ (parted ∧ Config.predicted n = true) → w'.mpred = w.mpred) ∧
    (parted → Config.predicted n = true → bits w'.mpred.toNat 31 0 = (bits w.mpred.toNat 31 0 + 1) % 2 ^ 32 ∧
      bits w'.mpred.toNat 63 32 = bits w.mpred.toNat 63 32)

/-- `exit` takes the lanes of `Mask()` out of every split and meeting stack, once the windows of the crew are written back where they are the
last lanes of a warp that holds sections (DEDUCED, notes/assumptions/35.md); a handler whose last lane exits ends: v240 to v255, m0 to m6, x0
to x3 of the lanes that have not exited, and `%fpf`, are restored from the save area, the hold is empty, and the suspended splits go on where
they stood (09 R141). `yield` ends the run of its split as its 256th instruction would and changes no register; `meet` pushes its address on
the stack of each lane of `Mask()`, and a full stack of eight is fault 0x1F in its lane, with no push in any. -/
def Obligations.ExitYieldAndMeet : Prop :=
  ∀ (x : Head) (v : WS) (w : WB) (s : State) (c : Ctx),
    (∀ t, Issues (.exit x v) s c →
      Released c (decide (c.w.secs ≠ [] ∧ ∀ sp ∈ c.w.allSplits, ∀ l ∈ sp.lanes, l ∈ c.mask)) (issued c s) t → Goes (.exit x v) s c t .exit) ∧
    (∀ wp : Warp, wp.save = none →
      (∀ sp ∈ (c.exitLanes wp).splits, ∀ l ∈ sp.lanes, l ∉ c.mask) ∧ (∀ l ∈ c.mask, (c.exitLanes wp).stack l = []) ∧
      (∀ l ∈ c.sp.lanes, l ∉ c.mask → ∃ sp ∈ (c.exitLanes wp).splits, l ∈ sp.lanes) ∧ (c.exitLanes wp).v = wp.v) ∧
    (∀ (wp : Warp) (a : Save), wp.save = some a →
      let w' := c.exitLanes wp
      (∀ l ∈ c.sp.lanes, l ∉ c.mask → w'.save.isSome = true ∧ ∃ sp ∈ w'.splits, l ∈ sp.lanes) ∧
      ((∀ l ∈ c.sp.lanes, l ∈ c.mask) → (∀ sp ∈ wp.splits, ∀ l ∈ sp.lanes, l ∈ c.mask) →
        w'.save = none ∧ w'.splits = a.splits ∧ w'.fpf = a.fpf ∧ w'.hold = [] ∧ (∀ l, l ∉ c.mask → w'.stack l = Store.get a.meets [] l) ∧
        (∀ sp ∈ a.splits, ∀ l ∈ sp.lanes,
          (∀ r, 240 ≤ r → r < 512 → w'.vreg r l = Store.get a.v 0 (laneKey r l)) ∧
          (∀ k, k < 7 → w'.pred k l = Store.get a.m false (laneKey k l)) ∧
          ∀ k, k < 4 → w'.xreg k l = Store.get a.x 0 (laneKey k l)) ∧
        (∀ r l, r < 240 → w'.vreg r l = wp.vreg r l) ∧ w'.s = wp.s ∧ w'.conv = wp.conv ∧ w'.mpred = wp.mpred)) ∧
    (Issues (.yield x v) s c → Goes (.yield x v) s c (issued c s) .yield) ∧
    (∀ (wp : Warp) (n : Nat), (c.move .yield n wp).run = 256 ∧ (c.move .yield n wp).cur = some c.low ∧
      { c.move .yield n wp with splits := wp.splits, run := wp.run, cur := wp.cur } = wp) ∧
    (Issues (.meet x w) s c → (∀ l ∈ c.mask, (c.w.stack l).length < 8) →
      ∃ w', Leaves (.meet x w) s c w' ∧ { w' with meets := c.w.meets } = c.w ∧
        (∀ l ∈ c.mask, w'.stack l = (c.pc + (w.off.signExtend 64 <<< 2)) :: c.w.stack l) ∧
        ∀ l, l ∉ c.mask → w'.stack l = c.w.stack l) ∧
    (Issues (.meet x w) s c → (∃ l ∈ c.mask, 8 ≤ (c.w.stack l).length) →
      exec (.meet x w) s = .next (c.raise (untouched c s)
        ((c.mask.filter fun l => decide (8 ≤ (c.w.stack l).length)).map fun l => { lane := l, code := 0x1F })))

/-- The split that a warp issues from next, and how lanes meet. A split can be selected while it runs and is in the middle of no instruction.
Selected is the current one while it can be and has issued fewer than 256 instructions in a row; else, and where the current split is gone, the
one whose program counter is lowest, of equal ones the one of lowest first lane; after 256 those above the current split's come first. That
the count starts anew when the split of 256 is selected again is the model's reading (notes/assumptions/41.md). A lane at its top entry is
held. The held lanes of an address are released just when every lane whose stack holds the address is held there; the release pops their
top entry and they go on there as one split. Splits that stand together with equal top entries merge. With every split held and none to
release, the split of lowest program counter is released and `%conv` counts it, or under `STRICT` its lanes take fault 0x16. -/
def Obligations.SplitSelectionAndMeeting : Prop :=
  ∀ (w : Warp),
    let can (sp : Split) : Prop := sp.st = .run ∧ sp.again = none
    let first (sp : Split) (p : Split → Prop) : Prop := ∀ t ∈ w.splits, can t → p t →
      sp.pc.toNat < t.pc.toNat ∨ (sp.pc = t.pc ∧ sp.lanes.headD 0 ≤ t.lanes.headD 0)
    (∀ l sp, w.cur = some l → w.splitOf l = some sp → can sp → w.run < 256 → w.select = some sp) ∧
    (∀ sp, w.select = some sp → sp ∈ w.splits ∧ can sp) ∧
    ((∀ l cs, w.cur = some l → w.splitOf l = some cs → ¬ can cs ∧ w.run < 256) →
      ∀ sp, w.select = some sp → first sp fun _ => True) ∧
    (∀ l cs, w.cur = some l → w.splitOf l = some cs → 256 ≤ w.run → ∀ sp, w.select = some sp →
      (∀ t ∈ w.splits, can t → cs.pc.toNat < t.pc.toNat → cs.pc.toNat < sp.pc.toNat ∧ first sp fun t => cs.pc.toNat < t.pc.toNat) ∧
      ((∀ t ∈ w.splits, can t → t.pc.toNat ≤ cs.pc.toNat) → first sp fun _ => True)) ∧
    ((∃ t ∈ w.splits, can t) → w.select.isSome = true) ∧
    (∀ l sp, w.cur = some l → w.splitOf l = some sp → w.nextRun sp = if w.run < 256 then w.run + 1 else 1) ∧
    (∀ sp ∈ w.splits, can sp → sp.ans = [] → sp.served = [] → sp.crossed = [] → ∀ l ∈ sp.lanes, ∃ t ∈ w.hold1.splits, l ∈ t.lanes ∧ t.pc = sp.pc ∧
      t.st = if (w.stack l).head? = some sp.pc then .held else .run) ∧
    (∀ sp ∈ w.splits, sp.st = .held → (∀ t ∈ w.splits, ∀ l ∈ t.lanes, sp.pc ∈ w.stack l → t.st = .held ∧ t.pc = sp.pc) →
      w.releasable.isSome = true) ∧
    (∀ pc : Addr, w.releasable = some pc →
      (∃ sp ∈ w.splits, sp.st = .held ∧ sp.pc = pc) ∧
      (∀ sp ∈ w.splits, ∀ l ∈ sp.lanes, pc ∈ w.stack l → sp.st = .held ∧ sp.pc = pc) ∧
      ∃ r ∈ (w.releaseAt pc).splits, r.st = .run ∧ r.pc = pc ∧
        (∀ l, l ∈ r.lanes ↔ ∃ sp ∈ w.splits, sp.st = .held ∧ sp.pc = pc ∧ l ∈ sp.lanes) ∧
        (r.lanes.Nodup → ∀ l ∈ r.lanes, (w.releaseAt pc).stack l = (w.stack l).drop 1) ∧
        ∀ l, l ∉ r.lanes → (w.releaseAt pc).stack l = w.stack l) ∧
    (∀ a ∈ w.splits, ∀ b ∈ w.splits, a.pc = b.pc → a.st = b.st → a.st = .run ∨ a.st = .held →
      (∀ t ∈ [a, b], t.lanes ≠ [] ∧ t.ans = [] ∧ t.served = [] ∧ t.crossed = [] ∧ t.again = none) →
      (∀ l ∈ a.lanes ++ b.lanes, ∀ j ∈ a.lanes ++ b.lanes, (w.stack l).head? = (w.stack j).head?) →
      ∃ t ∈ w.regang.splits, t.pc = a.pc ∧ t.st = a.st ∧ ∀ l ∈ a.lanes ++ b.lanes, l ∈ t.lanes) ∧
    (∀ t ∈ w.regang.splits, ∀ l ∈ t.lanes, ∃ sp ∈ w.splits, l ∈ sp.lanes ∧ sp.pc = t.pc ∧ sp.st = t.st) ∧
    ((w.splits ≠ [] ∧ ∀ sp ∈ w.splits, sp.st = .held) ↔ w.cycle.isSome = true) ∧
    (∀ sp, w.cycle = some sp → sp ∈ w.splits ∧ ∀ t ∈ w.splits, sp.pc.toNat ≤ t.pc.toNat) ∧
    ∀ (strict : Bool) (f : Nat),
      let u := w.hold1.regang
      (∀ pc, u.releasable = some pc → Warp.settle strict (f + 1) w = Warp.settle strict f (u.releaseAt pc)) ∧
      (u.releasable = none → u.cycle = none → Warp.settle strict (f + 1) w = u) ∧
      ∀ sp, u.releasable = none → u.cycle = some sp →
        (strict = true → Warp.settle strict (f + 1) w = { u with splits := u.splits.map fun t =>
          if t = sp then { t with st := .entryWait (sp.lanes.map fun l => { lane := l, code := 0x16 }) } else t }) ∧
        (strict = false → ∃ y : Word, bit y.toNat 0 = true ∧ bits y.toNat 15 1 = bits u.conv.toNat 15 1 ∧
          bits y.toNat 31 16 = min (bits u.conv.toNat 31 16 + 1) 0xFFFF ∧
          Warp.settle strict (f + 1) w = Warp.settle strict f ({ u with conv := y }.releaseAt sp.pc))

/-- `mfsr` gives the special register that R89 numbers, as wide as it is; `mtsr` writes `%fpf`, `%conv` or `%mpred` once, their reserved bits
zero, and with an empty mask nothing. A number above 15, and `mtsr` to any other register, is fault 0x01. -/
def Obligations.SpecialRegistersReadAndWrite : Prop :=
  ∀ (x : Head) (w : WS),
    (∀ e ∈ [(0, 1, fun (_ : Ctx) (l : Nat) => l), (1, 1, fun c _ => c.wi), (2, 1, fun c _ => c.cr.cx.toNat),
        (3, 1, fun c _ => c.cr.cy.toNat), (4, 1, fun c _ => c.cr.cz.toNat), (5, 1, fun c _ => c.core), (6, 1, fun c _ => c.cr.part),
        (7, 1, fun c _ => c.width), (9, 2, fun c _ => c.clk), (10, 1, fun c _ => c.w.fpf.toNat), (11, 1, fun c _ => c.w.conv.toNat),
        (12, 2, fun c _ => c.w.mpred.toNat), (13, 1, fun c _ => c.w.mmrep.toNat), (14, 1, fun c _ => c.w.fault.toNat)],
      w.toNat = e.1 → Gives (.mfsr x w) e.2.1 e.2.2) ∧
    (∀ i, (i = .mfsr x w ∧ 16 ≤ w.toNat) ∨ (i = .mtsr x w ∧ w.toNat ∉ [10, 11, 12]) → ∀ s c, s.ctx? i = some c →
      exec i s = .next (c.raise (untouched c s) [{ lane := c.low, code := 0x01 }])) ∧
    (w.toNat = 8 → ∀ s c, Issues (.mfsr x w) s c → c.width ∈ [32, 64, 128] → c.sp.lanes.Nodup →
      ∃ y w', Leaves (.mfsr x w) s c w' ∧ WritesD c (c.width / 32) (fun _ => y) c.w w' ∧
        ∀ j, y.testBit j = decide (j ∈ c.sp.lanes)) ∧
    (w.toNat = 15 → GivesSuch (.mfsr x w) 1 fun c l y =>
      (c.cr.fill = none → y = 0) ∧
      ∀ f, c.cr.fill = some f → f.level < 4 → bits y 1 0 = f.level ∧ bit y 30 = decide (l ∈ c.w.pmark) ∧ bit y 31 = true ∧ bits y 29 2 = 0) ∧
    ∀ s c, Issues (.mtsr x w) s c →
      ∃ w', Leaves (.mtsr x w) s c w' ∧ (c.mask = [] → w' = c.w) ∧
        (c.mask ≠ [] →
          let v := c.a c.lowMask
          (w.toNat = 10 → w' = { c.w with fpf := BitVec.ofNat 32 (v % 64) }) ∧
          (w.toNat = 11 → ∃ y, w' = { c.w with conv := y } ∧ bits y.toNat 15 1 = 0 ∧ bit y.toNat 0 = bit v 0 ∧
            bits y.toNat 31 16 = bits v 31 16) ∧
          (w.toNat = 12 → w' = { c.w with mpred := BitVec.ofNat 64 v }))

/-- `tret` in a handler whose lanes are all in the issuing split with empty stacks takes each lane to the resume address in its v242 and
v243, whatever its guard; with a lane elsewhere or a stack that is not empty it is the double fault 0x15 (both DEDUCED,
notes/assumptions/26.md). The return restores v240 to v255, m0
to m6, x0 to x3 of every lane that has not exited, and `%fpf`, from the save area; v0 to v239, the scalars, `%conv` and `%mpred` keep what the
handler left; the hold is empty, the program's meeting stacks are back, and the suspended splits go on beside the lanes that return. -/
def Obligations.TretResumesAndRestores : Prop :=
  (∀ (x : Head) (w : WS) (s : State) (c : Ctx), Issues (.tret x w) s c → c.inHandler = true →
    let resume (l : Nat) : Nat := c.w.vval 242 2 l
    let together : Prop := c.w.splits.length ≤ 1 ∧ ∀ l ∈ c.sp.lanes, c.w.stack l = []
    (together →
      (∀ l ∈ c.sp.lanes, c.w.sealed .v 242 l = false ∧ c.w.sealed .v 243 l = false ∧ resume l < 2 ^ 56 ∧ resume l % 4 = 0) →
      Goes (.tret x w) s c (issued c s) (.tret (c.sp.lanes.map fun l => (l, BitVec.ofNat 64 (resume l))))) ∧
    (¬ together → exec (.tret x w) s = .next (c.raise (untouched c s) [{ lane := c.low, code := 0x15 }]))) ∧
  ∀ (w : Warp) (v : Save) (back : List Split), w.save = some v →
    let w' := w.leaveHandler back
    let live := (back.map fun sp => sp.lanes).flatten ++ (v.splits.map fun sp => sp.lanes).flatten
    (∀ l ∈ live,
      (∀ r, 240 ≤ r → r < 512 → w'.vreg r l = Store.get v.v 0 (laneKey r l)) ∧
      (∀ k, k < 7 → w'.pred k l = Store.get v.m false (laneKey k l)) ∧
      ∀ k, k < 4 → w'.xreg k l = Store.get v.x 0 (laneKey k l)) ∧
    (∀ r l, r < 240 → w'.vreg r l = w.vreg r l) ∧
    w'.fpf = v.fpf ∧ w'.s = w.s ∧ w'.conv = w.conv ∧ w'.mpred = w.mpred ∧ w'.hold = [] ∧ w'.meets = v.meets ∧ w'.save = none ∧
    w'.splits = back ++ v.splits


namespace Sys2Proof.Claims

open Sys2Proof.Machine

/-- The accesses `ws` of an instruction pass their checks and land at the places `ls`; `t` is the state after translation. -/
def Lands (c : Ctx) (space : Nat) (m : Mode) (s : State) (ws : List Want) (ls : List (Want × Loc)) (t : State) : Prop :=
  c.placeAll space m 0 [] s ws = (ls.map fun p => (p.1, .loc p.2), t) ∧ ls.map (fun p => p.1) = ws

/-- No access is at odds with the record of an earlier strong access in mixed-size debug mode (11 R176). -/
def Unmixed (c : Ctx) (strong : Bool) (ls : List (Want × Loc)) (s : State) : Prop :=
  strong = true → ∀ p ∈ ls, ∀ va pa leaf, p.2 = .glob va pa leaf → s.mixed c.cr.part pa p.1.size = false

/-- The bytes of physical address `pa` to `pa + n`, as an agent of the device finds them, as a little-endian number. -/
def numberAt (s : State) (pa n : Nat) : Nat := ((List.range n).map fun k => 256 ^ k * (s.seenByte (pa + k)).toNat).sum

/-- A write that a thread makes of the byte at a key is at another address or size than an access of `n` bytes at `a` by thread `t`, and does not
happen before it: the byte is undefined for the access, as it is where it was left so (11 R176; notes/assumptions/40.md). -/
def Racing (g : Ledger) (t : Thr) (a n key : Nat) : Prop :=
  ∃ h, Store.look g.hist key = some h ∧ (h.race = true ∨ ∃ e ∈ h.evs, (e.addr ≠ a ∨ e.size ≠ n) ∧ e.thr ≠ t ∧
    (g.thread t).clk.knows e.thr e.num = false)

/-- A byte is undefined for an access of `n` bytes at `a` by a lane: it races, or it is read through the const space and was stored to since the
job's launch (11 R175, R176; notes/assumptions/40.md). -/
def Undefined (c : Ctx) (s : State) (lane a n key : Nat) : Prop :=
  Racing s.ledger (c.thr lane) a n key ∨ (c.isConst = true ∧ c.cr.fill = none ∧
    ∃ j h, Store.look (s.part c.cr.part).jobs c.cr.job = some j ∧ Store.look s.ledger.hist key = some h ∧ j.stamp < h.last)

/-- What a lane's read of the place `l` gives, where `r` is what is there: its bytes, an undefined one a free value of the instruction's draw (11
R176; notes/assumptions/4.md); a byte of a frame is seen by its own thread alone. -/
def ReadsAs (c : Ctx) (draw : Nat) (s : State) (q : Want) (l : Loc) (r x : Rd) : Prop :=
  ((c.evKey s l = none ∨ r.isBytes = false) → x = r) ∧
  ∀ key bs, c.evKey s l = some key → r = .bytes bs → ∃ ys, x = .bytes ys ∧ ys.length = bs.length ∧ ∀ k, k < bs.length →
    (Undefined c s q.lane key q.size (key + k) → ys.getD k 0 = Config.freeByte draw (key + k)) ∧
    (¬ Undefined c s q.lane key q.size (key + k) → ys.getD k 0 = bs.getD k 0)

end Sys2Proof.Claims

/-! ### Memory instructions -/

/-- Bytes stored read back, the first at the lowest address, and every other byte reads as before. An agent of the device finds the bytes stored,
but a free value in a page of HBM in device bias of which a host cache holds a line (23 R318; notes/assumptions/4.md). What happens before what
(notes/assumptions/40.md): a thread that acquires from a point knows every earlier event of each thread that released to it, a lane that acquires
by reading what a lane's store has released knows that store and what came before it, where both scopes hold both lanes, and a thread that
knows every write of a byte, or makes its accesses at the address and size of each, finds it defined. -/
def Obligations.MemoryReadsBackWhatWasStored : Prop :=
  (∀ (s : State) (pa : Nat) (bs : List Byte),
    (∀ k, k < bs.length → (s.storeAt pa bs).byteAt (pa + k) = bs.getD k 0) ∧
    (∀ a, ¬ (pa ≤ a ∧ a < pa + bs.length) → (s.storeAt pa bs).byteAt a = s.byteAt a) ∧
    (∀ a, s.seenByte a = if (∃ l ∈ s.hostLines, l / 512 = a / 65536) ∧ a / 65536 ∉ s.bias then Config.freeByte s.freeCtr a else s.byteAt a) ∧
    (∀ n, s.natAt pa n = numberAt s pa n) ∧
    ∀ n x, (∀ k, k < n → s.hostStale (pa + k) = false) → (s.storeAt pa (bytesLE n x)).natAt pa n = x % 256 ^ n) ∧
  (∀ (g : Ledger) (ts : List Thr) (t : Thr) (p : Point),
    ∀ x ∈ ts, ∀ k, k ≤ g.count → ((((g.send ts p).meet [t] p).thread t).clk.knows x k = true)) ∧
  (∀ (g : Ledger) (uid warp lane uid' warp' lane' scope scope' a n : Nat) (old : Nat → Byte),
    let t : Thr := .lane uid warp lane
    let t' : Thr := .lane uid' warp' lane'
    0 < n →
    scopeHas scope (some uid) (some warp) (some uid') (some warp') = true →
    scopeHas scope' (some uid') (some warp') (some uid) (some warp) = true →
      ∀ k, k ≤ g.count + 1 → ((((g.store uid warp lane scope a n old).read t' scope' a n).thread t').clk.knows t k = true)) ∧
  ∀ (g : Ledger) (t : Thr) (a n key : Nat), (g.races t a n key = true ↔ Racing g t a n key)

/-- `ld` and `ldg4`: when the accesses of the lanes land, no strong one is at odds with a record of the mixed-size debug mode and no read
waits, D gets in each lane the number read from its place, 8 and 16 bits extended as the instruction says; in a fill task a lane that reads poison
gets its mark and a free value, elsewhere fault 0x09 besides. A read that waits for a fill parks the split, which keeps the lines it was given.
The reads are made in order, each line asked for once in a pass: a place in memory gives the bytes of its line at its home, or poison; a window
line that is not valid is filled from its line first; a stash or frame place gives its bytes there. A byte that races is a free value
(notes/assumptions/4.md, notes/assumptions/40.md). The checks of an access, in order (11 R146): a global address that is not canonical is fault
0x1E, one that is no multiple of its size 0x06, then its page's; an offset beyond the stash or the frame is fault 0x08. Faults of lanes are raised
and pages that are absent reported and waited for, the faults first (11 R146, R153). -/
def Obligations.LoadsReadTheirLocations : Prop :=
  ∀ (x : Head) (w : WM) (s : State) (c : Ctx) (ls : List (Want × Loc)) (t u : State) (rs : List (Want × Rd)) (seen : List LineGot),
    let strong := decide (w.scope ≠ 0 ∧ w.space = 0)
    let lanes := match x.d with
      | .s _ => c.mask.take 1
      | _ => c.mask
    let addr (l : Nat) : Nat := if w.space = 0 ∨ w.space = 2 then (c.a l + (w.off.signExtend 64).toNat) % 2 ^ 64
      else (c.a l + (w.off.signExtend 32).toNat) % 2 ^ 32
    let v := c.observe w ls (c.acquired (c.acqDev w ls t || !(c.futureLanes u true ls).isEmpty)
      (c.recordMixed strong ls (c.countPol w.cpol.toNat ls (c.marked rs u))))
    let loads (i : Instr) (n : Nat) (ws : List Want) (val : Nat → Nat) : Prop :=
      Issues i s c → Lands c w.space.toNat { acc := .read } (issued c s) ws ls t → Unmixed c strong ls t →
      c.readAll w.cpol.toNat t ls = (rs, seen, u) →
      (waitsOf rs = [] → ∃ w', exec i s = .next (c.finish (c.setWarp v w') .next (c.lateFaults ls rs) []) ∧ WritesD c n val (c.warpIn v) w') ∧
      (waitsOf rs ≠ [] → exec i s = .next (c.parkAt (c.setGot u (c.gotLines seen)) (.fill (waitsOf rs)) c.sp.ans))
    let wants : List Want := lanes.map fun l => ⟨l, addr l, 2 ^ w.size.toNat⟩
    loads (.ld x w) (sizeRegs w.size.toNat) wants (fun l =>
      let y := c.laneValue rs u.freeCtr (sizeRegs w.size.toNat) l
      match w.size.toNat, w.sign with
      | 0, true => ((BitVec.ofNat 8 y).signExtend 32).toNat
      | 0, false => y % 256
      | 1, true => ((BitVec.ofNat 16 y).signExtend 32).toNat
      | 1, false => y % 65536
      | _, _ => y) ∧
    (c.mask.filterMap (c.texelFault w x.sub.toNat) = [] →
      loads (.ldg4 x w) (2 ^ w.size.toNat) (c.mask.map (c.texels w x.sub.toNat)).flatten
        (c.laneValue rs u.freeCtr (2 ^ w.size.toNat))) ∧
    (∀ (l n draw : Nat),
      (c.cr.fill = none ∨ l ∉ poisonLanes rs → c.laneValue rs draw n l = valueOf rs l) ∧
      (c.cr.fill ≠ none → l ∈ poisonLanes rs → c.laneValue rs draw n l = freeVal draw l n) ∧
      (l ∈ poisonLanes rs ↔ ∃ p ∈ rs, p.1.lane = l ∧ p.2 = .poison) ∧
      ∀ bss : List (List Byte), (rs.filter fun p => decide (p.1.lane = l)).map (fun p => p.2) = bss.map Rd.bytes →
        valueOf rs l = ((List.range bss.flatten.length).map fun k => 256 ^ k * (bss.flatten.getD k 0).toNat).sum) ∧
    (let bad (k : Nat) : Option LaneFault := match ls[k]?, rs[k]? with
        | some p, some (_, .poison) => if c.cr.fill = none then some { lane := p.1.lane, code := 0x09, va := p.2.va } else none
        | some p, some (_, .late code) => some { lane := p.1.lane, code, va := p.2.va }
        | _, _ => none
      ∀ f : LaneFault, f ∈ c.lateFaults ls rs ↔
        ∃ k, bad k = some f ∧ ∀ j, j < k → ∀ g, bad j = some g → g.lane ≠ f.lane) ∧
    ((c.cr.fill = none ∨ poisonLanes rs = [] → c.marked rs u = u) ∧
      (c.cr.fill ≠ none → poisonLanes rs ≠ [] → ∃ w', c.marked rs u = { c.setWarp u w' with freeCtr := u.freeCtr + 1 } ∧
        { w' with pmark := (c.warpIn u).pmark } = c.warpIn u ∧ ∀ l, l ∈ w'.pmark ↔ l ∈ (c.warpIn u).pmark ∨ l ∈ poisonLanes rs)) ∧
    (Issues (.ld x w) s c →
      let r := c.placeAll w.space.toNat { acc := .read } 0 [] (issued c s) wants
      (placedFaults r.1 ≠ [] → exec (.ld x w) s = .next (c.raise (c.setWarp r.2 (c.account (c.warpIn r.2))) (placedFaults r.1))) ∧
      (placedFaults r.1 = [] → placedPages r.1 ≠ [] → exec (.ld x w) s = .next
        (c.parkAt (r.2.report c.core ((placedPages r.1).map fun p => p.2.2)) (.page (placedPages r.1)) c.sp.ans))) ∧
    (∀ (m : Mode) (q : Want),
      let glob := (c.placeOne 0 m s [] q).1
      let off (space : Nat) := (c.placeOne space m s [] q).1
      (2 ^ 56 ≤ q.addr → glob = .fault 0x1E 0 q.addr) ∧
      (q.addr < 2 ^ 56 → m.align = true → q.addr % q.size ≠ 0 → glob = .fault 0x06 (Nat.log2 q.size) q.addr) ∧
      (q.addr < 2 ^ 56 → (m.align = true → q.addr % q.size = 0) →
        (∀ code, s.translate c.agent q.addr m.acc = (.fault code, u) → glob = .fault code 0 q.addr) ∧
        (∀ ref, s.translate c.agent q.addr m.acc = (.page ref, u) → glob = .page q.addr ref) ∧
        ∀ pa leaf, s.translate c.agent q.addr m.acc = (.ok pa leaf, u) →
          glob = if leaf.getLsbD 6 = true ∧ u.flipping = some (pa / 65536) then .flip (pa / 65536) else .loc (.glob q.addr pa leaf)) ∧
      (∀ space ∈ [1, 3], m.align = true → q.addr % q.size ≠ 0 → off space = .fault 0x06 (Nat.log2 q.size) 0) ∧
      ((m.align = true → q.addr % q.size = 0) →
        (4096 < q.addr + q.size → off 3 = .fault 0x08 0 0) ∧ (q.addr + q.size ≤ 4096 → off 3 = .loc (.frame q.lane q.addr)) ∧
        (c.cr.shape.stash < q.addr + q.size → off 1 = .fault 0x08 0 0) ∧
        (q.addr + q.size ≤ c.cr.shape.stash → (∀ y ∈ (c.crewIn s).windows, ¬ (y.off ≤ q.addr ∧ q.addr < y.off + y.len)) →
          off 1 = .loc (.stash q.addr)))) ∧
    (∀ (cpol draw : Nat) (seen : List LineGot) (q : Want) (l : Loc) (ls : List (Want × Loc)),
      c.readAll cpol s ls = c.readEach cpol s.freeCtr [] { s with freeCtr := s.freeCtr + 1 } ls ∧
      c.readEach cpol draw seen s [] = ([], seen, s) ∧
      c.readEach cpol draw seen s ((q, l) :: ls) =
        (let a := c.readOne cpol draw seen s q l
         let b := c.readEach cpol draw a.2.1 a.2.2 ls
         ((q, a.1) :: b.1, b.2))) ∧
    (∀ (cpol draw : Nat) (seen : List LineGot) (q : Want) (va pa off lane : Nat) (leaf : BitVec 64),
      let line := fun g : Got => decide (g.pass = q.lane / 32 ∧ g.line = pa / 128)
      let stash (s : State) : Rd := .bytes ((List.range q.size).map fun k => (c.crewIn s).stashByte (off + k))
      let gives (l : Loc) (raw : Rd × List LineGot × State) : Prop :=
        (c.readOne cpol draw seen s q l).2 = raw.2 ∧ ReadsAs c draw raw.2.2 q l raw.1 (c.readOne cpol draw seen s q l).1
      (∀ g d, c.sp.got.find? line = some g → g.data = some d →
        gives (.glob va pa leaf) (.bytes ((d.drop (pa % 128)).take q.size), seen, s) ∧ gives (.win off va pa leaf) (stash s, seen, s)) ∧
      (∀ g, c.sp.got.find? line = some g → g.data = none →
        gives (.glob va pa leaf) (.poison, seen, s) ∧ gives (.win off va pa leaf) (.poison, seen, s)) ∧
      (c.sp.got.find? line = none →
        gives (.glob va pa leaf) (c.readGlobal cpol true seen s q pa leaf) ∧
        gives (.win off va pa leaf) (c.readWindow cpol seen s q off pa leaf)) ∧
      gives (.stash off) (stash s, seen, s) ∧
      gives (.frame lane off) (.bytes ((List.range q.size).map fun k => (c.crewIn s).frameByte c.wi lane (off + k)), seen, s)) ∧
    (∀ (cpol : Nat) (l1 : Bool) (seen : List LineGot) (q : Want) (pa : Nat) (leaf : BitVec 64),
      let had := seen.find? fun g => decide (g.pass = q.lane / 32 ∧ g.line = pa / 128)
      let r := c.readGlobal cpol l1 seen s q pa leaf
      (∀ g, had = some g → r.1 = g.rd.slice (pa % 128) q.size ∧ r.2.2 = s) ∧
      (had = none → inGen pa = false → pa % 128 + q.size ≤ 128 →
        r.1 = (if r.2.2.poisoned pa then .poison else .bytes (r.2.2.bytesAt pa q.size)) ∧
        (NoneGenerated s → r.2.2.mem = s.mem ∧ r.2.2.poison = s.poison)) ∧
      ∃ g, r.2.1 = seen ++ [g] ∧ g.pass = q.lane / 32 ∧ g.line = pa / 128 ∧ r.1 = g.rd.slice (pa % 128) q.size) ∧
    (∀ (cpol : Nat) (seen : List LineGot) (q : Want) (off pa i : Nat) (leaf : BitVec 64) (y : Window),
      (c.crewIn s).windowAt off = some (i, y) →
      let k := (off - y.off) / 128
      let full : Prop := (y.line k).valid = true ∨ ∃ g ∈ seen, g.pass = q.lane / 32 ∧ g.win = some (i, k) ∧ g.rd.isBytes = true
      let a := c.lineOnce cpol false seen s (q.lane / 32) pa leaf
      let r := c.readWindow cpol seen s q off pa leaf
      (full → r = (.bytes ((c.crewIn s).stashBytes off q.size), seen, s)) ∧
      (¬ full → r.2.1 = seen ++ [{ pass := q.lane / 32, line := pa / 128, win := some (i, k), rd := a.1 }] ∧
        (a.1.isBytes = false → r.1 = a.1 ∧ r.2.2 = a.2) ∧
        ∀ bs, a.1 = .bytes bs → r.2.2 = c.setCrew a.2 (fun cr => cr.fillWLine i y k (leaf.getLsbD 5) bs) ∧
          r.1 = .bytes ((c.crewIn r.2.2).stashBytes off q.size))) ∧
    (∀ (cr : Crew) (i k : Nat) (y : Window) (keep : Bool) (bs : List Byte), bs.length = 128 →
      let z := cr.fillWLine i y k keep bs
      { z with stash := cr.stash, windows := cr.windows } = cr ∧
      (∀ a, z.stashByte a = if y.off + 128 * k ≤ a ∧ a < y.off + 128 * k + 128 ∧ a - (y.off + 128 * k) ∉ (y.line k).dirty
        then bs.getD (a - (y.off + 128 * k)) 0 else cr.stashByte a) ∧
      ∀ j u, cr.windows[j]? = some u → ∃ u', z.windows[j]? = some u' ∧ u'.va = u.va ∧ u'.off = u.off ∧ u'.len = u.len ∧
        ∀ m, u'.line m = if j = i ∧ m = k then { u.line m with valid := keep } else u.line m) ∧
    let counted := c.recordMixed strong ls (c.countPol w.cpol.toNat ls s)
    counted.mem = s.mem ∧ counted.poison = s.poison ∧ counted.parts = s.parts ∧ (∀ k j, counted.crew k j = s.crew k j) ∧
      (∀ k, (counted.core k).l1 = (s.core k).l1 ∧ (counted.core k).tlb = (s.core k).tlb) ∧
      (∀ k, (counted.slice k).sets = (s.slice k).sets ∧ (counted.slice k).fills = (s.slice k).fills) ∧
      { c.observe w ls s with ledger := s.ledger } = s

/-- The texels of `ldg4`: the address of texel (x, y) on a surface 2^lw texels wide takes three bits of each coordinate by turns within a
tile of 8 by 8 texels, tiles row by row; a coordinate beyond the surface wraps, clamps or mirrors. -/
def Obligations.TexelsAreSwizzledAndFolded : Prop :=
  (∀ e lw x y : Nat, 3 ≤ lw →
    let o := texelOffset e lw x y / 2 ^ e
    2 ^ e * o = texelOffset e lw x y ∧ o / 64 = y / 8 * 2 ^ (lw - 3) + x / 8 ∧
    ∀ k, k < 3 → o.testBit (2 * k) = x.testBit k ∧ o.testBit (2 * k + 1) = y.testBit k) ∧
  ∀ (u : Int) (k : Nat), let n := 2 ^ k
    (foldCoord u n 0 : Int) = u % n ∧ (foldCoord u n 1 : Int) = max 0 (min u (n - 1)) ∧
    foldCoord u n 2 < n ∧ ((foldCoord u n 2 : Int) = u % (2 * n) ∨ (foldCoord u n 2 : Int) = 2 * n - 1 - u % (2 * n)) ∧
    (0 ≤ u → u < n → ∀ m, m < 3 → (foldCoord u n m : Int) = u)

/-- `st`: when the accesses land and the release that its order asks for is done, it completes. Of a store to global memory every byte at the
place of a lane is the lane's byte of B, the highest lane's where several store it; every byte of memory outside the stored bytes is
as after the line requests. A store to the stash, through a window or not, changes no byte of memory once the lines of its windows are filled:
the stash bytes are the lanes', those outside the stored ones are as they were, and the stored bytes of a window line are dirty. A store to frames
changes no byte of memory. -/
def Obligations.StoresWriteTheirLocations : Prop :=
  ∀ (x : Head) (w : WM) (s : State) (c : Ctx) (ls : List (Want × Loc)) (t u : State),
    let strong := decide (w.scope ≠ 0 ∧ w.space = 0)
    let n := 2 ^ w.size.toNat
    Issues (.st x w) s c →
    Lands c w.space.toNat { acc := .write } (issued c s) (c.mask.map fun l => ⟨l, c.addr w l, n⟩) ls t → Unmixed c strong ls t →
    Released c (c.relDev w ls t && !c.mask.isEmpty) t u →
    let asked := c.writeReqs w.cpol.toNat [] (c.countPol w.cpol.toNat (c.asking u ls) u) ls
    let r := c.touchWindows w.cpol.toNat asked ls
    ∃ v, Goes (.st x w) s c v .next ∧
      (w.space = 0 →
        (∀ p ∈ ls, ∀ va pa leaf, p.2 = .glob va pa leaf → ∀ k, k < n →
          (∀ q ∈ ls, ∀ va' pa' leaf', q.2 = .glob va' pa' leaf' → pa' ≤ pa + k → pa + k < pa' + n → q.1.lane ≤ p.1.lane) →
          v.byteAt (pa + k) = BitVec.ofNat 8 (c.b p.1.lane / 256 ^ k)) ∧
        ∀ a, (∀ p ∈ ls, ∀ va pa leaf, p.2 = .glob va pa leaf → ¬ (pa ≤ a ∧ a < pa + n)) → v.byteAt a = asked.byteAt a) ∧
      (w.space = 1 → v.mem = r.mem ∧
        (∀ p ∈ ls, ∀ off, p.2.off = some off →
          (∀ k, k < n → (∀ q ∈ ls, ∀ off', q.2.off = some off' → off' ≤ off + k → off + k < off' + n → q.1.lane ≤ p.1.lane) →
            (c.crewIn v).stashByte (off + k) = BitVec.ofNat 8 (c.b p.1.lane / 256 ^ k)) ∧
          ((∃ va pa leaf, p.2 = .win off va pa leaf) → ∀ i y, (c.crewIn r).windowAt off = some (i, y) →
            ∃ y', (c.crewIn v).windows[i]? = some y' ∧ y'.va = y.va ∧ y'.off = y.off ∧ y'.len = y.len ∧
              ∀ k, k < n → (off - y.off) % 128 + k ∈ (y'.line ((off - y.off) / 128)).dirty)) ∧
        ∀ a, (∀ p ∈ ls, ∀ off, p.2.off = some off → ¬ (off ≤ a ∧ a < off + n)) → (c.crewIn v).stashByte a = (c.crewIn r).stashByte a) ∧
      (w.space = 3 → v.mem = u.mem ∧ ∀ p ∈ ls, ∀ off k, p.2 = .frame p.1.lane off → k < n → off + n ≤ 4096 →
        (c.crewIn v).frameByte c.wi p.1.lane (off + k) = BitVec.ofNat 8 (c.b p.1.lane / 256 ^ k))

/-- `atom` and `red`: the read-modify-writes are performed lane by lane in increasing order, and `atom` gives each lane the old value; a lane that
finds its line poisoned takes fault 0x09, in a fill task a mark and a free value. One of them on a line that is not poisoned stores the
operation's result at its place, in memory or the stash, and changes no other byte; `cas` stores where the old value is B alone, and is a read
elsewhere. Bytes that it finds undefined take free values first (notes/assumptions/4.md, notes/assumptions/40.md). -/
def Obligations.AtomicsUpdateTheirLocations : Prop :=
  (∀ (x : Head) (w : WM) (s : State) (c : Ctx) (ls : List (Want × Loc)) (t u v : State) (olds : List (Nat × Option Nat)) (i : Instr),
    i = .atom x w ∨ i = .red x w → Issues i s c →
    Lands c w.space.toNat { acc := .write, atomic := true } (issued c s) (c.mask.map fun l => ⟨l, c.addr w l, 2 ^ w.size.toNat⟩) ls t →
    Unmixed c (decide (w.space = 0)) ls t → Released c (c.relDev w ls t && !c.mask.isEmpty) t u →
    c.rmwAll w (x.sub.toNat % 16) (decide (16 ≤ x.sub.toNat)) (c.writeReqs w.cpol.toNat [] u ls) ls = (olds, v) →
    let z := c.acquired (c.acqDev w ls u) (c.recordMixed (decide (w.space = 0)) ls (c.countPol w.cpol.toNat ls v))
    let got (l : Nat) : Option Nat := (olds.find? fun p => decide (p.1 = l)).bind fun p => p.2
    let bad := olds.filterMap fun p => if p.2.isNone then some p.1 else none
    z.mem = v.mem ∧
    (i = .red x w → Goes i s c z .next) ∧
    (i = .atom x w → bad = [] →
      ∃ w', Goes i s c (c.setWarp z w') .next ∧ WritesD c (sizeRegs w.size.toNat) (fun l => (got l).getD 0) (c.warpIn z) w') ∧
    (i = .atom x w → bad ≠ [] →
      ∃ y w' val, y.mem = v.mem ∧ WritesD c (sizeRegs w.size.toNat) val (c.warpIn y) w' ∧ (∀ l a, got l = some a → val l = a) ∧
        exec i s = .next (c.finish (c.setWarp y w') .next
          (if c.cr.fill = none then bad.map fun l => { lane := l, code := 0x09, va := c.addr w l } else []) []) ∧
        (c.cr.fill ≠ none → ∀ l ∈ bad, l ∈ (c.warpIn y).pmark))) ∧
  (∀ (c : Ctx) (w : WM) (op : Nat) (sg : Bool) (s : State) (q : Want) (l : Loc) (r : List (Want × Loc)),
    c.rmwAll w op sg s [] = ([], s) ∧
    c.rmwAll w op sg s ((q, l) :: r) =
      (let a := c.rmw w op sg q l s
       let b := c.rmwAll w op sg a.2 r
       ((q.lane, a.1) :: b.1, b.2))) ∧
  (∀ (c : Ctx) (w : WM) (op : Nat) (sg : Bool) (q : Want) (va pa : Nat) (leaf : BitVec 64) (s : State),
    let l : Loc := .glob va pa leaf
    let r := c.rmw w op sg q l s
    let z := c.unsettle s q l
    let old := numberAt z pa q.size
    let new := atomNew op sg (8 * q.size) old (c.b q.lane) (c.c q.lane)
    (s.poisoned pa = true → r = (none, s)) ∧
    (s.poisoned pa = false → r.1 = some old ∧
      (∀ y, new = some y → r.2 = (c.noteRmw w q l true z).storeRaw pa (bytesLE q.size y) ∧
        ∀ k, k < q.size → r.2.byteAt (pa + k) = BitVec.ofNat 8 (y / 256 ^ k)) ∧
      (new = none → r.2 = c.noteRmw w q l false z) ∧
      (∀ a, ¬ (pa ≤ a ∧ a < pa + q.size) → r.2.byteAt a = s.byteAt a) ∧
      ∀ k, k < q.size →
        (Undefined c s q.lane pa q.size (pa + k) → z.byteAt (pa + k) = Config.freeByte s.freeCtr (pa + k)) ∧
        (¬ Undefined c s q.lane pa q.size (pa + k) → z.byteAt (pa + k) = s.byteAt (pa + k)))) ∧
  (∀ (c : Ctx) (w : WM) (op : Nat) (sg : Bool) (q : Want) (off : Nat) (s : State) (cr : Crew),
    s.crew c.core c.slot = some cr → cr.uid = c.cr.uid →
    let l : Loc := .stash off
    let r := c.rmw w op sg q l s
    let z := c.unsettle s q l
    let old := ((List.range q.size).map fun k => 256 ^ k * ((c.crewIn z).stashByte (off + k)).toNat).sum
    let new := atomNew op sg (8 * q.size) old (c.b q.lane) (c.c q.lane)
    let key := s.stashEv c.agent cr off
    r.1 = some old ∧ r.2.mem = s.mem ∧
    (∀ y, new = some y → ∀ k, k < q.size → (c.crewIn r.2).stashByte (off + k) = BitVec.ofNat 8 (y / 256 ^ k)) ∧
    (new = none → r.2 = c.noteRmw w q l false z) ∧
    (∀ a, ¬ (off ≤ a ∧ a < off + q.size) → (c.crewIn r.2).stashByte a = cr.stashByte a) ∧
    ∀ k, k < q.size →
      (Undefined c s q.lane key q.size (key + k) → (c.crewIn z).stashByte (off + k) = Config.freeByte s.freeCtr (key + k)) ∧
      (¬ Undefined c s q.lane key q.size (key + k) → (c.crewIn z).stashByte (off + k) = cr.stashByte (off + k))) ∧
  (∀ (c : Ctx) (w : WM) (q : Want) (l : Loc) (b : Bool) (s : State), { c.noteRmw w q l b s with ledger := s.ledger } = s) ∧
  ∀ (n : Nat) (a b d : BitVec n), 0 < n →
    let f (op : Nat) (sg : Bool) : Option (BitVec n) := (atomNew op sg n a.toNat b.toNat d.toNat).map (BitVec.ofNat n)
    (∀ sg, f 0 sg = some (a + b) ∧ f 3 sg = some (a &&& b) ∧ f 4 sg = some (a ||| b) ∧ f 5 sg = some (a ^^^ b) ∧ f 6 sg = some b ∧
      (f 7 sg = if a = b then some d else none) ∧ f 8 sg = some (if b.ult a then b else a)) ∧
    f 1 true = some (if b.slt a then b else a) ∧ f 2 true = some (if a.slt b then b else a) ∧
    f 1 false = some (if b.ult a then b else a) ∧ f 2 false = some (if a.ult b then b else a)

/-- The instructions that order and manage memory. `fence` completes when the values that its acquire waits for are back and, at device or
system scope, the windows are written back, whose clean lines its acquire then invalidates; it orders what its lanes do
(notes/assumptions/40.md); with an empty mask it does nothing. `swb` writes
the windows back, and takes the fault of a line that cannot be. `smap` adds a window over global memory, or writes back the one at its offset
and takes it away; its faults are in the order of its table. `prefetch` asks for the lines of the lanes that pass their checks and waits
for none. `cflush` writes its lines back, which stay, leave, or leave with their last pin. `waita` gives each lane the value that meets its
condition, and parks its split while one does not; that it acquires what its places hold as it completes is the model's choice
(notes/assumptions/40.md), and in a fill task a lane that reads poison reads a free value (notes/assumptions/4.md). -/
def Obligations.OrderingAndWindowInstructions : Prop :=
  ∀ (x : Head) (w : WM) (s : State) (c : Ctx) (t u : State) (ls : List (Want × Loc)),
    let dev := decide (3 ≤ w.scope.toNat)
    let acq := w.order.getLsbD 0
    let low (code detail va : Nat) : List LaneFault := [{ lane := c.lowMask, code, detail, va }]
    (Issues (.fence x w) s c →
      (c.mask = [] → Goes (.fence x w) s c (issued c s) .next) ∧
      (c.mask ≠ [] → (acq = true → c.waiting = false) → Released c dev (issued c s) t →
        let v := c.fenced w t
        Goes (.fence x w) s c (if acq && dev then c.setCrew v Crew.refresh else v) .next ∧
          v.ledger = c.mask.foldl (fun g l => g.fence (c.thr l) w.scope.toNat acq (w.order.getLsbD 1)) t.ledger ∧
          { v with ledger := t.ledger } = t) ∧
      (c.mask ≠ [] → acq = true → c.waiting = true → exec (.fence x w) s = .next (c.parkAt (issued c s) .results c.sp.ans))) ∧
    (∀ (cr : Crew) (i k : Nat) (y : Window), cr.windows[i]? = some y →
      ∃ z, cr.refresh.windows[i]? = some z ∧ z.va = y.va ∧ z.off = y.off ∧ z.len = y.len ∧ (z.line k).dirty = (y.line k).dirty ∧
        (z.line k).valid = ((y.line k).valid && !(y.line k).dirty.isEmpty) ∧ { cr.refresh with windows := cr.windows } = cr) ∧
    (Issues (.swb x w) s c →
      (Released c (!c.mask.isEmpty) (issued c s) t → Goes (.swb x w) s c t .next) ∧
      (c.mask ≠ [] →
        (∀ va code detail, (issued c s).writeBack c.agent false = (some (va, .fault code detail), t) →
          exec (.swb x w) s = .next (c.raise (c.setWarp t (c.account (c.warpIn t))) (low code detail va))) ∧
        ∀ va ref, (issued c s).writeBack c.agent false = (some (va, .page ref), t) →
          exec (.swb x w) s = .next (c.parkAt (t.report c.core [ref]) (.page [(c.lowMask, va, ref)]) c.sp.ans))) ∧
    (let va := c.addr w c.lowMask
      let off := c.b c.lowMask
      let len := c.c c.lowMask
      let whole : Prop := va % 128 = 0 ∧ off % 128 = 0 ∧ len % 128 = 0
      let fits : Prop := if len = 0 then ∃ y ∈ c.cr.windows, y.off = off
        else len ≤ 65536 ∧ off + len ≤ c.cr.shape.stash ∧ c.cr.windows.length < 8 ∧
          ∀ y ∈ c.cr.windows, off + len ≤ y.off ∨ y.off + y.len ≤ off
      let fails (code detail : Nat) : Prop := exec (.smap x w) s = .next (c.raise (untouched c s) (low code detail va))
      Issues (.smap x w) s c →
        (c.mask = [] → Goes (.smap x w) s c (issued c s) .next) ∧
        (c.mask ≠ [] →
          (¬ whole → fails 0x06 7) ∧ (whole → ¬ fits → fails 0x08 0) ∧ (whole → fits → 2 ^ 56 ≤ va → fails 0x1E 0) ∧
          (whole → fits → va < 2 ^ 56 →
            (len ≠ 0 → Goes (.smap x w) s c ((issued c s).setCrew c.core c.slot
              { c.cr with windows := c.cr.windows ++ [{ va, off, len, lines := [] }] }) .next) ∧
            ∀ i, len = 0 → c.cr.windows.findIdx? (fun y => decide (y.off = off)) = some i →
              (issued c s).writeBackLines c.agent false (c.cr.dirtyLines.filter fun l => decide (l.1 = i)) = (none, t) →
              Goes (.smap x w) s c
                (c.setCrew t fun cr => { cr with windows := cr.windows.filter fun y => decide (y.off ≠ off) }) .next))) ∧
    (Issues (.prefetch x w) s c →
      let r := c.placeAll w.space.toNat { acc := .read, align := false } 0 [] (issued c s)
        (c.mask.map fun l => ⟨l, c.addr w l, 2 ^ w.size.toNat⟩)
      let ok := r.1.filterMap fun p => match p.2 with
        | .loc l => some (p.1, l)
        | _ => none
      Goes (.prefetch x w) s c (c.countPol w.cpol.toNat ok (c.readAll w.cpol.toNat r.2 ok).2.2) .next) ∧
    (Issues (.cflush x w) s c →
      Lands c 0 { acc := .read, align := false } (issued c s) (c.mask.map fun l => ⟨l, c.addr w l, 2 ^ w.size.toNat⟩) ls t →
      Goes (.cflush x w) s c (ls.foldl (fun s p => match p.2 with
        | .glob _ pa _ => s.flushLine pa (decide (w.cpol = 2))
        | _ => s) t) .next) ∧
    (∀ pa : Nat,
      (s.lineAt pa = none → ∀ keep, s.flushLine pa keep = s) ∧
      ∀ k l, s.wayOf pa = some k → s.lineAt pa = some l →
        (s.flushLine pa true).lineAt pa = some { l with dirty := false } ∧
        (l.pins = [] → (s.flushLine pa false).wayOf pa ≠ some k) ∧
        (l.pins ≠ [] → (s.flushLine pa false).lineAt pa = some { l with dirty := false, leave := true })) ∧
    ∀ rs seen, Issues (.waita x w) s c → c.sp.ans = [] →
      (c.sp.again = none → c.w.secs ≠ [] → c.mask ≠ [] → exec (.waita x w) s = .next (c.raise (untouched c s) (low 0x0D 0 0))) ∧
      (c.sp.again ≠ none ∨ c.w.secs = [] ∨ c.mask = [] →
        Lands c w.space.toNat { acc := .read, watch := true } (issued c s) (c.mask.map fun l => ⟨l, c.addr w l, 2 ^ w.size.toNat⟩) ls t →
        c.readAll 0 t ls = (rs, seen, u) →
        let m := c.marked rs u
        let n := sizeRegs w.size.toNat
        let val := c.laneValue rs u.freeCtr n
        let met (l : Nat) : Prop :=
          let m := BitVec.ofNat (32 * n) (val l)
          let b := BitVec.ofNat (32 * n) (c.b l)
          match x.sub.toNat % 8 with
          | 0 => m = b
          | 1 => m ≠ b
          | 2 => if x.sub.getLsbD 3 then m.slt b = true else m.ult b = true
          | 3 => if x.sub.getLsbD 3 then b.sle m = true else b.ule m = true
          | 4 => m &&& b ≠ 0
          | _ => m &&& b = 0
        (c.lateFaults ls rs ≠ [] →
          exec (.waita x w) s = .next (c.raise (c.setWarp m (c.account (c.warpIn m))) (c.lateFaults ls rs))) ∧
        (c.lateFaults ls rs = [] →
          (waitsOf rs ≠ [] → ∃ y ans, (y = m ∨ y = c.setCrew m Crew.refresh) ∧
            exec (.waita x w) s = .next (c.parkAt y (.fill (waitsOf rs)) ans)) ∧
          (waitsOf rs = [] → ∃ y, ((∀ l ∈ c.mask, met l → l ∉ c.futureLanes m true ls) → y = m) ∧
            ((∃ l ∈ c.mask, met l ∧ l ∈ c.futureLanes m true ls) → y = c.setCrew m Crew.refresh) ∧
            let z := c.acquired (c.watchAcq w y) (c.observe w (c.watched w y) y)
            ((∀ l ∈ c.mask, met l) → ∃ w', Goes (.waita x w) s c (c.setWarp z w') .next ∧ WritesD c n val (c.warpIn z) w') ∧
            ((∃ l ∈ c.mask, ¬ met l) → ∃ ws ans, exec (.waita x w) s = .next (c.parkAt y (.watch ws) ans) ∧
              ∀ l, (∃ q ∈ ws, q.lane = l) ↔ l ∈ c.mask ∧ ¬ met l))))


namespace Sys2Proof.Claims

open Sys2Proof.Machine

/-- The 64-bit word that stands at a place. -/
def wordAt (c : Ctx) (s : State) (l : Loc) : Nat :=
  match l with
  | .glob _ pa _ => natOf ((List.range 8).map fun k => s.byteAt (pa + k))
  | .win off _ _ _ => (c.crewIn s).stashNat off 8
  | .stash off => (c.crewIn s).stashNat off 8
  | .frame _ _ => 0

/-- The one access of an instruction that acts once for its warp: `size` bytes at the address in A of the lowest lane of `Mask()`. -/
def lowest (c : Ctx) (size : Nat) : List Want := [⟨c.lowMask, c.a c.lowMask, size⟩]

/-- The queue header at the address in A passes its checks: its physical address `pa` and the state `u` after its line is asked for (13
R203). -/
def HeaderAt (c : Ctx) (s : State) (pa : Nat) (u : State) : Prop :=
  ∃ va leaf t, Lands c 0 { acc := .write } s (lowest c 64) [(⟨c.lowMask, c.a c.lowMask, 64⟩, .glob va pa leaf)] t ∧
    t.poisoned pa = false ∧ u = t.writeReq c.agent leaf va pa 0

/-- The state bytes of `n` indices of a queue pass their checks and are not poisoned: they are at `pas`, and `u` is the state after the
checks. -/
def SlotsAt (c : Ctx) (h : QHdr) (first n : Nat) (pas : List Nat) (s u : State) : Prop :=
  ∃ ls, Lands c 0 { acc := .write } s ((h.slots first n).map fun a => ⟨c.lowMask, a.1, 1⟩) ls u ∧ poisonedWants u ls = [] ∧
    pas = ls.filterMap fun p => match p.2 with
      | .glob _ pa _ => some pa
      | _ => none

/-- `q` is the crew's outstanding reservation of `n` indices from `first` at a queue (13 R204). -/
def Reservation (pa first n : Nat) (q : QRes) : Prop := q.hdr = pa ∧ q.first = first ∧ q.count = n ∧ q.take = false

end Sys2Proof.Claims

/-! ### Synchronisation -/

/-- Bells: `bell.init` puts the expected count in a fresh word; `bell.arr` adds arrivals, and when the count is reached the phase changes and the
arrivals start again, with `ERR` when more came; it gives the old word. At job scope it releases once the bell has passed its checks. `bell.wait`
gives the word when its phase differs from B[0], and parks its split otherwise. What comes before an arrival happens before what follows a wait
for its phase (notes/assumptions/40.md); the bytes of a bell that a thread has stored to are free values from its next step on
(notes/assumptions/46.md). -/
def Obligations.BellsCountArrivals : Prop :=
  ∀ (x : Head) (w : WS) (s : State) (c : Ctx) (l : Loc) (r t u : State) (old : Nat),
    let job := bit w.toNat 0
    let q : Want := ⟨c.lowMask, c.a c.lowMask, 8⟩
    let lands : Prop := Lands c (if job then 0 else 1) { acc := .write } (issued c s) (lowest c 8) [(q, l)] t
    let b := c.bellWord t q l
    c.mask ≠ [] → bellBadScope w c = false →
    (Issues (.bellInit x w) s c → lands → c.b c.lowMask % 65536 ≠ 0 →
      ∃ v, Goes (.bellInit x w) s c v .next ∧ wordAt c v l = c.b c.lowMask % 65536) ∧
    (Issues (.bellArr x w) s c → lands → Released c (job && l.sound b bellBad) b r → c.homeWord r q l = (some old, u) →
      bits old 15 0 ≠ 0 → bits old 63 34 = 0 →
      let k := if c.x.b = .imm ∧ c.x.lit = none then 1 else c.b c.lowMask % 65536
      let e := bits old 15 0
      let a := bits old 31 16
      ∃ v w', Goes (.bellArr x w) s c (c.setWarp v w') .next ∧ WritesD c 2 (fun _ => old) (c.warpIn v) w' ∧
        (k = 0 → wordAt c v l = wordAt c u l) ∧
        (k ≠ 0 → let y := wordAt c v l
          bits y 15 0 = e ∧ bits y 31 16 = (if e ≤ a + k then 0 else a + k) ∧ (bit y 32 = (bit old 32 != decide (e ≤ a + k))) ∧
          (bit y 33 = (bit old 33 || decide (e < a + k))) ∧ bits y 63 34 = 0 ∧
          ∀ lane ∈ c.mask, ∀ n, n ≤ u.ledger.count →
            (v.ledger.point (.bell (c.bellPlace l) (bits old 32 32))).knows (c.thr lane) n = true)) ∧
    (Issues (.bellWait x w) s c → c.w.secs = [] → c.sp.ans = [] → lands → c.homeWord b q l = (some old, u) →
      bits old 15 0 ≠ 0 → bits old 63 34 = 0 →
      (bit old 32 ≠ bit (c.b c.lowMask) 0 →
        ∃ v w', Goes (.bellWait x w) s c (c.setWarp v w') .next ∧ v.mem = u.mem ∧ WritesD c 2 (fun _ => old) (c.warpIn v) w' ∧
          ∀ lane ∈ c.mask, ∀ y n, (u.ledger.point (.bell (c.bellPlace l) (c.b c.lowMask % 2))).knows y n = true →
            (v.ledger.thread (c.thr lane)).clk.knows y n = true) ∧
      (bit old 32 = bit (c.b c.lowMask) 0 → ∃ b a, exec (.bellWait x w) s = .next (c.parkAt u (.bell b a) []))) ∧
    (∀ o, (c.homeWord s ⟨c.lowMask, o, 8⟩ (.stash o)).1 = some ((c.crewIn s).stashNat o 8)) ∧
    ∀ (va pa k : Nat) (leaf : BitVec 64), k < 8 → (c.bellWord s q (.glob va pa leaf)).byteAt (pa + k) =
      if s.ledger.written (pa + k) then Config.freeByte s.freeCtr (pa + k) else s.byteAt (pa + k)

/-- Futures and fill tasks. `fset` resolves pending futures lane by lane, with the release that its scope asks for where the first lane is
performed; a poisoned future is fault 0x09 and a resolved one fault 0x11 of its lane, which leaves the lanes below it resolved; a future
that is resolved has its value, and the nodes registered on it are committed in order. `fon` checks a lane's node and then its future, and
registers a node on a pending future or commits it at once on a resolved one. The bytes of a pending future that an unordered store has written
are free values, and a node on a poisoned line is fault 0x09 (notes/assumptions/46.md). `fdone` hands the fill window over as the block, or
poison where it is poisoned, once its results are back and the windows are written back (the order of its parts and the lanes of a waiting
`fset` are the model's readings: notes/assumptions/35.md), each byte as its warp sees it (notes/assumptions/40.md); `fpois` hands over
poison; outside a fill task, and a second time, both are fault 0x1D. -/
def Obligations.FuturesAndFillTasks : Prop :=
  ∀ (x : Head) (w : WS) (s : State) (c : Ctx) (ls : List (Want × Loc)) (t u v : State) (f : FillInfo),
    let scope := w.toNat % 8
    let dev := decide (3 ≤ scope)
    let futures : List Want := c.mask.map fun l => ⟨l, c.a l, 8⟩
    (Issues (.fset x w) s c → Lands c 0 { acc := .write } (issued c s) futures ls t → Released c (dev && firstPending t ls) t u →
      (c.fsetLoop scope u ls = .done v .next [] [] → Goes (.fset x w) s c v .next) ∧
      ∀ fs, c.fsetLoop scope u ls = .fault v fs → exec (.fset x w) s = .next (c.raise (c.setWarp v (c.account (c.warpIn v))) fs)) ∧
    (∀ (q : Want) (va pa : Nat) (leaf : BitVec 64) (r : List (Want × Loc)),
      let z := c.futWord u q.lane pa
      let p := z.writeReq c.agent leaf va pa 0
      let all := (q, Loc.glob va pa leaf) :: r
      c.fsetLoop scope u [] = .done u .next [] [] ∧
      (firstPending u all = true ↔ u.poisoned pa = false ∧ 2 ^ 63 ≤ u.natAt pa 8) ∧
      (z.poisoned pa = true → c.fsetLoop scope u all = .fault z [{ lane := q.lane, code := 0x09, va }]) ∧
      (z.poisoned pa = false → z.natAt pa 8 < 2 ^ 63 → c.fsetLoop scope u all = .fault z [{ lane := q.lane, code := 0x11 }]) ∧
      (z.poisoned pa = false → 2 ^ 63 ≤ z.natAt pa 8 → 2 ^ 63 ≤ p.natAt pa 8 →
        c.fsetLoop scope u all =
          c.fsetLoop scope ((c.futRel p q.lane).resolveFut dev (c.resolver z q.lane scope) pa (c.b q.lane)).2 r)) ∧
    (∀ lane pa k : Nat, k < 8 → (c.futWord u lane pa).byteAt (pa + k) =
      if u.ledger.unready (c.thr lane) (pa + k) then Config.freeByte u.freeCtr (pa + k) else u.byteAt (pa + k)) ∧
    (∀ (who : Option (Thr × List Rel)) (pa value : Nat),
      (u.natAt pa 8 < 2 ^ 63 → u.resolveFut dev who pa value = (false, u)) ∧
      (2 ^ 63 ≤ u.natAt pa 8 →
        ∃ z, (∀ k, k < 8 → z.byteAt (pa + k) = BitVec.ofNat 8 (value % 2 ^ 63 / 256 ^ k)) ∧
          (∀ a, ¬ (pa ≤ a ∧ a < pa + 8) → z.byteAt a = u.byteAt a) ∧ Store.look z.resolved pa = some dev ∧
          z.conts = (u.conts.map fun n => if n.fut = some pa then { n with fut := none } else n) ∧
          u.resolveFut dev who pa value =
            (true, ((u.conts.filter fun n => decide (n.fut = some pa)).map fun n => n.id).foldl State.contCommit z))) ∧
    (Issues (.fon x w) s c →
      Lands c 0 { acc := .write } (issued c s) (c.mask.map fun l => [⟨l, c.b l, 32⟩, ⟨l, c.a l, 8⟩]).flatten ls t →
      (poisonedWants t ls ≠ [] → exec (.fon x w) s = .next (c.raise (c.setWarp t (c.account (c.warpIn t))) (poisonedWants t ls))) ∧
      (poisonedWants t ls = [] →
        Released c (ls.any fun p => decide (p.1.size = 8) && (match p.2 with
          | .glob _ pa _ => decide (t.natAt pa 8 < 2 ^ 63)
          | _ => false)) t u →
        Goes (.fon x w) s c (c.fonLoop u ls) .next)) ∧
    (∀ (q p : Want) (va na pa node : Nat) (leaf nleaf : BitVec 64) (r : List (Want × Loc)),
      c.fonLoop u ((q, .glob na node nleaf) :: (p, .glob va pa leaf) :: r) =
        c.fonLoop (c.fonLane (u.writeReq c.agent leaf va pa 0) q.lane pa node) r ∧ c.fonLoop u [] = u) ∧
    (∀ lane fut node : Nat, ∃ n : Cont, n.id = u.arrivals ∧ n.node = node ∧ n.part = c.cr.part ∧ n.job = c.cr.jobKey ∧ n.hdr = none ∧
      n.page = none ∧ n.since = u.ledger.count ∧
      let y := c.futWord u lane fut
      let z := { y with conts := y.conts ++ [n], arrivals := y.arrivals + 1 }
      (2 ^ 63 ≤ y.natAt fut 8 → n.fut = some fut ∧ c.fonLane u lane fut node = z) ∧
      (y.natAt fut 8 < 2 ^ 63 → n.fut = none ∧
        c.fonLane u lane fut node = { z with ledger := y.ledger.send [c.thr lane] (.cont n.id) }.contCommit n.id)) ∧
    (∀ p ∈ [(Instr.fdone x w, false), (Instr.fpois x w, true)], Issues p.1 s c →
      let stops : Prop := exec p.1 s = .next (c.raise (untouched c s) [{ lane := c.lowMask, code := 0x1D }])
      let begun := (issued c s).setCrew c.core c.slot { c.cr with fill := some { f with done := true } }
      (c.cr.fill = none → stops) ∧
      (c.cr.fill = some f →
        (c.mask = [] → Goes p.1 s c (issued c s) .next) ∧
        (c.mask ≠ [] → f.done = true → c.sp.ans = [] → stops) ∧
        (c.mask ≠ [] → f.done = false ∨ c.sp.ans ≠ [] →
          (p.2 = true → Goes p.1 s c (begun.endFill c.cr.uid f none) .next) ∧
          (p.2 = false → c.waiting = true → exec p.1 s = .next (c.parkAt begun .results [(0, 1)])) ∧
          (p.2 = false → c.waiting = false → Released c true begun t →
            let y := c.send (.block f.block) { t with ledger := t.ledger.setPoint (.block f.block) {} }
            Goes p.1 s c (({ y with freeCtr := y.freeCtr + 1 } : State).endFill c.cr.uid f
              (if f.dirty = true then none else some (c.windowBytes t f))) .next)))) ∧
    (∀ k, k < f.size → (c.windowBytes u f)[k]? = some (c.windowByte u k)) ∧
    (∀ k,
      let now := (c.crewIn u).stashByte k
      let seen (e : Ev) : Prop := (∃ l, e.thr = .lane c.cr.uid c.wi l) ∨ ∃ l ∈ c.mask, u.ledger.knows (c.thr l) e = true
      let hist := Store.look u.ledger.hist (stashKey c.cr.uid k)
      (hist = none → c.windowByte u k = now) ∧
      ∀ h, hist = some h →
        (h.race = true → c.windowByte u k = Config.freeByte u.freeCtr k) ∧
        (h.race = false → (h.evs = [] → c.windowByte u k = now) ∧
          ∀ e r, h.evs = e :: r →
            (seen e → c.windowByte u k = now) ∧
            (¬ seen e → (∀ core seq, e.thr ≠ .op core seq) → c.windowByte u k = Config.freeByte u.freeCtr k) ∧
            (¬ seen e → (∃ core seq, e.thr = .op core seq) → (∀ d ∈ r.head?, seen d) → c.windowByte u k = e.old))) ∧
    ∀ (uid : Nat) (data : Option (List Byte)) (r : FillRec), r ∈ (u.slice f.home).fills → r.level = f.level → r.block = f.block →
      r.st = .running uid → { r with st := .placing data } ∈ ((u.endFill uid f data).slice f.home).fills

/-- Work queues and `spawn`. `qres` gives the first index reserved and sets its predicate when the slots are free and no earlier request waits: the
state bytes become 1, `NEXT` grows and `FREE` falls by the count, and the crew holds the reservation; without room a `.try` clears the predicate,
and another request waits in order of arrival. `qcom` makes the state bytes of a reservation of the crew 2 and, at a bound queue, is the
commit of its slots; its release comes once every check is passed. `qtake` frees the crew's earlier take, frees the void slots at `HEAD` (`HEAD`, `FREE` and `VOIDS` grow), takes the run of committed
slots after them, at most B, marking them 4 and moving `HEAD`, and gives the count and first index of the run and whether it took any. Each
then lets the queue deliver. A header out of range, a count out of range, a take of a bound queue, a commit of what is no reservation of
the crew and a seventeenth reservation or take are fault 0x12 of the lowest lane; a `qres` that may wait is fault 0x0D in a section.
Delivery passes a void slot at `HEAD` and stops at a slot that is neither void nor committed; at a bound queue it launches one consumer crew, of the
job of the last commit among them, for `BATCH` committed slots, or for those before a free slot: the slots become 4 and `HEAD` moves. `spawn` starts all its crews, or none and sets
the predicate; the room that a crew needs in the save pool is the model's reading (notes/assumptions/41.md). -/
def Obligations.WorkQueuesAndSpawn : Prop :=
  ∀ (x : Head) (w : WS) (s : State) (c : Ctx) (pa : Nat) (pas : List Nat) (r t u : State),
    let h := t.qhdr pa
    let n := c.b c.lowMask
    let pd := wsPd w
    let ag := c.cr.qagent
    let hva := c.a c.lowMask
    let refused (i : Instr) : Prop :=
      exec i s = .next (c.raise (c.setWarp t (c.account (c.warpIn t))) [{ lane := c.lowMask, code := 0x12 }])
    (c.mask ≠ [] →
      (Issues (.qres x w) s c →
        (bit w.toNat 0 = false → c.w.secs ≠ [] → c.sp.again = none → s.qwaits.any c.isMine = false →
          exec (.qres x w) s = .next (c.raise (untouched c s) [{ lane := c.lowMask, code := 0x0D }])) ∧
        (HeaderAt c (issued c s) pa t → bit w.toNat 0 = true ∨ c.w.secs = [] ∨ c.sp.again ≠ none →
          let first := (t.firstWaiter pa).all fun q => q.2.any c.isMine
          (h.ok = false ∨ n = 0 ∨ h.cap < n ∨ 16 ≤ (c.crewIn t).qres.length → t.qwaits.any c.isMine = false → refused (.qres x w)) ∧
          (h.ok = true → 0 < n → n ≤ h.cap → (c.crewIn t).qres.length < 16 →
            (n ≤ h.free → first = true → SlotsAt c h h.next n pas t u →
              let y := ((c.putSlots pas 1 (c.unqueue u)).qadd ag pa 0x24 n).qadd ag pa 0x20 (2 ^ 32 - n)
              let z := (c.setCrew y fun cr =>
                { cr with qres := cr.qres ++ [{ hdr := pa, hva, first := h.next, count := n, take := false }] }).kick ag hva pa
              ∃ w₁ w', Goes (.qres x w) s c (c.setWarp z w') .next ∧ WritesD c 1 (fun _ => h.next) (c.warpIn z) w₁ ∧
                WritesP c pd (fun _ => true) w₁ w') ∧
            (h.free < n ∨ first = false →
              (bit w.toNat 0 = true →
                ∃ w', Goes (.qres x w) s c (c.setWarp t w') .next ∧ WritesP c pd (fun _ => false) (c.warpIn t) w') ∧
              (bit w.toNat 0 = false → t.qwaits.any c.isMine = false → exec (.qres x w) s = .next (c.parkAt
                { t with
                  qwaits := t.qwaits ++ [{ hdr := pa, uid := c.cr.uid, warp := c.wi, lane := c.low, count := n, order := t.arrivals }]
                  arrivals := t.arrivals + 1 } (.queue pa) c.sp.ans)))))) ∧
      (Issues (.qcom x w) s c → HeaderAt c (issued c s) pa t →
        (h.ok = false ∨ (∀ q ∈ (c.crewIn t).qres, ¬ Reservation pa n (c.c c.lowMask) q) → refused (.qcom x w)) ∧
        (h.ok = true → (∃ q ∈ (c.crewIn t).qres, Reservation pa n (c.c c.lowMask) q) →
          SlotsAt c h n (c.c c.lowMask) pas t u → Released c true u r →
          let commit : QCommit :=
            { hdr := pa, hva, first := n, count := c.c c.lowMask, order := r.arrivals, part := c.cr.part, job := c.cr.jobKey
              lseq := (r.job? c.cr.part c.cr.jobKey).elim 0 fun j => j.lseq }
          let y := pas.foldl (fun s a => c.send (.slot a) { s with ledger := s.ledger.setPoint (.slot a) {} }) (c.putSlots pas 2 r)
          let z := c.setCrew
            { y with qcommits := if h.entry = 0 then y.qcommits else y.qcommits ++ [commit]
                     arrivals := y.arrivals + 1 } fun cr =>
              { cr with qres := cr.qres.filter fun q => !decide (q.hdr = pa ∧ q.first = n ∧ q.count = c.c c.lowMask ∧ q.take = false) }
          Goes (.qcom x w) s c (z.kick ag hva pa) .next)) ∧
      (Issues (.qtake x w) s c → HeaderAt c (issued c s) pa t →
        let taken (q : QRes) : Bool := decide (q.hdr = pa ∧ q.take = true)
        let old := (c.crewIn t).qres.find? taken
        (h.ok = false ∨ h.entry ≠ 0 ∨ n = 0 ∨ 1024 < n ∨ (old = none ∧ 16 ≤ (c.crewIn t).qres.length) → refused (.qtake x w)) ∧
        (h.ok = true → h.entry = 0 → 0 < n → n ≤ 1024 → old ≠ none ∨ (c.crewIn t).qres.length < 16 →
          (old = none → pas = [] ∧ u = t) → (∀ q, old = some q → SlotsAt c h q.first q.count pas t u) →
          ∀ voids run k k' v v', c.scan h 3 h.cap h.head [] [] u = (none, voids, k, v) →
            c.scan h 2 (min n h.cap) (h.head + voids.length) [] k v = (none, run, k', v') →
            let first := (h.head + voids.length) % 2 ^ 32
            let y := match old with
              | some q => (c.putSlots pas 0 v').qadd ag pa 0x20 q.count
              | none => v'
            let y := (((c.putSlots voids 0 y).qadd ag pa 0x28 voids.length).qadd ag pa 0x20 voids.length).qadd ag pa 0x2C voids.length
            let y := c.setCrew (run.foldl (fun s a => c.meet (.slot a) s) ((c.putSlots run 4 y).qadd ag pa 0x28 run.length)) fun cr =>
              { cr with qres := (cr.qres.filter fun q => !taken q) ++
                  (if run.length = 0 then [] else [{ hdr := pa, hva, first, count := run.length, take := true }]) }
            let z := c.acquired true (y.kick ag hva pa)
            ∃ w₁ w', Goes (.qtake x w) s c (c.setWarp z w') .next ∧
              WritesD c 2 (fun _ => first + 2 ^ 32 * run.length) (c.warpIn z) w₁ ∧ WritesP c pd (fun _ => decide (run ≠ [])) w₁ w')) ∧
      (Issues (.spawn x w) s c → hva < 2 ^ 56 → hva % 4 = 0 →
        (n = 0 ∨ 28 < n → exec (.spawn x w) s = .next (c.raise (untouched c s) [{ lane := c.lowMask, code := 0x12 }])) ∧
        (0 < n → n ≤ 28 → ∀ j, (issued c s).job? c.cr.part c.cr.jobKey = some j →
          (∀ z, c.spawnAll j n 0 (issued c s) = some z →
            ∃ w', Goes (.spawn x w) s c (c.setWarp z w') .next ∧ WritesP c pd (fun _ => false) (c.warpIn z) w') ∧
          (c.spawnAll j n 0 (issued c s) = none →
            ∃ w', Leaves (.spawn x w) s c w' ∧ WritesP c pd (fun _ => true) c.w w')))) ∧
    (∀ (j : Job) (f k : Nat),
      let cr := c.spawned j t.crewCtr k
      Store.get cr.s0 0 2 = BitVec.ofNat 32 k ∧ Store.get cr.s0 0 3 = BitVec.ofNat 32 (c.c c.lowMask) ∧
      cr.shape.entry = BitVec.ofNat 64 hva ∧ cr.cx = c.cr.cx ∧ cr.cy = c.cr.cy ∧ cr.cz = c.cr.cz ∧
      c.spawnAll j 0 k t = some t ∧
      ((t.core c.core).room cr.shape = none → c.spawnAll j (f + 1) k t = none) ∧
      ∀ slot qs, (t.core c.core).room cr.shape = some (slot, qs) →
        (t.poolHas cr.part cr.shape.dispatchBytes = false → c.spawnAll j (f + 1) k t = none) ∧
        (t.poolHas cr.part cr.shape.dispatchBytes = true → c.spawnAll j (f + 1) k t = c.spawnAll j f (k + 1)
          ((({ c.send (.start cr.uid) t with crewCtr := t.crewCtr + 1 }.takeDispatch cr).startCrew c.core slot qs cr).updJob cr.part cr.job
            fun x => { x with crews := x.crews + 1 }))) ∧
    (h.base = t.natAt pa 8 ∧ h.state = t.natAt (pa + 8) 8 ∧ h.entry = t.natAt (pa + 0x10) 8 ∧ h.cap = t.natAt (pa + 0x18) 4 ∧
      h.rsz = t.natAt (pa + 0x1C) 1 ∧ h.batch = t.natAt (pa + 0x1E) 2 ∧ h.free = t.natAt (pa + 0x20) 4 ∧ h.next = t.natAt (pa + 0x24) 4 ∧
      h.head = t.natAt (pa + 0x28) 4 ∧ h.voids = t.natAt (pa + 0x2C) 4 ∧
      (h.ok = true ↔ 16 ≤ h.cap ∧ h.cap ≤ 2 ^ 24 ∧ (∃ k, h.cap = 2 ^ k) ∧ 4 ≤ h.rsz ∧ h.rsz ≤ 7 ∧ t.natAt (pa + 0x1D) 1 = 0 ∧
        t.natAt (pa + 0x30) 16 = 0 ∧ (h.entry = 0 → h.batch = 0) ∧ (h.entry ≠ 0 → 1 ≤ h.batch ∧ h.batch ≤ 1024)) ∧
      ∀ first k, (h.slots first n).length = n ∧
        (k < n → (h.slots first n)[k]? = some ((h.state + (first + k) % h.cap) % 2 ^ 64, 1))) ∧
    (∀ (want : Byte) (f i : Nat) (l : List Nat) (k : Known),
      let p := c.placeGlobal { acc := .write } t k (h.stateVa i) 1 fun pa leaf => .glob (h.stateVa i) pa leaf
      c.scan h want 0 i l k t = (none, l, k, t) ∧
      ∀ va a leaf, p.1 = .loc (.glob va a leaf) → p.2.2.poisoned a = false →
        c.scan h want (f + 1) i l k t =
          if p.2.2.seenByte a = want then c.scan h want f (i + 1) (l ++ [a]) p.2.1 p.2.2 else (none, l, p.2.1, p.2.2)) ∧
    (∀ (f p q : Nat) (v : State), t.qstopped.any (fun e => decide (e = (pa, h.head))) = false →
      t.devAll ag [(hva, 64), (h.stateVa h.head, 1)] [] = (.inr [p, q], v) →
      (v.seenByte q = 3 → t.qdeliver ag hva pa (f + 1) = State.qdeliver
        ((((v.devPut ag q [0]).qadd ag pa 0x28 1).qadd ag pa 0x20 1).qadd ag pa 0x2C 1) ag hva pa f) ∧
      (v.seenByte q ≠ 3 → v.seenByte q ≠ 2 ∨ h.batch = 0 → t.qdeliver ag hva pa (f + 1) = v) ∧
      ∀ m stop y, v.seenByte q = 2 → h.batch ≠ 0 → v.batchRun ag h (min h.batch h.cap) h.head 0 = (.inr (m, stop), y) →
        (m ≠ h.batch → stop ≠ some 0 → t.qdeliver ag hva pa (f + 1) = y) ∧
        ∀ k j z slots, m = h.batch ∨ stop = some 0 → lastCommit (y.commitsOf pa h.head m) = some k → y.job? k.part k.job = some j →
          j.lseq = k.lseq →
          y.devAll { part := k.part, job := k.job, asn := j.asn, root := j.root } ((k.hva, 64) :: h.slots h.head m) [] =
            (.inr (p :: slots), z) →
          t.qdeliver ag hva pa (f + 1) = State.qdeliver (z.launchBatch pa h m k j slots) ag hva pa f) ∧
    (∀ (f i m : Nat),
      t.batchRun ag h 0 i m = (.inr (m, none), t) ∧
      ∀ a leaf v, t.devAccess ag (h.stateVa i) 1 .write = (.ok a leaf, v) → t.batchRun ag h (f + 1) i m =
        if v.seenByte a = 2 then v.batchRun ag h f (i + 1) (m + 1) else (.inr (m, some (v.seenByte a).toNat), v)) ∧
    (∀ (l : List QCommit) (k : QCommit), lastCommit l = some k → k ∈ l ∧ ∀ y ∈ l, y.order ≤ k.order) ∧
    (∀ (m : Nat) (k : QCommit) (j : Job) (slots : List Nat), t.job? k.part k.job = some j →
      let own : QAgent := { part := k.part, job := k.job, asn := j.asn, root := j.root }
      ∃ (cr : Crew) (v : State), t.launchBatch pa h m k j slots = v.bindCreated (homeOf pa) cr ∧ cr.uid = t.crewCtr ∧ v.crewCtr = t.crewCtr + 1 ∧
        cr.part = k.part ∧ cr.job = k.job ∧ cr.asn = j.asn ∧ cr.root = j.root ∧ cr.prio = j.desc.prio ∧
        cr.shape = { j.desc.shape with entry := BitVec.ofNat 64 h.entry } ∧ cr.cx = BitVec.ofNat 32 h.head ∧ cr.cy = 0 ∧ cr.cz = 0 ∧
        Store.get cr.s0 0 0 = BitVec.ofNat 32 k.hva ∧ Store.get cr.s0 0 1 = BitVec.ofNat 32 (k.hva % 2 ^ 64 / 2 ^ 32) ∧
        Store.get cr.s0 0 2 = BitVec.ofNat 32 h.head ∧ Store.get cr.s0 0 3 = BitVec.ofNat 32 m ∧
        cr.batch = some { hdr := pa, hva := k.hva, first := h.head, count := m, take := true } ∧
        v.job? k.part k.job = some { j with crews := j.crews + 1 } ∧
        v.mem = ((slots.foldl (fun s a => s.devPut own a [4]) t).qadd own pa 0x28 m).mem) ∧
    ∀ off k : Nat, ((∀ j, j < 4 → t.hostStale (pa + off + j) = false) →
        (t.qadd ag pa off k).natAt (pa + off) 4 = (t.natAt (pa + off) 4 + k) % 2 ^ 32) ∧
      (NoneGenerated t → ∀ a, (¬ (pa + off ≤ a ∧ a < pa + off + 4) → (t.qadd ag pa off k).byteAt a = t.byteAt a) ∧
        ∀ v : Byte, (c.putSlots pas v t).byteAt a = if a ∈ pas then v else t.byteAt a)

/-! ### Engines and sections -/

/-- The instructions that hand an operation to an engine: with legal operands and room in the queue the operation is the last of its queue, under the next issue
number of the core, and the crew has one more outstanding; the program goes on at once. What comes before an issue happens before the operation's
first read, and what comes before the completion of an `mma` before what follows the `mstat` that waits for it (notes/assumptions/40.md). -/
def Obligations.EngineInstructionsEnterTheirQueues : Prop :=
  ∀ (x : Head) (w : WS) (s : State) (c : Ctx),
    let a := c.a c.lowMask
    let b := c.b c.lowMask
    let k := (issued c s).core c.core
    let room := k.matQ.length < 16
    let more (v : State) : Prop := (c.crewIn v).engines = c.cr.engines + 1
    let queued (i : Instr) (kind : MatKind) (cfg : MatCfg) : Prop := ∃ v op, Goes i s c v .next ∧
      (v.core c.core).matQ = k.matQ ++ [op] ∧ op.kind = kind ∧ op.cfg = cfg ∧ op.uid = c.cr.uid ∧ op.seq = k.seq ∧
      (v.core c.core).seq = k.seq + 1 ∧ more v ∧ v.mem = s.mem
    c.mask ≠ [] →
    (Issues (.cpy x w) s c → a < 2 ^ 56 → a % 64 = 0 → (Store.get k.copyQ [] (bits w.toNat 4 3)).length < 16 →
      ∃ v op, Goes (.cpy x w) s c v .next ∧ Store.get (v.core c.core).copyQ [] (bits w.toNat 4 3) =
          Store.get k.copyQ [] (bits w.toNat 4 3) ++ [op] ∧ op.addr = a ∧ op.mode = bits w.toNat 2 0 ∧ op.bell = bit w.toNat 5 ∧
        op.uid = c.cr.uid ∧ op.seq = k.seq ∧ more v ∧ v.mem = s.mem) ∧
    (Issues (.qfen x w) s c → Goes (.qfen x w) s c
      (((issued c s).setCore c.core (Core.dropJoins { k with joins := k.joins ++ [{ seq := k.seq, mask := BitVec.ofNat 6 w.toNat }] })).joinQueues
        c.core (BitVec.ofNat 6 w.toNat)) .next) ∧
    (∀ (v : State) (ts : List Thr) (n seq : Nat), { v.issues ts c.core n seq with ledger := v.ledger } = v ∧
      ∀ y ∈ ts, ∀ j, j ≤ v.ledger.count → ((v.issues ts c.core n seq).ledger.point (.op c.core seq)).knows y j = true) ∧
    (∀ r, Issues (.rast x w) s c → a < 2 ^ 56 → a % 128 = 0 → Released c true (issued c s) r →
      (r.unit (c.core % 8)).batches.length < 16 →
      ∃ v e, Goes (.rast x w) s c v .next ∧ (v.unit (c.core % 8)).batches = (r.unit (c.core % 8)).batches ++ [e] ∧ e.addr = a ∧
        e.ord = bit w.toNat 0 ∧ e.uid = c.cr.uid) ∧
    (let cfg : MatCfg := { m := 16 * 2 ^ bits w.toNat 1 0, n := 16 * 2 ^ bits w.toNat 3 2, k := 32 * bits w.toNat 13 4
                           int := bit w.toNat 14, sati := bit w.toNat 15 }
      let used := k.matUsed
      Issues (.tcfg x w) s c → a ≤ 262144 → a % 4096 = 0 →
      (used.1 - c.cr.mat.accBytes + 32 * cfg.m * cfg.n ≤ 131072 → used.2 - c.cr.mat.bin + a ≤ 262144 → room → k.hodQ.length < 16 →
        ∃ v op, Goes (.tcfg x w) s c v .next ∧ (v.core c.core).matQ = k.matQ ++ [op] ∧ op.kind = .barrier ∧
          (c.crewIn v).mat.cfg = some cfg ∧ (c.crewIn v).mat.bin = a ∧ (c.crewIn v).mat.recs = [] ∧ more v ∧ v.mem = s.mem) ∧
      (131072 < used.1 - c.cr.mat.accBytes + 32 * cfg.m * cfg.n ∨ 262144 < used.2 - c.cr.mat.bin + a → c.dPred ≠ 7 →
        ∃ w', Leaves (.tcfg x w) s c w' ∧ WritesP c c.dPred (fun _ => true) c.w w')) ∧
    (∀ cfg fmt, fmt = bits w.toNat 3 0 → Issues (.bres x w) s c → c.cr.mat.cfg = some cfg →
      Store.look c.cr.mat.recs (x.sub.toNat % 8) = none → layoutOk c.cr.mat fmt b (layoutRec fmt cfg.k b (issued c s).freeCtr) = true →
      ∃ v, Goes (.bres x w) s c v .next ∧ v.mem = s.mem ∧
        Store.look (c.crewIn v).mat.recs (x.sub.toNat % 8) = some (layoutRec fmt cfg.k b (issued c s).freeCtr)) ∧
    (∀ cfg r, Issues (.brel x w) s c → c.cr.mat.cfg = some cfg → Store.look c.cr.mat.recs (x.sub.toNat % 8) = some r →
      ∃ v, Goes (.brel x w) s c v .next ∧ Store.look (c.crewIn v).mat.recs (x.sub.toNat % 8) = none) ∧
    (∀ cfg r, let scales := bit x.sub.toNat 3
      let src := bits w.toNat 1 0
      Issues (.tload x w) s c → c.cr.mat.cfg = some cfg → Store.look c.cr.mat.recs (x.sub.toNat % 8) = some r →
      (scales = true → hasScale r.fmt = true) → (src ≠ 1 → a < 2 ^ 56) → (scales = false → a % 16 = 0 ∧ b % 16 = 0) →
      (src = 1 → a + (r.rows - 1) * b + r.rowLen scales ≤ c.cr.shape.stash) → k.hodQ.length < 16 →
      ∃ v op, Goes (.tload x w) s c v .next ∧ (v.core c.core).hodQ = k.hodQ ++ [op] ∧ op.area = r ∧ op.base = a ∧ op.stride = b ∧
        op.scales = scales ∧ op.fromSrc = src ∧ op.uid = c.cr.uid ∧ op.seq = k.seq ∧ more v ∧ v.mem = s.mem) ∧
    (∀ cfg ra rb, Issues (.mma x w) s c → c.cr.mat.cfg = some cfg → Store.look c.cr.mat.recs (x.sub.toNat % 8) = some ra →
      Store.look c.cr.mat.recs (x.sub.toNat / 8 % 8) = some rb → mmaOk cfg ra rb = true → a < 2 ^ 56 → a % 8 = 0 → k.layers ≠ [] → room →
      queued (.mma x w) (.mma (x.sub.toNat % 8) (x.sub.toNat / 8 % 8) ra rb (bits w.toNat 2 0) (bit w.toNat 3) a) cfg) ∧
    (∀ cfg, let fmt := bits w.toNat 6 3
      let stash := bit x.sub.toNat 0
      let ok (q : Bool) : Prop := c.cr.mat.cfg = some cfg ∧ drainOk cfg q w.toNat = true ∧ (stash = false → a < 2 ^ 56) ∧ a % 16 = 0 ∧
        b % 16 = 0 ∧ c.c c.lowMask % 8 = 0 ∧ (stash = true → drainEnd cfg q fmt a b ≤ c.cr.shape.stash) ∧ room
      (Issues (.tdrain x w) s c → ok false → queued (.tdrain x w) (.tdrain (bits w.toNat 2 0) fmt (decodeRnd (bits w.toNat 8 7))
        (bit w.toNat 9) stash (bit x.sub.toNat 1) a b (c.c c.lowMask)) cfg) ∧
      (Issues (.tquant x w) s c → ok true →
        queued (.tquant x w) (.tquant (bits w.toNat 2 0) fmt stash a b (c.c c.lowMask)) cfg) ∧
      (Issues (.tzero x w) s c → c.cr.mat.cfg = some cfg → room → queued (.tzero x w) (.tzero (bits w.toNat 2 0)) cfg)) ∧
    (Issues (.mstat x w) s c → c.w.mmas = 0 →
      ∃ val w₁, Goes (.mstat x w) s c (c.meet (.mma c.cr.uid c.wi) (c.setWarp (issued c s) { w₁ with mmrep := c.w.report })) .next ∧
        WritesD c 2 (fun _ => val) c.w w₁ ∧
        val % 2 ^ 32 = c.w.report.toNat ∧ (∀ l, l < 4 → val.testBit (32 + l) = (!k.thr.getLsbD l && !k.resOut.getLsbD l)) ∧
        bits val 39 36 = k.resOut.toNat ∧ bits val 43 40 = k.thr.toNat) ∧
    ∀ (p : Point) (v : State), { c.meet p v with ledger := v.ledger } = v ∧
      ∀ l ∈ c.mask, ∀ y n, (v.ledger.point p).knows y n = true → ((c.meet p v).ledger.thread (c.thr l)).clk.knows y n = true

/-- The section instructions. `sopen` gives its status, and the entry it creates has `FIRST`, `NEXT` and `TICKET` at the first sequence, `END` after the
last, and zeros elsewhere; `senter` drops the sequence from the crew's tickets, registers the warp and runs `Advance`: granted at once it goes on,
else it parks until the grant and then completes; `sleave` takes the section from the warp at its issue, waits for its release, also after a
wait, and then sends the leave, while one whose release faults gives the section back; `sskip` marks a sequence after its release; `stake` gives
a ticket. What comes before a leave, or the skip of an earlier sequence, happens before what follows a grant (notes/assumptions/40.md). The faults
are 0x0C out of key order, 0x10 for a key or a
sequence that is not there to take (outside the window, held, waited on, marked, or ticketed for another crew), and 0x0F for a broken key.
`Advance` steps past skipped sequences, one or a raster range at a time, grants the head to the warp that waits for it, and frees an entry
whose window is at its end and not held. -/
def Obligations.SectionInstructions : Prop :=
  ∀ (x : Head) (w : WS) (s : State) (c : Ctx) (r : State) (e : Nat) (y : RackEnt),
    let key := c.a c.lowMask
    let q := c.b c.lowMask
    let i := issued c s
    let sl := keyHome key
    let found (s : State) : Prop := s.rackFind c.cr.part c.cr.jobKey key = some (e, y)
    let bad (op : Instr) (v : State) (code : Nat) : Prop := exec op s =
      .next (c.raise (c.setWarp v (c.account (c.warpIn v))) [{ lane := c.lowMask, code := code }])
    (c.mask ≠ [] →
      (Issues (.sopen x w) s c →
        let n := c.c c.lowMask
        let free := i.rackFree sl c.cr.part
        ∃ st z w₁ w', Goes (.sopen x w) s c (c.setWarp z w') .next ∧ WritesD c 1 (fun _ => st) (c.warpIn z) w₁ ∧
          WritesP c (wsPd w) (fun _ => decide (st ≠ 0)) w₁ w' ∧
          st = (if n = 0 ∨ 0x80000000 < n then 3 else if (i.rackFind c.cr.part c.cr.jobKey key).isSome then 2
            else if free.isNone then 1 else 0) ∧
          (2 ≤ st → z = i) ∧ (st = 1 → z = i.countSlice sl 0x34 1) ∧
          ∀ a, st = 0 → free = some a → z = (((i.setSlice sl { i.slice sl with opened := (i.slice sl).opened + 1 }).setRack sl a
            { key, next := q, stop := (q + n) % 2 ^ 32, ticket := q, first := q, part := c.cr.part, job := c.cr.jobKey
              stallB := (i.part c.cr.part).stallB, life := (i.slice sl).opened }).countSlice sl 0x2E 1).advance sl a) ∧
      (Issues (.senter x w) s c → c.sp.ans = [] →
        (4 ≤ c.w.secs.length ∨ (∃ h ∈ c.w.secs, key ≤ h.key) → bad (.senter x w) i 0x0C) ∧
        (c.w.secs.length < 4 → (∀ h ∈ c.w.secs, h.key < key) →
          (i.rackFind c.cr.part c.cr.jobKey key = none → bad (.senter x w) i 0x10) ∧
          (found i → y.broken = true → bad (.senter x w) i 0x0F) ∧
          (found i → y.broken = false → i.badSeq sl e y (c.crewIn i) q = true → bad (.senter x w) i 0x10) ∧
          (found i → y.broken = false → i.badSeq sl e y (c.crewIn i) q = false →
            let wait : Wait := .grant sl e q c.lowMask ((c.crewIn i).hasTicket y.key q)
            let z := (c.setCrew i fun cr => cr.dropTicket y.key q).setRack sl e { y with waiters := y.waiters + 1 }
            let v := (c.setWarp z ((c.warpIn z).replaceSplit c.low [{ c.sp with st := .parked wait }])).advance sl e
            ((c.warpIn v).secs.any (fun h => decide (h.key = y.key)) = true → Goes (.senter x w) s c
              (c.granted (c.setWarp v ((c.warpIn v).replaceSplit c.low [c.sp]))) .next) ∧
            ((c.warpIn v).secs.any (fun h => decide (h.key = y.key)) = false → exec (.senter x w) s = .next (c.parkAt v wait []))))) ∧
      (Issues (.senter x w) s c → c.sp.ans ≠ [] → Goes (.senter x w) s c (c.granted i) .next) ∧
      (∀ v, { c.granted v with ledger := v.ledger } = c.setCrew v Crew.refresh ∧
        (v.rackFind c.cr.part c.cr.jobKey key = some (e, y) → ∀ p, p = .sect sl y.life ∨ (p ∈ v.ledger.points.map (fun z => z.1) ∧
            ∃ n, p = .skip sl y.life n ∧ seqSub n y.first < seqSub q y.first) →
          ∀ l ∈ c.mask, ∀ u n, (v.ledger.point p).knows u n = true → ((c.granted v).ledger.thread (c.thr l)).clk.knows u n = true)) ∧
      (∀ v : State, v.rackEnt sl e = some y → ∀ l ∈ c.mask, ∀ n, n ≤ v.ledger.count →
        ((v.sendLeave c.threads sl e).ledger.point (.sect sl y.life)).knows (c.thr l) n = true ∧
        ((v.sendSkip c.threads sl e q).ledger.point (.skip sl y.life q)).knows (c.thr l) n = true) ∧
      (Issues (.sleave x w) s c → leavingOf c.sp.ans = none →
        ((∀ h ∈ c.w.secs, h.key ≠ key) → bad (.sleave x w) i 0x10) ∧
        (∀ h, c.w.secs.find? (fun h => decide (h.key = key)) = some h →
          let gone := c.setWarp i { c.warpIn i with secs := (c.warpIn i).secs.filter fun z => decide (z.key ≠ h.key) }
          (Released c true gone r → Goes (.sleave x w) s c ((r.sendLeave c.threads h.slice h.entry).leaveAt h.slice h.entry) .next) ∧
          ∀ va code detail, gone.writeBack c.agent false = (some (va, .fault code detail), r) →
            exec (.sleave x w) s = .next (c.raise (untouched c s) [{ lane := c.lowMask, code, detail, va }]))) ∧
      (∀ a b, Issues (.sleave x w) s c → leavingOf c.sp.ans = some (a, b) →
        (Released c true i r → Goes (.sleave x w) s c ((r.sendLeave c.threads a b).leaveAt a b) .next) ∧
        ∀ va code detail k, i.writeBack c.agent false = (some (va, .fault code detail), r) → r.rackEnt a b = some k →
          let u := c.setWarp r { c.warpIn r with secs := (c.warpIn r).secs ++ [{ key := k.key, seq := k.next, slice := a, entry := b }] }
          exec (.sleave x w) s =
            .next (c.raise (c.setWarp u (c.account (c.warpIn u))) [{ lane := c.lowMask, code, detail, va }])) ∧
      (Issues (.sskip x w) s c → Released c true i r →
        (r.rackFind c.cr.part c.cr.jobKey key = none → bad (.sskip x w) r 0x10) ∧ (found r → y.broken = true → bad (.sskip x w) r 0x0F)) ∧
      (Issues (.sskip x w) s c → Released c true i r → found r → y.broken = false →
        (r.badSeq sl e y (c.crewIn r) q = true ∨ 64 ≤ y.off q → bad (.sskip x w) r 0x10) ∧
        (r.badSeq sl e y (c.crewIn r) q = false → y.off q < 64 →
          Goes (.sskip x w) s c (((c.setCrew r fun cr => cr.dropTicket y.key q).sendSkip c.threads sl e q).skipAt sl e q false) .next)) ∧
      (Issues (.stake x w) s c → found i → y.broken = false →
        let st := if y.ticket = y.stop then 3 else if 64 ≤ y.off y.ticket then 1 else if 16 ≤ (c.crewIn i).tickets.length then 2 else 0
        ∃ z w', Goes (.stake x w) s c (c.setWarp z w') .next ∧
          WritesD c 2 (fun _ => if st = 0 then y.ticket else 2 ^ 32 * st) (c.warpIn z) w' ∧ (st ≠ 0 → z = i) ∧
          (st = 0 → z = ((c.setCrew i fun cr =>
            { cr with tickets := cr.tickets ++ [{ key := y.key, seq := y.ticket, slice := sl }] }).setRack sl e
              { y with ticket := (y.ticket + 1) % 2 ^ 32 }).advance sl e)) ∧
      (Issues (.stake x w) s c →
        (i.rackFind c.cr.part c.cr.jobKey key = none → bad (.stake x w) i 0x10) ∧ (found i → y.broken = true → bad (.stake x w) i 0x0F))) ∧
    (let off (q : Nat) : Nat := (q + 2 ^ 32 - y.next % 2 ^ 32) % 2 ^ 32
      ∀ cr : Crew, r.badSeq sl e y cr q = true ↔
        off y.stop ≤ off q ∨ (y.held = true ∧ q = y.next) ∨
        (∃ k ∈ r.allCrews, ∃ u ∈ k.warps, ∃ sp ∈ u.2.allSplits, ∃ l own, sp.st = .parked (.grant sl e q l own)) ∨
        (off q < 64 ∧ y.skip.getLsbD (off q) = true) ∨ (off q < off y.ticket ∧ ∀ t ∈ cr.tickets, ¬ (t.key = y.key ∧ t.seq = q))) ∧
    (∀ f : Nat, r.rackEnt sl e = some y →
      let z := r.advanceLoop (f + 1) sl e
      let stepped (k : Nat) : State := ((r.setRack sl e (y.stepBy k)).countSlice sl 0x30 k).advanceLoop f sl e
      let range := seqSub y.next y.rlo < seqSub y.rhi y.rlo
      (y.remaining = 0 ∨ y.held = true → z = r) ∧
      (y.remaining ≠ 0 → y.held = false →
        (y.skip.getLsbD 0 = true → z = stepped 1) ∧
        (y.skip.getLsbD 0 = false → range → z = stepped (min (seqSub y.rhi y.next) y.remaining)) ∧
        (y.skip.getLsbD 0 = false → ¬ range →
          (r.awaited sl e y.next = true → z = ((r.setRack sl e { y with held := true, waiters := y.waiters - 1, stallcnt := 0 }).grantSeq sl e
            y.next y.key).countSlice sl 0x2F 1) ∧
          (r.awaited sl e y.next = false → z = r)))) ∧
    (∀ k : Nat, (y.stepBy k).next = (y.next + k) % 2 ^ 32 ∧ (y.stepBy k).skip = y.skip >>> k ∧ (y.stepBy k).stallcnt = 0 ∧
      (y.stepBy k).ticket = if y.off y.ticket < k then (y.next + k) % 2 ^ 32 else y.ticket) ∧
    (r.rackEnt sl e = none → r.advance sl e = r.advanceLoop 140 sl e) ∧
    ((r.advanceLoop 140 sl e).rackEnt sl e = some y → r.advance sl e =
      if y.remaining = 0 ∧ y.held = false then ((r.advanceLoop 140 sl e).freeRack sl e).reclass
      else ((r.advanceLoop 140 sl e).setRack sl e { y with owner := (r.advanceLoop 140 sl e).ownerOf sl e y }).reclass)


/-! ### The moves of the device's agents -/

/-- The turn of a quarter (19 R273, R274): of the warps of its window that can issue it picks one that comes before every other, by
starvation, class, read clocks and age; a window holds at most four. A quarter that is suspended counts a clock and picks none. No
turn changes memory but the accessed bits of leaf entries that fetches which must wait have reached. The quarters of a core clock take their turns in increasing order (17 R236): a turn of a quarter that has had its own in
the clock, or that a later one has had, begins the next; that a turn begins a clock in this way is the model's own
(notes/assumptions/9.md). -/
def Obligations.ArbitrationPicksTheFirstOfTheWindow : Prop :=
  ∀ (s : State) (core q : Nat),
    let c := s.core core
    let qu : Quarter := Store.get c.quarters {} q
    let clk := if (List.range 4).any fun k => decide (q ≤ k ∧ (Store.get c.quarters {} k : Quarter).turn = c.clk + 1) then c.clk + 1 else c.clk
    let can (x : Contender) : Prop := x ∈ s.contenders core q ∧ (x.slot, x.warp) ∈ (qu.refill (s.contenders core q)).window
    ∃ t, exec (.issueArbitration core q) s = .next t ∧ (t.core core).clk = clk ∧
      (NoneGenerated s → ∀ a, t.byteAt a ||| 0x01 = s.byteAt a ||| 0x01 ∧ s.byteAt a &&& t.byteAt a = s.byteAt a) ∧
      (s.mgmt.boot = 5 → qu.suspended = 0 → qu.free ≤ clk →
        ((∃ x, can x) → ∃ p, can p ∧ (∀ x, can x → x.before p = false) ∧
          t.picked = some { core, slot := p.slot, warp := p.warp, lane := p.sp.lanes.headD 0 }) ∧
        ((∀ x, ¬ can x) → t.picked = s.picked)) ∧
      (s.mgmt.boot = 5 → 0 < qu.suspended → t.picked = s.picked ∧
        (Store.get (t.core core).quarters {} q).suspended = qu.suspended - 1) ∧
      (qu.window.length ≤ 4 → (qu.refill (s.contenders core q)).window.length ≤ 4) ∧
      ∀ x y : Contender, x.starved = false → y.starved = false →
        (x.cls < y.cls ∨ (x.cls = y.cls ∧ x.cost = 0 ∧ y.cost ≠ 0) ∨
          (x.cls = y.cls ∧ (x.cost = 0 ↔ y.cost = 0) ∧ x.age < y.age)) → x.before y = true

/-- Results and waits. A result that returns is owed to none of its lanes any more; a stop whose results have all returned ends, and its
registers are unsealed. A predicted branch that resolves is repaired and counted where its mask was wrong (which are predicted, and wrongly, is
open: notes/assumptions/5.md). An `mstat` goes on once its warp has no `mma` outstanding (the move for it is the model's own:
notes/assumptions/36.md). A clock of a slice counts for every key that stalls, and a key whose budget has run out gives its waiters fault 0x0E
(the expiries of a clock are the next moves: notes/assumptions/1.md) and their crew the ticket that it gave up to enter. -/
def Obligations.ReturnsRepairsAndStalls : Prop :=
  ∀ (s : State) (core slot wi : Nat) (cr : Crew), s.mgmt.boot = 5 → s.crew core slot = some cr →
    let w := cr.warp wi
    (∀ op ls part, ∃ t cr', exec (.resultReturn core slot wi op ls part) s = .next t ∧ t.mem = s.mem ∧ t.crew core slot = some cr' ∧
      ∀ p ∈ (cr'.warp wi).pends, p.id = op → ∀ l ∈ ls, l ∉ p.lanes) ∧
    (∀ (sp : Split) (ops : List Nat), sp.st = .stopWait ops → sp.again = none → sp.lanes ≠ [] → w.returned ops sp.lanes = true →
      w.lateOf ops sp.lanes = none →
      ∃ cr', (s.endWait core slot wi sp).crew core slot = some cr' ∧ { sp with st := .run } ∈ (cr'.warp wi).splits ∧
        ∀ x ∈ (cr'.warp wi).seals, x.op ∈ ops → x.binds sp.lanes = false) ∧
    (w.unres ≠ 0 → ∃ t cr', exec (.maskPredictionRepair core slot wi) s = .next t ∧ t.mem = s.mem ∧ t.crew core slot = some cr' ∧
      (cr'.warp wi).unres = w.unres - 1 ∧
      (cr'.warp wi).mpred = (if Config.mispredicted s.freeCtr then w.mpred + 2 ^ 32 else w.mpred) ∧
      ∀ j, j ≠ wi → cr'.warp j = cr.warp j) ∧
    (w.mmas = 0 → ∃ t cr', exec (.mstatReport core slot wi) s = .next t ∧ t.mem = s.mem ∧ t.crew core slot = some cr' ∧
      (cr'.warp wi).splits = w.splits.map fun sp => if sp.st = .parked .mma then { sp with st := .run } else sp) ∧
    (∀ sl, ∃ t, exec (.stallCount sl) s = .next t ∧ t.mem = s.mem ∧ (t.slice sl).clk = (s.slice sl).clk + 1 ∧
      (∀ e x, s.rackEnt sl e = some x →
        t.rackEnt sl e = some (if x.waiters ≠ 0 ∧ x.held = false ∧ x.remaining ≠ 0 then { x with stallcnt := x.stallcnt + 1 } else x)) ∧
      ∀ e ∈ (t.slice sl).rack, e.2.stalls = true → 2 ^ (16 + e.2.stallB) ≤ e.2.stallcnt → Instr.stallBudgetExpiry sl e.1 ∈ t.agenda) ∧
    ∀ sl e x, s.rackEnt sl e = some x → x.stalls = true → 2 ^ (16 + x.stallB) ≤ x.stallcnt →
      ∃ t cr', exec (.stallBudgetExpiry sl e) s = .next t ∧ t.mem = s.mem ∧ t.crew core slot = some cr' ∧
        ((cr'.warp wi).splits = w.splits.map fun sp =>
          match sp.st with
          | .parked (.grant a b _ lane _) =>
            if a = sl ∧ b = e then { sp with st := .entryWait [{ lane, code := 0x0E }], ans := [] } else sp
          | _ => sp) ∧
        ∀ key q, (∃ d ∈ cr'.tickets, d.key = key ∧ d.seq = q) ↔ (∃ d ∈ cr.tickets, d.key = key ∧ d.seq = q) ∨
          (key = x.key ∧ ∃ u ∈ cr.warps, ∃ sp ∈ u.2.allSplits, ∃ l, sp.st = .parked (.grant sl e q l true))

/-- The moves at the homes of memory. A line request of a core marks a resident line by its policy, and allocates a missing one where the
policy allocates and a way is eligible. A free fill record goes to the access that has waited longest, which asks again where its descriptor covers
the block no more (DEDUCED, notes/assumptions/28.md); the first queued record, by class and creation, for which a core is free gets its fill task; a
record that is placed releases its block's waiters after its lines have entered the cache one after another: a resident line keeps its bytes, one
without an eligible way stays out, and every other is allocated with its part of the block. That release, placing and wake are one move, and that a
waiter is held under `GENINV`, are the model's (DEDUCED, notes/assumptions/29.md). A continuation that is first at its queue becomes a record, its state
byte 2, `NEXT` one more and `FREE` one less, once a slot is free: its payload is the node's where nothing has written the node since its `fon`, and else
is free, the record being committed once (notes/assumptions/46.md). A request waits in its partition's queue at the channel of its line; a turn of a
channel does a refresh that is due before it grants, and a grant takes the oldest request of the partition whose round it is. -/
def Obligations.MemorySideMoves : Prop :=
  ∀ s : State,
    (∀ core p pa cpol write, s.mgmt.boot = 5 → (s.core core).part = some p → inHbm (BitVec.toNat pa) = true →
      let a : Nat := BitVec.toNat pa
      ∃ t, exec (.lineRequest core pa cpol write) s = .next t ∧
        (∀ w l, s.wayOf a = some w → s.lineAt a = some l → ∃ l', t.lineAt a = some l' ∧ l'.tag = l.tag ∧
          l'.dirty = (l.dirty || write) ∧ l'.keep = (if cpol = 2 then true else if cpol = 5 then false else l.keep)) ∧
        (s.wayOf a = none → cpol ≠ 4 → cpol ≠ 5 → ∀ w, s.victim (homeOf a) (setOf a) p = some w →
          ∃ l', t.lineAt a = some l' ∧ l'.tag = p ∧ l'.dirty = write ∧ l'.keep = decide (cpol = 2))) ∧
    (∀ home level w, (s.slice home).fwaits.find? (fun w => decide (w.level = level) && !(s.part w.part).geninv) = some w →
      ((s.slice home).fills.filter fun r => decide (r.level = level)).length < 16 →
      ∃ t, exec (.fillRecordWaitServed home level) s = .next t ∧ t.mem = s.mem ∧
        (∀ d, s.descNow w = some d →
          (∃ r ∈ (t.slice home).fills, r.level = level ∧ r.block = w.block ∧ r.gen = w.gen ∧ r.part = w.part ∧ r.desc = d ∧ r.st = .queued) ∧
          ∀ x ∈ (t.slice home).fwaits, ¬ (x.block = w.block ∧ x.level ≤ level)) ∧
        (s.descNow w = none → (t.slice home).fills = (s.slice home).fills ∧ (t.slice home).fwaits = (s.slice home).fwaits.erase w)) ∧
    (∀ home,
      let can (r : FillRec) (c : Nat) : Prop := r ∈ (s.slice home).fills ∧ r.st = .queued ∧ s.fillCore home r.part r.level = some c
      s.mgmt.boot = 5 → (∃ r c, can r c) → ∃ r c, can r c ∧ (∀ x d, can x d → x.before r = false) ∧
        ∃ t cr f, exec (.fillTaskPlace home) s = .next t ∧ t.mem = s.mem ∧ t.crew c (28 + r.level) = some cr ∧ cr.kind = .fill ∧
          cr.fill = some f ∧ f.block = r.block ∧ f.size = r.size ∧ f.gen = r.gen ∧ f.level = r.level ∧
          cr.asn = (genFields r.desc.bytes).asn ∧ cr.root = r.desc.root ∧ cr.part = r.part) ∧
    (∀ home block level r data, (s.slice home).fills.find? (fun r => decide (r.level = level ∧ r.block = BitVec.toNat block)) = some r →
      r.st = .placing data →
      let b : Nat := BitVec.toNat block
      let keep := (genFields r.desc.bytes).keep
      let place (u : State) (k : Nat) : State := match data with
        | some d => u.commitLine r.part keep (r.block + 128 * k) ((d.drop (128 * k)).take 128)
        | none => u.poisonLine r.part keep (r.block + 128 * k)
      let after (k : Nat) : State := (List.range k).foldl place s
      let lines := r.size / 128
      ∃ t, exec (.fillRelease home block level) s = .next t ∧ t.mem = (after lines).mem ∧ t.poison = (after lines).poison ∧
        (∀ x ∈ (t.slice home).fills, x.block = b → x.level ≠ level ∧ x.st ≠ .queued) ∧
        (∀ cr ∈ t.allCrews, ∀ w ∈ cr.warps, ∀ sp ∈ w.2.splits, ∀ l, sp.st = .parked (.fill l) → (home, level, b) ∉ l) ∧
        ∀ d, data = some d → d.length = 128 * lines →
          (∀ j, j < lines → (after j).wayOf (b + 128 * j) = none ∧ ∃ w, (after j).victim (homeOf (b + 128 * j)) (setOf (b + 128 * j)) r.part = some w ∧
            ∀ l, Store.look (Store.get ((after j).slice (homeOf (b + 128 * j))).sets {} (setOf (b + 128 * j))).ways w = some l →
              l.larder = none) →
          ∀ k, k < d.length → t.byteAt (b + k) = d.getD k 0) ∧
    (∀ (p : Nat) (keep : Bool) (pa : Nat) (bs : List Byte), bs.length = 128 →
      let u := s.commitLine p keep pa bs
      (∀ w, s.wayOf pa = some w → u = s.countSlice (homeOf pa) 0x26 1) ∧
      (s.wayOf pa = none → s.victim (homeOf pa) (setOf pa) p = none → u = s.countSlice (homeOf pa) 0x27 1) ∧
      (s.wayOf pa = none → ∀ w, s.victim (homeOf pa) (setOf pa) p = some w → (∀ k, k < 128 → u.byteAt (pa + k) = bs.getD k 0) ∧
        ∃ l, u.lineAt pa = some l ∧ l.tag = p ∧ l.dirty = false ∧ l.larder = some keep)) ∧
    (∀ i c hdr, i < 2 ^ 32 → s.conts[i]? = some c → s.conts.find? (fun x => decide (x.id = c.id)) = some c → c.fut = none → c.page = none →
      c.hdr = some hdr → s.firstWaiter hdr = some (c.order, none) → s.poisoned c.node = false → s.poisoned hdr = false →
      let h := s.qhdr hdr
      let hva := s.natAt (c.node + 8) 8
      let ag := c.agent
      (h.free = 0 → exec (.continuationCommit i) s = .next s) ∧
      (∀ v : State, (∀ k, k < 32 → v.ledger.lastOf (c.node + k) ≤ c.since) → v.nodePayload c = v.bytesAt (c.node + 16) 16) ∧
      ∀ pas u, h.free ≠ 0 → h.ok = true →
        s.devAll ag [(hva, 64), (h.recordVa h.next, 2 ^ h.rsz), (h.stateVa h.next, 1)] [] = (.inr pas, u) →
        let slot := (pas[2]?).getD 0
        let v := (u.devPut ag ((pas[1]?).getD 0) (u.nodePayload c ++ List.replicate (2 ^ h.rsz - 16) 0)).devPut ag slot [2]
        let z : State := { v with freeCtr := v.freeCtr + 1, ledger := v.ledger.setPoint (.slot slot) (v.ledger.point (.cont c.id)) }
        let y := (z.qadd ag hdr 0x24 1).qadd ag hdr 0x20 (2 ^ 32 - 1)
        ∃ t commits n, exec (.continuationCommit i) s = .next t ∧ (∀ x ∈ t.conts, x.id ≠ c.id) ∧
          t = (({ y with qcommits := commits, arrivals := n } : State).dropCont c.id).kick ag hva hdr ∧
          (h.entry = 0 → commits = y.qcommits) ∧ (h.entry ≠ 0 → ∃ q, commits = y.qcommits ++ [q] ∧ q.hdr = hdr ∧ q.hva = hva ∧
            q.first = h.next ∧ q.count = 1 ∧ q.part = c.part ∧ q.job = c.job)) ∧
    (∀ (ag : QAgent) (pa : Nat) (bs : List Byte) (a : Nat), NoneGenerated s →
      (s.devPut ag pa bs).byteAt a = if pa ≤ a ∧ a < pa + bs.length then bs.getD (a - pa) 0 else s.byteAt a) ∧
    (∀ ch, ∃ t, exec (.channelRefresh ch) s = .next t ∧ t.mem = s.mem ∧
      Store.get t.channels {} ch = { (Store.get s.channels {} ch : Channel) with refresh := true } ∧
      Store.get (t.channelTurn ch).channels {} ch = { (Store.get s.channels {} ch : Channel) with refresh := false }) ∧
    (∀ pa p, inHbm pa = true →
      let queue (t : State) : List Nat := Store.get (Store.get t.channels {} (homeOf pa) : Channel).queues [] p
      queue (s.grant pa p) = queue s ++ [lineOf pa]) ∧
    ∀ (c : Channel) (weight : Nat → Nat), c.refresh = false → c.part < 8 →
      let holds (p : Nat) : Prop := Store.get c.queues [] p ≠ []
      ((∀ p, p < 8 → ¬ holds p) → c.turn weight = c) ∧
      ∀ p, p < 8 → holds p →
        (p = c.part ∧ c.used < weight p) ∨ (¬ (holds c.part ∧ c.used < weight c.part) ∧
          ∀ q, q < 8 → holds q → (p + 7 - c.part) % 8 ≤ (q + 7 - c.part) % 8) →
        (c.turn weight).served = p ∧ Store.get (c.turn weight).queues [] p = (Store.get c.queues [] p).drop 1 ∧
          ∀ q, q ≠ p → Store.get (c.turn weight).queues [] q = Store.get c.queues [] q


/-- The copy engines. A copy whose descriptor is read is performed: with an illegal descriptor it ends with error 0x01, after every element
with its status, stopped by a fault with the code and the element reached. An element of a straight copy, a gather or a pattern is the byte
or bytes that the mode names, at the place that its address translates to, where destination and sources do not overlap. A converted element is its
source element's value under its block's scale, rounded once into the format of the destination; a quantised block is `quantise` of its 32 elements, packed
below one another, with its scale byte. A performed copy leaves its queue once its future is resolved and, with `.bell`, its bell has had its one arrival,
with `ERR` after an error, which is counted by the bell's word where no thread has stored to it; that it waits at its queue's head where the bell's
window waits is the model's choice (DEDUCED, notes/assumptions/30.md). One whose descriptor could not be read is counted. -/
def Obligations.CopiesArePerformedAndComplete : Prop :=
  ∀ (s : State) (core n : Nat) (op : CopyOp) (rest : List CopyOp) (cr : Crew),
    let ag := cr.acting core op.seq
    let head (t : State) : Option CopyOp := (Store.get (t.core core).copyQ [] n).head?
    s.mgmt.boot = 5 → Store.get (s.core core).copyQ [] n = op :: rest → s.crewOf op.uid = some cr →
    (op.st = .queued → (s.core core).canBegin n op.seq = true → op.desc = none → ∀ l u, s.engLoad ag op.served false op.addr 64 = (.inr l, u) →
      let d := copyDesc l
      let run := ({ u with freeCtr := u.freeCtr + 1 } : State).copyRun ag d op.mode op.served (u.sources ag d op.mode) u.freeCtr d.count op.done
        op.quant
      (d.ok op.mode = false → ∃ t e, exec (.copyExecute core n) s = .next t ∧ head t = some e ∧ e.st = .performed (errWord 0x01 0) true) ∧
      (d.ok op.mode = true →
        (∀ j q (v : State), run = (none, j, q, v) → ∃ t e, exec (.copyExecute core n) s = .next t ∧ head t = some e ∧ t.mem = v.mem ∧
          e.st = .performed (match q with
            | some k => BitVec.ofNat 64 (2 ^ 30 + k % 2 ^ 24)
            | none => 0) false) ∧
        ∀ code j q (v : State), run = (some (.fault code), j, q, v) → ∃ t e, exec (.copyExecute core n) s = .next t ∧ head t = some e ∧
          t.mem = v.mem ∧ e.st = .performed (errWord code j) true)) ∧
    (op.st = .lost → ∃ t, exec (.copyComplete core n) s = .next t ∧ t.mem = s.mem ∧ Store.get (t.core core).copyQ [] n = rest ∧
      Store.get (t.core core).counters 0 0x02 = Store.get (s.core core).counters 0 0x02 + 1) ∧
    (∀ value bad u, op.st = .performed value bad → s.engFuture ag (copyDesc (op.desc.getD [])).fut value = (.done, u) →
      let leaves (z : State) : Prop := ∃ t, exec (.copyComplete core n) s = .next t ∧ t.mem = z.mem ∧
        Store.get (t.core core).copyQ [] n = (Store.get (z.core core).copyQ [] n).drop 1 ∧
        ∀ k x, z.crew core k = some x → x.uid = op.uid → ∃ y, t.crew core k = some y ∧ y.engines = x.engines - 1
      (op.bell = false → leaves u) ∧
      (op.bell = true → ∀ x z, u.crewOf op.uid = some x →
        let rung := u.engineBell (x.acting core op.seq) (copyDesc (op.desc.getD [])).bell bad
        (rung = (.done, z) → leaves z) ∧
        ∀ w, rung = (.wait w, z) → ∃ t, exec (.copyComplete core n) s = .next t ∧ t.mem = z.mem ∧
          head t = some { op with st := .ring bad (some w) })) ∧
    (∀ (off : Nat) (err : Bool) (u : State), s.engSpot ag true off 8 .write = (.inr (.stash off), u) → ∀ x, u.crewOf ag.uid = some x →
      (∀ k, k < 8 → u.ledger.written (u.spotKey ag (.stash off) + k) = false) →
      let old := x.stashNat off 8
      let e := bits old 15 0
      let a := bits old 31 16
      ∃ v x', s.engineBell ag off err = (.done, v) ∧ v.crewOf ag.uid = some x' ∧
        let y := x'.stashNat off 8
        bits y 15 0 = e ∧ bits y 31 16 = (if e ≤ a + 1 then 0 else a + 1) ∧ (bit y 32 = (bit old 32 != decide (e ≤ a + 1))) ∧
          (bit y 33 = (bit old 33 || err || decide (e < a + 1)))) ∧
    (∀ (d : CopyDesc) (srv : List Served) (src : List Range) (draw j va pa : Nat) (leaf : BitVec 64) (u v : State) (bs : List Byte),
      let apart (a m : Nat) : Prop := ∀ k, k < m → ∀ r ∈ src, ¬ (r.1 = d.dst ∧ r.2.1 ≤ a + k ∧ a + k < r.2.1 + r.2.2)
      let gives (mode m : Nat) : Prop :=
        ∃ w, s.copyUnit ag d mode srv src draw j = (.inr none, w) ∧ ∀ k, k < m → w.byteAt (pa + k) = bs.getD k 0
      (apart (d.daddr + j) 1 → bs.length = 1 → s.engLoad ag srv d.sst (d.saddr + j) 1 = (.inr bs, u) →
        u.engSpot ag d.dst (d.daddr + j) 1 .write = (.inr (.glob va pa leaf), v) → gives 0 1) ∧
      (apart (d.daddr + j) 1 → bs = [(d.pat[j % 16]?).getD 0] →
        s.engSpot ag d.dst (d.daddr + j) 1 .write = (.inr (.glob va pa leaf), v) → gives 4 1) ∧
      ∀ (ib : List Byte) (u' : State), let m := 2 ^ d.esz
        apart (d.daddr + j * m) m → bs.length = m → s.engLoad ag srv false (d.aux + 4 * j) 4 = (.inr ib, u') →
        u'.engLoad ag srv d.sst (d.saddr + natOf ib * m) m = (.inr bs, u) →
        u.engSpot ag d.dst (d.daddr + j * m) m .write = (.inr (.glob va pa leaf), v) → gives 3 m) ∧
    ∀ (d : CopyDesc) (srv : List Served) (src : List Range) (draw j : Nat) (u v : State) (bs : List Byte) (m : Made),
      let sb := elemBits d.sfmt
      let db := elemBits d.dfmt
      let places (n : Nat) : List Nat := if sb < 8 then (List.range (n * sb / 8)).map fun k => d.saddr + j * sb / 8 + k
        else (List.range n).map fun k => d.saddr + (j + k) * (sb / 8)
      let read (n : Nat) (z : State) : Prop := z.engLoads ag srv d.sst (if sb < 8 then 1 else sb / 8) (places n) [] = (.inr bs, v)
      let element (scale k : Nat) : FVal := scaledElem d.sfmt (natOf bs / 2 ^ (sb * k) % 2 ^ sb) scale
      let n := if 5 ≤ d.sfmt ∧ d.sfmt ≤ 11 then 32 else 1
      (∀ scale, (5 ≤ d.sfmt ∧ d.sfmt ≤ 11 → ∃ sc, natOf sc = scale ∧ s.engLoad ag srv false (d.aux + j / 32) 1 = (.inr sc, u)) →
        (¬ (5 ≤ d.sfmt ∧ d.sfmt ≤ 11) → u = s ∧ scale = 127) → read n u →
        ∃ y : Made, s.copyMake ag d 1 srv j = (.inr y, v) ∧ y.first = none ∧ y.writes.length = n ∧
          ∀ k, k < n → y.writes[k]? = some (d.dst, d.daddr + (j + k) * (db / 8), db / 8,
            bytesLE (db / 8) ((codeFmt d.dfmt).round (decodeRnd d.rnd) false d.sat (element scale k)).1)) ∧
      (read 32 s →
        let x := quantise d.dfmt ((List.range 32).map (element 127))
        ∃ y : Made, s.copyMake ag d 2 srv j = (.inr y, v) ∧ y.first = x.first ∧ y.writes.length = 4 * db + 1 ∧
          (∀ k, k < 4 * db → ∃ z : Byte, y.writes[k]? = some (d.dst, d.daddr + j * db / 8 + k, 1, [z]) ∧
            ∀ i, i < 8 → z.getLsbD i = (x.elems.getD ((8 * k + i) / db) 0).testBit ((8 * k + i) % db)) ∧
          y.writes[4 * db]? = some (false, d.aux + j / 32, 1, [BitVec.ofNat 8 x.scale])) ∧
      (s.copyMake ag d 2 srv j = (.inr m, u) → ∀ ps, u.engSpots ag (m.writes.map fun w => (w.1, w.2.1, w.2.2.1)) [] = (.inr ps, v) →
        s.copyUnit ag d 2 srv src draw j =
          (.inr m.first, (ps.zip m.writes).foldl (fun z p => z.engWrite ag p.1 (blurred src draw p.2.1 p.2.2.1 p.2.2.2.2)) v)) ∧
      (s.copyMake ag d 1 srv j = (.inr m, u) → ∀ ps, u.engSpots ag (m.writes.map fun w => (w.1, w.2.1, w.2.2.1)) [] = (.inr ps, v) →
        s.copyUnit ag d 1 srv src draw j =
          (.inr m.first, (ps.zip m.writes).foldl (fun z p => z.engWrite ag p.1 (blurred src draw p.2.1 p.2.2.1 p.2.2.2.2)) v)) ∧
      ∀ (off va pa : Nat) (leaf : BitVec 64) (k : Nat), k < bs.length →
        (s.engWrite ag (.glob va pa leaf) bs).byteAt (pa + k) = bs.getD k 0 ∧
        ∀ x y : Crew, s.crewOf ag.uid = some x → (s.engWrite ag (.stash off) bs).crewOf ag.uid = some y → y.stashByte (off + k) = bs.getD k 0

/-- Where R241 starts on some layers. -/
def passesOn (layers : List Nat) : Passes := { pending := [0, 1, 2, 3], layers, order := [], used := [], passes := 0, failed := 0 }

/-- The matrix engine. A `tload` reads its rows in increasing address, piece by piece, from memory or the stash, and writes each to its place in the bin;
one that has read every row leaves its queue and clears its area's failure mark, and one stopped by a fault leaves the code and the row there. The
barrier of a `tcfg` clears tiles and bins. An `mma` whose areas loaded well computes every element on the layers in service, its slices in the order
that the passes give, and performs with its report; with no layer left the tile stays and the error is 0x1C, and a failure mark is its error. A drain
writes each element of the tile, converted or quantised, at its place, a field that shares bytes by its own bits alone, and completes; `tzero` leaves a
tile of zeros. An element of an integer result is the sum of products and of the tile, reduced to 32 bits or clamped. An element of a floating-point result is the exact sum
of the products of its rows and of the tile, rounded once; or, for BF16, FP16 and FP32, the sums of the four quarters of K, each rounded once,
added in the order of the layers and then to the tile, with a rounding at each addition. A row's values are its bin bytes' elements under
their blocks' scales; sums of finite terms are exact, a NaN or infinities of both signs give NaN, an infinity itself. A `tload` that must wait
keeps what it has read. -/
def Obligations.MatrixOperationsArePerformed : Prop :=
  ∀ (s : State) (core : Nat), s.mgmt.boot = 5 →
    let head (t : State) : Option MatOp := (t.core core).matQ.head?
    (∀ op rest cr, (s.core core).hodQ = op :: rest → s.crewOf op.uid = some cr → op.barrier = false → op.st = .queued →
      (s.core core).canBegin 5 op.seq = true → (s.core core).matClear op.uid op.seq (op.area.area op.scales) = true →
      let run := (if op.row = 0 ∧ op.got = [] then s.unpinArea op.uid op.area op.scales else s).hodRows (cr.acting core op.seq) op
        (op.area.rows - op.row) op.row op.got
      (∀ w i got (u : State), run = (some (.wait w), i, got, u) → ∃ t, exec (.hodTloadExecute core) s = .next t ∧ t.mem = u.mem ∧
        (t.core core).hodQ.head? = some { op with row := i, got, st := .waiting w }) ∧
      (∀ i got (u : State), run = (none, i, got, u) → ∃ t, exec (.hodTloadExecute core) s = .next t ∧ t.mem = u.mem ∧
        (t.core core).hodQ = (u.core core).hodQ.drop 1 ∧
        ∀ k x, u.crew core k = some x → x.uid = op.uid → ∃ y, t.crew core k = some y ∧
          Store.look y.mat.fails (failKey op.area op.scales) = none) ∧
      ∀ code i got (u : State), run = (some (.fault code), i, got, u) → ∃ t, exec (.hodTloadExecute core) s = .next t ∧ t.mem = u.mem ∧
        (t.core core).hodQ = (u.core core).hodQ.drop 1 ∧
        ∀ k x, u.crew core k = some x → x.uid = op.uid → ∃ y, t.crew core k = some y ∧
          Store.look y.mat.fails (failKey op.area op.scales) = some { code, row := i }) ∧
    (∀ (ag : Agent) (op : HodOp) (f i : Nat) (got bs : List Byte),
      let n := op.area.rowLen op.scales
      let va := op.base + i * op.stride + got.length
      let row := s.hodRow ag op (rowPieces (n + 1) va (n - got.length)) got
      (s.hodRows ag op 0 i got = (none, i, [], s)) ∧
      (∀ h (u : State), row = (some h, bs, u) → s.hodRows ag op (f + 1) i got = (some h, i, bs, u)) ∧
      (∀ u : State, row = (none, bs, u) → ∃ w : State, s.hodRows ag op (f + 1) i got = w.hodRows ag op f (i + 1) [] ∧ w.mem = u.mem ∧
        ∀ x, u.crewOf op.uid = some x → ∃ y, w.crewOf op.uid = some y ∧ ∀ k, k < bs.length →
          y.mat.byte ((if op.scales then op.area.soff else op.area.eoff) + i * n + k) = bs.getD k 0) ∧
      (s.hodRow ag op [] got = (none, got, s)) ∧
      (∀ p r h (u : State), s.hodPiece ag op p.1 p.2 = (.inl h, u) → s.hodRow ag op (p :: r) got = (some h, got, u)) ∧
      (∀ p r (u : State), s.hodPiece ag op p.1 p.2 = (.inr bs, u) → s.hodRow ag op (p :: r) got = u.hodRow ag op r (got ++ bs)) ∧
      (let ps := rowPieces (n + 1) va (n - got.length)
       (ps.flatMap fun p => (List.range p.2).map fun k => p.1 + k) = (List.range (n - got.length)).map (fun k => va + k) ∧
          ∀ p ∈ ps, 0 < p.2 ∧ p.1 / 128 = (p.1 + p.2 - 1) / 128) ∧
      (∀ (m a : Nat) (x : Spot) (u : State), op.fromSrc = 1 → s.engSpot ag true a 1 .read = (.inr x, u) →
        s.hodPiece ag op a m = u.engRead ag op.served m x) ∧
      ∀ (m a b pa : Nat) (leaf : BitVec 64) (u v : State), op.fromSrc = 0 ∨ op.fromSrc = 2 →
        s.engSpot ag false a 1 .read = (.inr (.glob b pa leaf), u) →
        u.readLine ag op.served leaf pa m (if op.fromSrc = 2 then 4 else 0) false = (.bytes bs, v) →
        (∀ th, ag.thr = some th → ∀ k, k < bs.length → v.ledger.races th pa bs.length (pa + k) = false) →
        ∃ w : State, s.hodPiece ag op a m = (.inr bs, w) ∧ w.mem = v.mem) ∧
    (∀ op cr, s.matHead core = some (op, cr) →
      (∀ h r, op.kind = .barrier → (s.core core).hodQ = h :: r → h.barrier = true → h.uid = op.uid → h.seq = op.seq →
        (s.core core).canBegin 5 h.seq = true →
        ∃ t, exec (.tcfgBarrier core) s = .next t ∧ (t.core core).hodQ = r ∧ (t.core core).matQ = (s.core core).matQ.drop 1 ∧
          ∀ k x, s.crew core k = some x → x.uid = op.uid → ∃ y, t.crew core k = some y ∧ y.mat.tiles = [] ∧ y.mat.bytes = []) ∧
      (∀ ra rb a b tile zeroc fut, op.kind = .mma ra rb a b tile zeroc fut →
        (op.st = .queued → ∀ n f, cr.mat.failure ra rb a b = some (n, f) →
          ∃ t e, exec (.mmaExecute core []) s = .next t ∧ head t = some e ∧
            e.st = .performed (errWord f.code (2 ^ 20 * n + f.row % 2 ^ 20)) true) ∧
        (op.st = .queued → cr.mat.failure ra rb a b = none → ∀ fails,
          let p := Passes.run fails 8 (passesOn (s.core core).layers)
          let r := cr.mat.result op.cfg a b tile zeroc p.order
          (p.pending ≠ [] → ∃ t e, exec (.mmaExecute core fails) s = .next t ∧ head t = some e ∧ e.st = .performed (errWord 0x1C 0) true ∧
            ∀ k x, s.crew core k = some x → x.uid = op.uid → ∃ y, t.crew core k = some y ∧ ∀ n, y.mat.tile tile n = x.mat.tile tile n) ∧
          (p.pending = [] → ∃ t e, exec (.mmaExecute core fails) s = .next t ∧ head t = some e ∧
            e.st = .performed (BitVec.ofNat 64 (reportWord p op.cfg.int r)) false ∧
            ∀ k x, s.crew core k = some x → x.uid = op.uid → ∃ y, t.crew core k = some y ∧
              ∀ n, n < r.length → n < 4096 → y.mat.tile tile n = BitVec.ofNat 32 ((r.map fun z => z.1).getD n 0))) ∧
        ∀ value bad u, op.st = .performed value bad → s.matFuture core op cr fut value bad = (true, u) →
          ∃ t, exec (.mmaComplete core) s = .next t ∧ t.mem = u.mem ∧ (t.core core).matQ = (u.core core).matQ.drop 1 ∧
            ∀ k x, u.crew core k = some x → x.uid = op.uid → ∃ y, t.crew core k = some y ∧
              (y.warp op.warp).mmas = (x.warp op.warp).mmas - 1) ∧
      (∀ value bad u, op.st = .performed value bad →
        (∀ tile fmt rnd sat stash clr base stride fut, op.kind = .tdrain tile fmt rnd sat stash clr base stride fut →
          s.matFuture core op cr fut value bad = (true, u) →
          ∃ t, exec (.tdrainExecute core) s = .next t ∧ t.mem = u.mem ∧ (t.core core).matQ = (u.core core).matQ.drop 1 ∧
            (clr = true → ∀ k x, u.crew core k = some x → x.uid = op.uid → ∃ y, t.crew core k = some y ∧
              ∀ n, n < 4096 → y.mat.tile tile n = 0)) ∧
        ∀ tile fmt stash base stride fut, op.kind = .tquant tile fmt stash base stride fut →
          s.matFuture core op cr fut value bad = (true, u) →
          ∃ t, exec (.tquantExecute core) s = .next t ∧ t.mem = u.mem ∧ (t.core core).matQ = (u.core core).matQ.drop 1) ∧
      (∀ tile fmt rnd sat stash base stride, op.kind = .tdrain tile fmt rnd sat stash false base stride 0 → op.st = .queued →
        let ps := (cr.mat.drainPieces op.cfg tile fmt rnd sat base stride).drop op.done
        (∀ w p n (v : State), s.putPieces (cr.acting core op.seq) stash ps op.done = (some (.wait w, p), n, v) →
          ∃ t e, exec (.tdrainExecute core) s = .next t ∧ t.mem = v.mem ∧ head t = some e ∧ e.st = .waiting w ∧ e.done = n) ∧
        ∀ n (v : State) cr', s.putPieces (cr.acting core op.seq) stash ps op.done = (none, n, v) →
          let o : MatOp := { op with done := n, st := .performed 0 false }
          (v.setMatOp core o).matHead core = some ({ o with begun := true }, cr') →
          ∃ t, exec (.tdrainExecute core) s = .next t ∧ t.mem = v.mem ∧ (t.core core).matQ = (v.core core).matQ.drop 1) ∧
      (∀ tile fmt stash base stride, op.kind = .tquant tile fmt stash base stride 0 → op.st = .queued →
        let bs := cr.mat.quantBlocks op.cfg tile fmt
        ∀ n (v : State) cr', s.putPieces (cr.acting core op.seq) stash ((quantPieces op.cfg bs fmt base stride).drop op.done) op.done = (none, n, v) →
          let first := (bs.zip (List.range bs.length)).find? fun b => b.1.first.isSome
          let value : Nat := match first with
            | some b => 2 ^ 30 + (32 * b.2 + b.1.first.getD 0)
            | none => 0
          let o : MatOp := { op with done := n, st := .performed (BitVec.ofNat 64 value) false }
          (v.setMatOp core o).matHead core = some ({ o with begun := true }, cr') →
          ∃ t, exec (.tquantExecute core) s = .next t ∧ t.mem = v.mem ∧ (t.core core).matQ = (v.core core).matQ.drop 1) ∧
      ∀ tile, op.kind = .tzero tile → ∃ t, exec (.tzeroExecute core) s = .next t ∧ t.mem = s.mem ∧
        (t.core core).matQ = (s.core core).matQ.drop 1 ∧
        ∀ k x, s.crew core k = some x → x.uid = op.uid → ∃ y, t.crew core k = some y ∧ ∀ n, n < 4096 → y.mat.tile tile n = 0) ∧
    (∀ (ag : Agent) (stash : Bool) (p : Piece) (va pa : Nat) (leaf : BitVec 64) (qs : List Spot) (os : List Byte) (u : State),
      (p.off = 0 → p.width ∈ [8, 16, 32] → s.engSpot ag false p.at8 (p.width / 8) .write = (.inr (.glob va pa leaf), u) →
        ∃ v : State, s.putPiece ag false p = (none, v) ∧
          ∀ k, k < p.width / 8 → (v.byteAt (pa + k)).toNat = p.value / 256 ^ k % 256) ∧
      let n := (p.off + p.width + 7) / 8
      (¬ (p.off = 0 ∧ p.width % 8 = 0) → s.engSpots ag ((List.range n).map fun k => (stash, p.at8 + k, 1)) [] = (.inr qs, u) →
        (qs.map fun x => u.spotBytes ag 1 x) = os.map (fun b => [b]) →
        ∃ bs : List Byte, bs.length = n ∧ s.putPiece ag stash p = (none, (qs.zip bs).foldl (fun v x => v.engWrite ag x.1 [x.2]) u) ∧
          ∀ b, b < 8 * n → (bs.getD (b / 8) 0).getLsbD (b % 8) =
            if p.off ≤ b ∧ b < p.off + p.width then p.value.testBit (b - p.off) else (os.getD (b / 8) 0).getLsbD (b % 8))) ∧
    (∀ (m : MatState) (cfg : MatCfg) (tile fmt : Nat) (rnd : Rnd) (sat : Bool) (base stride i j : Nat), i < cfg.m → j < cfg.n →
      let n := i * cfg.n + j
      let word := (m.tile tile n).toNat
      (m.drainPieces cfg tile fmt rnd sat base stride)[n]? = some
        { index := n, at8 := base + i * stride + j * (elemBits fmt / 8), off := 0, width := elemBits fmt
          value := if fmt = 0 then word else ((codeFmt fmt).round rnd false sat (fmtF32.decode word)).1 } ∧
      (cfg.n % 32 = 0 →
        let blocks := m.quantBlocks cfg tile fmt
        let x := quantise fmt ((List.range 32).map fun k => fmtF32.decode (m.tile tile (n / 32 * 32 + k)).toNat)
        let ps := quantPieces cfg blocks fmt base stride
        blocks[n / 32]? = some x ∧ blocks.length = cfg.m * cfg.n / 32 ∧ ps.length = cfg.m * cfg.n + blocks.length ∧
        ps[n]? = some { index := n, at8 := base + i * stride + j * elemBits fmt / 8, off := j * elemBits fmt % 8, width := elemBits fmt
                        value := x.elems.getD (n % 32) 0 } ∧
        ps[cfg.m * cfg.n + n / 32]? = some { index := cfg.m * cfg.n + n / 32, at8 := base + cfg.m * stride + n / 32, off := 0, width := 8
                                             value := x.scale })) ∧
    (∀ (fails : List (Nat × Nat)) (ls : List Nat), ls.Nodup → (∀ l ∈ ls, l < 4) →
      let p := Passes.run fails 8 (passesOn ls)
      (p.pending = [] ∨ p.layers = []) ∧ p.passes ≤ 4 ∧ p.used.Nodup ∧ (p.pending = [] → p.order.Perm [0, 1, 2, 3]) ∧
      (∀ l, l ∈ p.used → l ∈ ls) ∧ (fails = [] → ls ≠ [] →
        p.pending = [] ∧ p.order = ([3, 2, 1, 0].filter fun l => decide (l ∈ ls)) ++ ([3, 2, 1, 0].filter fun l => decide (l ∉ ls)) ∧
        (∀ l, l ∈ p.used ↔ l ∈ ls) ∧ p.passes = 5 - ls.length ∧ p.failed = 0 ∧ p.layers = ls)) ∧
    (∀ (fails : List (Nat × Nat)) (f : Nat) (p : Passes), p.pending ≠ [] → p.layers ≠ [] → (∀ l ∈ p.layers, l < 4) →
      let work := if p.passes = 0 then ([3, 2, 1, 0].filter fun l => decide (l ∈ p.pending ∧ l ∈ p.layers)).map fun l => (l, l)
        else [(p.pending.foldl max 0, p.layers.foldl min 4)]
      Passes.run fails (f + 1) p =
        let z := work.foldl (fun (x : Passes) w =>
          if (p.passes, w.2) ∈ fails then { x with layers := x.layers.filter fun y => decide (y ≠ w.2), failed := x.failed + 1 }
          else { x with order := x.order ++ [w.1], pending := x.pending.filter fun y => decide (y ≠ w.1)
                        used := w.2 :: x.used.filter fun y => decide (y ≠ w.2) }) p
        Passes.run fails f { z with passes := p.passes + 1 }) ∧
    (∀ (p : Passes) (int : Bool) (r : List (Nat × Bool)), p.order.Perm [0, 1, 2, 3] → p.used.Nodup → (∀ l ∈ p.used, l < 4) →
      1 ≤ p.passes → p.passes ≤ 4 →
      let v := reportWord p int r
      (∀ l, l < 4 → bit v l = decide (l ∈ p.used)) ∧ bits v 5 4 = p.passes - 1 ∧ (∀ k, k < 4 → bits v (7 + 2 * k) (6 + 2 * k) = p.order.getD k 0) ∧
      bit v 14 = decide (p.order ≠ [3, 2, 1, 0]) ∧ bit v 15 = decide (p.failed ≠ 0) ∧
      (bit v 16 = true ↔ int = false ∧ ∃ e ∈ r, fmtF32.decode e.1 = .nan) ∧
      (bit v 17 = true ↔ int = false ∧ ∃ e ∈ r, ∃ sign, fmtF32.decode e.1 = .inf sign) ∧
      (bit v 18 = true ↔ ∃ e ∈ r, e.2 = true) ∧ v < 2 ^ 19) ∧
    (∀ (sati : Bool) (z : Option Word) (a b : List Int),
      let x : Int := (List.zipWith (fun p q => p * q) a b).sum + ((z.map fun w => w.toInt).getD 0)
      let r := intElem sati (z.map fun w => w.toNat) a b
      (r.1 : Int) = (if sati then max (-2 ^ 31) (min x (2 ^ 31 - 1)) else x) % 2 ^ 32 ∧ (r.2 = true ↔ x < -2 ^ 31 ∨ 2 ^ 31 - 1 < x)) ∧
    (∀ (m : MatState) (cfg : MatCfg) (a b : BinRec) (tile : Nat) (zeroc : Bool) (order : List Nat) (n : Nat), n < cfg.m * cfg.n →
      let c := if zeroc then none else some (m.tile tile n).toNat
      let ps := List.zipWith (fun p q => (mulVals p q).1) (m.row a (n / cfg.n)) (m.row b (n % cfg.n))
      let quarter (l : Nat) : List FVal := (ps.drop (l * (cfg.k / 4))).take (cfg.k / 4)
      let result := (m.result cfg a b tile zeroc order)[n]?
      (pairArith a.fmt b.fmt = some .integer →
        result = some (intElem cfg.sati c (m.introw a (n / cfg.n)) (m.introw b (n % cfg.n)))) ∧
      (pairArith a.fmt b.fmt = some .layered → ∀ p q r t, order = [p, q, r, t] →
        let x := addF32 (addF32 (addF32 (sumF32 (quarter p)) (sumF32 (quarter q))) (sumF32 (quarter r))) (sumF32 (quarter t))
        result = some (match c with
          | some z => addF32 x z
          | none => x, false)) ∧
      (pairArith a.fmt b.fmt = some .exact → result = some (sumF32 (ps ++ c.toList.map fmtF32.decode), false))) ∧
    (∀ (m : MatState) (r : BinRec) (i k : Nat), k < r.k →
      let x := natOf (m.bytesFrom (r.eoff + i * r.rowBytes) r.rowBytes)
      (m.row r i)[k]? = some (scaledElem r.fmt (x / 2 ^ (elemBits r.fmt * k) % 2 ^ elemBits r.fmt)
        (if hasScale r.fmt then ((m.bytesFrom (r.soff + i * (r.k / 32)) (r.k / 32))[k / 32]?).getD 127 else 127).toNat)) ∧
    ∀ vs : List FVal,
      let v := (sumVals .ne vs).1
      sumF32 vs = (fmtF32.round .ne false false v).1 ∧ (∀ x y, addF32 x y = sumF32 [fmtF32.decode x, fmtF32.decode y]) ∧
      ((∀ z ∈ vs, isFin z = true) → isFin v = true ∧ rat v = (vs.map rat).sum ∧
        (rat v = 0 → (signOf v = true ↔ ∀ z ∈ vs, rat z = 0 ∧ signOf z = true))) ∧
      (.nan ∈ vs ∨ (.inf true ∈ vs ∧ .inf false ∈ vs) → v = .nan) ∧
      ∀ s, .nan ∉ vs → .inf (!s) ∉ vs → .inf s ∈ vs → v = .inf s

/-- The raster units. A batch whose descriptor is read ends with error 0x01 where that is illegal, and otherwise after its last primitive with the
number discarded, or with the code and the primitive at a fault. A primitive is discarded where an index is beyond the vertices, a coordinate is no
number or beyond 2^22, or its orientation is culled; a pixel is covered where each weight is positive, or zero on an edge that owns its zeros; its depth
is the weighted one rounded once. A visibility word becomes the lesser of itself and depth with primitive, where no access races with it. The keys of a
primitive's tiles are opened before its first pixel crew, one after another; that its crews are launched only once every one is open, none where one is
broken by then, which ends the batch with error 0x0F, and that a launch waits at 64 tickets of its key, is the model's choice (DEDUCED,
notes/assumptions/35.md). A pixel crew has a lane for each pixel of the tile that is drawn, and its registers name tile, pixels, depths and primitive; a
performed batch leaves once its future is resolved. -/
def Obligations.RasterBatchesAreDrawn : Prop :=
  ∀ (s : State) (unit : Nat) (b : Batch) (rest : List Batch) (ag : Agent),
    let head (t : State) : Option Batch := (t.unit unit).batches.head?
    s.mgmt.boot = 5 → (s.unit unit).batches = b :: rest → s.batchAgent unit b = some ag →
    (b.st = .queued → b.desc = none → ∀ l (u : State),
      ({ s with ledger := s.ledger.acquire (.unit unit) b.clk } : State).engLoad ag b.served false b.addr 128 = (.inr l, u) →
      let d := rastDesc l
      let run := u.rastRun ag b.served d d.nprim b.prim b.drop
      (d.ok b.ord = false → ∃ t e, exec (.rasterBatch unit) s = .next t ∧ head t = some e ∧ e.st = .performed (errWord 0x01 0) true) ∧
      (d.ok b.ord = true → b.ord = false →
        (∀ p n (v : State), run = (none, p, n, v) → ∃ t e, exec (.rasterBatch unit) s = .next t ∧ t.mem = v.mem ∧ head t = some e ∧
          e.st = .performed (BitVec.ofNat 64 n) false) ∧
        ∀ code p n (v : State), run = (some (.fault code), p, n, v) → ∃ t e, exec (.rasterBatch unit) s = .next t ∧ t.mem = v.mem ∧
          head t = some e ∧ e.st = .performed (errWord code p) true)) ∧
    (∀ l work w e u, b.st = .queued → b.ord = true → b.desc = some l → b.work = some work → b.going = false →
      work.find? (fun x => (b.tile x.tx x.ty).isNone) = some w →
      let d := rastDesc l
      s.rackFind b.part b.job (tileKey d w.tx w.ty) = none →
      s.openKey b.part b.job (tileKey d w.tx w.ty) (d.id b.prim) d.stop true = (some e, u) →
      ∃ t b', exec (.tileKeyOpen unit) s = .next t ∧ t.mem = u.mem ∧ head t = some b' ∧
        b'.tiles = b.tiles ++ [{ tx := w.tx, ty := w.ty, slice := keyHome (tileKey d w.tx w.ty), entry := e, next := d.id b.prim
                                 life := (s.slice (keyHome (tileKey d w.tx w.ty))).opened }]) ∧
    (∀ d w r, b.work = some (w :: r) → b.going = false →
      (s.tileBroken b d (w :: r) = true → s.ordMove unit ag b d = (some (b.fails d 0x0F), s)) ∧
      (s.tileBroken b d (w :: r) = false → s.ordMove unit ag b d =
        (if s.tilesOpen b d (w :: r) = true then some { b with going := true } else none, s))) ∧
    (∀ d w r t x, b.work = some (w :: r) → b.going = true → b.tile w.tx w.ty = some t → s.tileEnt b d t = some x →
      t.next = d.id b.prim ∨ x.broken = true → (s.unit unit).launches < 256 → s.ticketsOf b.part b.job x.key < 64 →
      ∃ b', s.ordMove unit ag b d = (some b', s.launchPixel unit b d w) ∧ b'.work = some r ∧ b'.live = b.live + 1 ∧
        b'.prim = b.prim) ∧
    (∀ value bad u, b.st = .performed value bad → s.engFuture ag (rastDesc (b.desc.getD [])).fut value = (.done, u) →
      ∃ t, exec (.rasterBatchComplete unit) s = .next t ∧ t.mem = u.mem ∧ (t.unit unit).batches = (u.unit unit).batches.drop 1) ∧
    (∀ (x va pa : Nat) (leaf : BitVec 64), x < 2 ^ 64 →
      let u := s.writeReq ag leaf va pa 0
      (∀ k, k < 8 → u.hostStale (pa + k) = false ∧ ∀ th, ag.thr = some th → u.ledger.races th pa 8 (pa + k) = false) →
      (s.visWrite ag (x, .glob va pa leaf)).natAt pa 8 = min (u.natAt pa 8) x) ∧
    (∀ (x : Job) (uid : Nat) (d : RastDesc) (w : TileWork),
      let cr := pixelCrew x uid unit b d w
      let key := tileKey d w.tx w.ty
      let sreg (k : Nat) : Nat := (Store.get cr.s0 0 k).toNat
      cr.kind = .pixel ∧ cr.shape.width = 64 ∧ cr.shape.warps = 1 ∧ cr.shape.vregs = d.pvregs ∧ cr.shape.sregs = d.psregs ∧
      cr.shape.stash = d.pstash ∧ cr.shape.entry = BitVec.ofNat 64 d.pentry ∧ cr.cls = x.desc.prio ∧
      cr.tickets = [{ key, seq := d.id b.prim, slice := keyHome key }] ∧ key = 2 ^ 48 * d.rt + 2 ^ 16 * w.ty + w.tx ∧
      cr.lanes0 = some (w.px.map fun p => p.1) ∧ sreg 0 = d.pparam % 2 ^ 32 ∧ sreg 1 = d.pparam / 2 ^ 32 % 2 ^ 32 ∧
      sreg 2 = d.id b.prim ∧ sreg 3 = d.id b.prim ∧ sreg 4 = key % 2 ^ 32 ∧ sreg 5 = key / 2 ^ 32 % 2 ^ 32 ∧
      sreg 6 = (2 ^ 16 * w.ty + w.tx) % 2 ^ 32 ∧
      ((w.px.map fun p => p.1).Nodup → (∀ p ∈ w.px, p.1 < 64) → ∀ p ∈ w.px, Store.get cr.v0 0 (laneKey 2 p.1) = p.2) ∧
      ∀ l, l < 64 → Store.get cr.v0 0 (laneKey 0 l) = BitVec.ofNat 32 (8 * w.tx + l % 8) ∧
        Store.get cr.v0 0 (laneKey 1 l) = BitVec.ofNat 32 (8 * w.ty + l / 8)) ∧
    (∀ (srv : List Served) (d : RastDesc) (f p drop : Nat) (x : Prim) (h : Halt) (u v : State),
      (d.nprim ≤ p → s.rastRun ag srv d (f + 1) p drop = (none, p, drop, s)) ∧
      (p < d.nprim → s.setupPrim ag srv d p = (.inr none, u) → s.rastRun ag srv d (f + 1) p drop = u.rastRun ag srv d f (p + 1) (drop + 1)) ∧
      (p < d.nprim → s.setupPrim ag srv d p = (.inl h, u) → s.rastRun ag srv d (f + 1) p drop = (some h, p, drop, u)) ∧
      (p < d.nprim → s.setupPrim ag srv d p = (.inr (some x), u) →
        (u.drawPrim ag d p x = (none, v) → s.rastRun ag srv d (f + 1) p drop = v.rastRun ag srv d f (p + 1) drop) ∧
        (u.drawPrim ag d p x = (some h, v) → s.rastRun ag srv d (f + 1) p drop = (some h, p, drop, v))) ∧
      let words := (x.covered d.pxw d.pxh).filterMap fun c =>
        c.2.2.map fun z => (d.vbuf + c.2.1 * d.vpitch + 8 * c.1, 2 ^ 32 * z.toNat + (d.pbase + p) % 2 ^ 32)
      (s.visSpots ag words [] = (.inl h, u) → s.drawPrim ag d p x = (some h, u)) ∧
      ∀ ps, s.visSpots ag words [] = (.inr ps, u) → s.drawPrim ag d p x = (none, ps.foldl (fun z y => z.visWrite ag y) u)) ∧
    (∀ (srv : List Served) (d : RastDesc) (p i j k : Nat) (u : State),
      s.rastWords ag srv [d.iaddr + 12 * p, d.iaddr + 12 * p + 4, d.iaddr + 12 * p + 8] [] = (.inr [i, j, k], u) →
      ((d.nvert ≤ i ∨ d.nvert ≤ j ∨ d.nvert ≤ k) → s.setupPrim ag srv d p = (.inr none, u)) ∧
      ∀ (ws : List Nat) (v : State), i < d.nvert → j < d.nvert → k < d.nvert →
        u.rastWords ag srv ([i, j, k].flatMap fun n => [d.vaddr + 12 * n, d.vaddr + 12 * n + 4, d.vaddr + 12 * n + 8]) [] = (.inr ws, v) →
        let vert (n : Nat) : Option Vert := vertOf (ws.getD (3 * n) 0) (ws.getD (3 * n + 1) 0) (ws.getD (3 * n + 2) 0)
        (∀ n, n < 3 → vert n = none → s.setupPrim ag srv d p = (.inr none, v)) ∧
        ∀ a e c, vert 0 = some a → vert 1 = some e → vert 2 = some c → s.setupPrim ag srv d p = (.inr (orient d.rctl a e c), v)) ∧
    (∀ (srv : List Served) (a : Nat) (r acc : List Nat) (h : Halt) (bs : List Byte) (u : State),
      s.rastWords ag srv [] acc = (.inr acc, s) ∧
      (s.engLoad ag srv false a 4 = (.inl h, u) → s.rastWords ag srv (a :: r) acc = (.inl h, u)) ∧
      (s.engLoad ag srv false a 4 = (.inr bs, u) → s.rastWords ag srv (a :: r) acc = u.rastWords ag srv r (acc ++ [natOf bs]))) ∧
    (∀ (x y z : Nat), x < 2 ^ 32 → y < 2 ^ 32 → z < 2 ^ 32 →
      let number (w : Nat) : Prop := isFin (fmtF32.decode w) = true
      let grid (w : Nat) (n : Int) : Prop := IsRounded .ne (256 * rat (fmtF32.decode w)) n
      (∀ v, vertOf x y z = some v ↔ number x ∧ number y ∧ number z ∧ grid x v.x ∧ grid y v.y ∧ |v.x| ≤ 2 ^ 22 ∧ |v.y| ≤ 2 ^ 22 ∧
        v.z = fmtF32.decode z)) ∧
    (∀ (cull : Nat) (a e c : Vert),
      let side (p q : Vert) (px py : Int) : Int := (q.x - p.x) * (py - p.y) - (q.y - p.y) * (px - p.x)
      let area := side a e c.x c.y
      (orient cull a e c = none ↔ area = 0 ∨ (0 < area ∧ cull = 2) ∨ (area < 0 ∧ cull = 1)) ∧
      ∀ p, orient cull a e c = some p → p.a = a ∧ p.b = e ∧ p.c = c ∧ p.s = area.sign ∧ p.area = |area| ∧
        ∀ (pxw pxh x y : Nat) (z : Option Word),
          let px : Int := 256 * x + 128
          let py : Int := 256 * y + 128
          let owns (i j : Vert) : Prop := p.s * (j.y - i.y) < 0 ∨ (p.s * (j.y - i.y) = 0 ∧ 0 < p.s * (j.x - i.x))
          let inside (i j : Vert) : Prop := 0 < p.s * side i j px py ∨ (p.s * side i j px py = 0 ∧ owns i j)
          let w := (p.s * side e c px py, p.s * side c a px py, p.s * side a e px py)
          (x, y, z) ∈ p.covered pxw pxh ↔ x < pxw ∧ y < pxh ∧ inside e c ∧ inside c a ∧ inside a e ∧ z = p.depth w) ∧
    (∀ (p : Prim) (w : Int × Int × Int), 0 < p.area →
      ∃ v, Stands v (((w.1 * rat p.a.z + w.2.1 * rat p.b.z + w.2.2 * rat p.c.z) / p.area : ℚ) : ℝ) ∧
        let z := (fmtF32.round .ne false false v).1
        p.depth w = if z % 2 ^ 31 = 0 then some 0 else if 0x3F800000 < z then none else some (BitVec.ofNat 32 z)) ∧
    (∀ (x : Prim) (d : RastDesc),
      let l := x.tiles d
      let cs := x.covered d.pxw d.pxh
      (l.map fun w => (w.tx, w.ty)).Nodup ∧
      (∀ tx ty, (∃ w ∈ l, w.tx = tx ∧ w.ty = ty) ↔ ∃ c ∈ cs, c.1 / 8 = tx ∧ c.2.1 / 8 = ty) ∧
      ∀ w ∈ l, ∀ n z, (n, z) ∈ w.px ↔ n < 64 ∧ (8 * w.tx + n % 8, 8 * w.ty + n / 8, some z) ∈ cs) ∧
    ∀ (o : Int) (p q : Vert), o = 1 ∨ o = -1 → (p.x ≠ q.x ∨ p.y ≠ q.y) → ownsEdge o p q = !ownsEdge o q p


/-! ### Crews, jobs and commands -/

namespace Sys2Proof.Claims

open Sys2Proof.Machine

/-- The warps of a crew stand at its entry: every lane in one split that runs, the registers the crew's initial ones (03 R34). -/
def AtEntry (cr : Crew) : Prop :=
  ∀ i, i < cr.shape.warps → (cr.warp i).v = cr.v0 ∧ (cr.warp i).s = cr.s0 ∧
    (cr.lanes0 = none → 0 < cr.shape.width →
      (cr.warp i).splits = [{ lanes := List.range cr.shape.width, pc := cr.shape.entry, st := .run }])

/-- A warp holds the registers of another. -/
def SameRegs (w w' : Warp) : Prop :=
  w'.v = w.v ∧ w'.s = w.s ∧ w'.m = w.m ∧ w'.x = w.x ∧ w'.fpf = w.fpf ∧ w'.mmrep = w.mmrep ∧ w'.fault = w.fault

/-- Zhevvo's next command of a partition's queue is `c`, with opcode `opc`, no reserved bit set, no `AFTER` to wait for and no
record of the partition waiting; `t` is the state in which it has been read (19 R257, R258, R260). -/
def Given (s : State) (p opc : Nat) (c : Cmd) (t : State) : Prop :=
  s.mgmt.boot = 5 ∧ s.takeCmd p = some (c, t) ∧ (t.part p).records = [] ∧ c.opc = opc ∧
    (∃ l, payload opc = some l ∧ c.clean l = true) ∧
    (bit (c.field 1 1) 0 = true → (t.part p).jobs = [] ∨ c.begun = true)

/-- `n` bytes that memory holds from a physical address up, and their number. -/
def heldBytes (s : State) (a n : Nat) : List Byte := (List.range n).map fun k => s.byteAt (a + k)
def heldNat (s : State) (a n : Nat) : Nat := natOf (heldBytes s a n)

/-- The step of command `c` ends in `u` with its completion record (19 R259, 23 R320). -/
def Answers (i : Instr) (s : State) (p : Nat) (c : Cmd) (code info2 info3 : Nat) (u : State) : Prop :=
  exec i s = .next (u.cmdDone p c code info2 info3)

end Sys2Proof.Claims

/-- Dispatch and saves. The first candidate of a core gets a slot where it fits: a crew of a job or a device-created one starts at its entry, and a
saved one has its registers back. Where it fits only without a crew of a higher class, that crew is to be saved. A crew parked for 4,096 clocks of
its core is saved too for an undispatched one of its class or of a lower number; a crew is parked where every split of every warp waits for a bell,
a word, a queue or the copy queue, or for a held split, which is the reading of log 34. A crew that may go is saved with its registers, once no
warp is in its handler or its handlers have reached the limit; its save area is taken at the decision where the pool has its bytes (log 16). A crew
whose warps have retired leaves its slot and gives back the pool bytes that its areas still take. A core that moves changes its partition when it
is empty, and saves its crews before, once it holds no fill task and no crew of a `COR` job. -/
def Obligations.CrewsAreDispatchedSavedAndRetired : Prop :=
  ∀ (s : State) (core : Nat), s.mgmt.boot = 5 →
    (∀ p x n slot qs, let u := s.discardDoomed core
      let c := u.live core
      c.part = some p → c.firstCand = some x → c.moving = none → u.corPending p = false →
      u.candNeed p x = some n → c.fits n = some (slot, qs) → u.poolHas p n.pool = true →
      ∃ t cr', exec (.crewDispatch core) s = .next t ∧ t.crew core slot = some cr' ∧
        (∀ cr, x = .created cr → cr'.uid = cr.uid ∧ cr'.kind = cr.kind ∧ AtEntry cr') ∧
        (∀ cr, x = .saved cr → cr'.uid = cr.uid ∧ cr'.stash = cr.stash ∧ ∀ i, SameRegs (cr.warp i) (cr'.warp i)) ∧
        ∀ b j, x = .bind b → u.job? p b.job = some j → cr'.kind = .ordinary ∧ cr'.report = BitVec.ofNat 64 b.next ∧
          cr'.cx = BitVec.ofNat 32 (b.next % j.desc.dimx) ∧ cr'.cy = BitVec.ofNat 32 (b.next / j.desc.dimx % j.desc.dimy) ∧
          cr'.cz = BitVec.ofNat 32 (b.next / j.desc.dimx / j.desc.dimy) ∧ AtEntry cr') ∧
    (∀ p x n, let u := s.discardDoomed core
      let c := u.live core
      let may (e : Nat × Crew) : Prop := e ∈ c.crews ∧ u.mayGo e.1 e.2 = true ∧ x.cls < e.2.cls
      c.part = some p → c.firstCand = some x → c.moving = none → u.corPending p = false →
      u.candNeed p x = some n → c.fits n = none → c.withoutSaving.fits n = none → (∃ e, may e) →
      ∃ t e cr', may e ∧ (∀ f, may f → f.2.cls ≤ e.2.cls) ∧ exec (.crewDispatch core) s = .next t ∧ t.mem = u.mem ∧
        t.crew core e.1 = some cr' ∧ cr'.saving = true) ∧
    (∀ p x n, let c := s.live core
      let may (e : Nat × Crew) : Prop := e ∈ c.crews ∧ s.mayGo e.1 e.2 = true ∧ c.longParked e.2 = true ∧ c.waitsFor e.2.cls = true
      c.part = some p → c.firstCand = some x → s.candNeed p x = some n →
      c.withoutSaving.fits n = none → (∃ e, may e) →
      ∃ t e cr', may e ∧ (∀ f, may f → f.2.cls ≤ e.2.cls) ∧ exec (.parkedEviction core) s = .next t ∧ t.mem = s.mem ∧
        t.crew core e.1 = some cr' ∧ cr'.saving = true) ∧
    (∀ cr : Crew, (s.core core).longParked cr = true ↔
      ∃ k, cr.parked = some k ∧ cr.isParked = true ∧ k + 4096 ≤ (s.core core).clk) ∧
    (∀ cr : Crew, let g := s.giveArea cr.part cr.uid 1001
      (g.poolHas cr.part cr.saveBytes = false → s.takeSave cr = none) ∧
      (g.poolHas cr.part cr.saveBytes = true → ∃ v, s.takeSave cr = some v ∧ v.mem = s.mem ∧
        (v.part cr.part).poolUsed = (g.part cr.part).poolUsed + cr.saveBytes)) ∧
    (∀ slot cr cr' u v, s.crew core slot = some cr → cr.saving = true → (s.core core).busyWith cr = false →
      (cr.warps.all fun w => w.2.retired) = false → s.lastWriteBack core cr = (true, u) → u.crew core slot = some cr' →
      u.takeSave cr' = some v →
      let saves (i : Instr) : Prop := ∃ t x, exec i s = .next t ∧ t.crew core slot = none ∧
        (∃ l, (t.core core).saved = l ++ [x] ∧ l.length = (u.core core).saved.length) ∧
        x.uid = cr'.uid ∧ x.stash = cr'.stash ∧ x.saving = false ∧ ∀ i, SameRegs (cr'.warp i) (x.warp i)
      (cr.inHandler = false → saves (.crewSave core slot)) ∧
      (cr.inHandler = true → cr.handlersDone = true → saves (.saveDeferLimit core slot))) ∧
    (∀ slot cr u, s.crew core slot = some cr → (cr.warps.all fun w => w.2.retired) = true → cr.engines = 0 → s.ticketsReady cr = true →
      cr.fill = none → s.lastWriteBack core cr = (true, u) →
      let mine (a : Area) : Bool := decide (a.uid = cr.uid)
      ∃ t, exec (.crewRetire core slot) s = .next t ∧ t.crew core slot = none ∧
        (t.part cr.part).areas = (u.part cr.part).areas.filter (fun a => !mine a) ∧
        (t.part cr.part).poolUsed = (u.part cr.part).poolUsed -
          (((u.part cr.part).areas.filter mine).map fun a => pieceBytes a.pieces).sum) ∧
    ∀ tgt, (s.core core).moving = some tgt →
      ((s.core core).crews = [] → ∃ t, exec (.coreMove core) s = .next t ∧ t.mem = s.mem ∧ (t.core core).moving = none ∧
        (t.core core).part = if tgt < 8 then some tgt else none) ∧
      (let stays (e : Nat × Crew) : Prop := 28 ≤ e.1 ∨ e.2.shape.cor = true
       ((∃ e ∈ (s.core core).crews, stays e) → exec (.coreMove core) s = .next s) ∧
       ((s.core core).crews ≠ [] → (∀ e ∈ (s.core core).crews, ¬ stays e) → ∃ t, exec (.coreMove core) s = .next t ∧ t.mem = s.mem ∧
        ∀ k cr, s.crew core k = some cr → ∃ cr', t.crew core k = some cr' ∧ cr'.saving = true))

/-- Jobs. A launch that has a handle and room, while no completion record of its partition waits, becomes a job, whose crews the cores of its
partition share by linear index, a bind record on each; the instruction caches of those cores are emptied. A `COR` job starts whole. A job with no
crew, continuation or queue step left, once the crews of terminated jobs that leave with the partition are discarded, ends with one record: of its
termination, its first fault, or well. The record of a terminated job carries the termination's code also where the job's first fault is a job fault,
which is the model's reading (DEDUCED, notes/assumptions/44.md). A record goes into the ring, whose tail moves past it, and its future is resolved after it
unless it was resolved before; where the partition has no queue the record is dropped, and the future is resolved even so (the model's choice,
notes/assumptions/41.md). The host has then seen the completion (notes/assumptions/40.md). -/
def Obligations.JobsBindEndAndReport : Prop :=
  ∀ (s : State) (p : Nat), s.mgmt.boot = 5 →
    (∀ l j, (s.part p).pending = some l → s.freeHandle p = some j → (s.part p).records = [] →
      let lseq := (s.part p).launches
      let n := (s.bindCores p).length
      let sh := s.shares p lseq l.desc
      n ≠ 0 → (∀ e ∈ sh, (s.core e.1).binds.length < 16) →
      (l.desc.shape.cor = false → ∃ t x, exec (.jobBind p) s = .next t ∧ t.mem = s.mem ∧ (t.part p).pending = none ∧
        (t.part p).launches = lseq + 1 ∧ t.job? p j = some x ∧ x.desc = l.desc ∧ x.crews = l.desc.dimx * l.desc.dimy * l.desc.dimz ∧
        x.cseq = l.cseq ∧ x.asn = l.asn ∧ x.root = l.root ∧ x.lseq = lseq ∧ x.fault = none ∧ x.term = none ∧
        (∀ e ∈ sh, ∃ b ∈ (t.core e.1).binds, b.job = j ∧ b.cls = l.desc.prio ∧ b.cor = false ∧ b.stride = n ∧ b.lseq = lseq ∧
          b.next = e.2.1 ∧ b.last = e.2.2) ∧
        ∀ k, (s.core k).part = some p → (t.core k).icache = []) ∧
      (l.desc.shape.cor = true →
        (∀ t, (s.accept p j l).startAll p j n (l.job lseq s.ledger.count) sh = some t → exec (.jobBind p) s = .next t) ∧
        ((s.accept p j l).startAll p j n (l.job lseq s.ledger.count) sh = none →
          ∃ t, exec (.jobBind p) s = .next t ∧ t.mem = s.mem ∧ (t.part p).pending = some l ∧ (t.part p).jobs = (s.part p).jobs)) ∧
      ∀ k, k < l.desc.crews → ∃ e ∈ sh, e.1 = (s.bindCores p).getD ((k + lseq) % n) 0 ∧ e.2.1 ≤ k ∧ k ≤ e.2.2 ∧ (k - e.2.1) % n = 0) ∧
    (∀ j x flags done u, let v := s.discardHeld p
      v.job? p j = some x → v.jobBusy p j x = false → v.doneLook p x = (some (flags, done), u) →
      ∃ t r, exec (.jobEnd p j) s = .next t ∧ t.mem = u.mem ∧ t.job? p j = none ∧
        ((u.part p).queue ≠ none ∨ done ≠ none → (t.part p).records = (u.part p).records ++ [r]) ∧
        ((u.part p).queue = none → done = none → (t.part p).records = (u.part p).records) ∧
        r.cseq = x.cseq ∧ r.tag = x.desc.tag ∧ r.done = done ∧ r.info3 = BitVec.ofNat 32 (min x.bad 0xFFFFFFFF) ∧
        (x.term = none → x.fault = none → r.kind = 0 ∧ r.code = 0 ∧ r.flags = flags ∧ r.info1 = 0 ∧ r.info2 = 0) ∧
        (∀ f, x.fault = some f → r.flags = flags + 4 ∧ r.info1 = f.info1 ∧ r.info2 = f.info2 ∧
          (x.term = none → r.kind = 0 ∧ r.code = f.code)) ∧
        ∀ code, x.term = some code → r.kind = 2 ∧ r.code = code) ∧
    (∀ x : Job, x.desc.done = 0 → s.doneLook p x = (some (0, none), s)) ∧
    (∀ x flags pa val u, s.doneLook p x = (some (flags, some (pa, val)), u) →
      flags = (if u.natAt pa 8 < 2 ^ 63 then 2 else 0) ∧ (x.term = none → x.fault = none → val = 0) ∧
      (∀ code, x.term = some code → val = 2 ^ 31 + 2 ^ 24 * (code % 128)) ∧
      ∀ f, x.term = none → x.fault = some f → val = 2 ^ 31 + 2 ^ 24 * (f.code % 128)) ∧
    (∀ r rest, (s.part p).records = r :: rest →
      ((s.part p).queue = none → ∃ t : State, exec (.completionRecordWrite p) s = .next (t.doneResolve p r) ∧ t.mem = s.mem ∧
        (t.part p).records = rest) ∧
      ∀ q, (s.part p).queue = some q → s.ringRoom q = true →
        let tail := s.natAt (q.hdr + 0x1C) 4
        let slot := q.rqbase + 32 * (tail % q.rqsize)
        ∃ (t u : State), exec (.completionRecordWrite p) s = .next (t.doneResolve p r).hostSees ∧ (t.part p).records = rest ∧
          t = u.zWrite p (q.hdr + 0x1C) (bytesLE 4 (tail + 1)) ∧
          (∀ k, k < 4 → (t.byteAt (q.hdr + 0x1C + k)).toNat = (tail + 1) / 256 ^ k % 256) ∧
          (List.range 32).map (fun k => u.byteAt (slot + k)) = bytesLE 4 r.cseq.toNat ++ bytesLE 1 r.kind ++ bytesLE 1 r.code ++
            bytesLE 1 (tail / q.rqsize % 2 + r.flags) ++ [0] ++ bytesLE 8 r.tag.toNat ++ bytesLE 8 r.info1.toNat ++
            bytesLE 4 r.info2.toNat ++ bytesLE 4 r.info3.toNat) ∧
    ∀ r : Record, (r.done = none → s.doneResolve p r = s) ∧
      ∀ pa val, r.done = some (pa, val) →
        s.doneResolve p r = if s.natAt pa 8 < 2 ^ 63 then s else ((s.request pa 0 p true none).resolveFut true (some s.jobRel) pa val).2

/-- The commands. A reserved bit set is code 1 and an unassigned opcode code 4 of a refusal; a command with `AFTER` waits for the partition's jobs; a
system command of another partition than 0 is answered with code 1, a bad operand with code 2, an operand that cannot be read with code 3, a field
of a busy partition with code 4, and each command that is good takes its effect and is answered with code 0. Which bits of a payload are reserved is
the reading of log 20; TLBINV reaches every core and PAGERES takes any address in the page (log 31); an address of no range is code 2, and a
descriptor behind a generator leaf cannot be read (log 32). That the accesses which waited for a flipped page are moves on the agenda, those of the device
numbered from 2^32, is the model's choice (log 41). -/
def Obligations.CommandsTakeTheirEffect : Prop :=
  ∀ (s : State) (p : Nat) (c : Cmd) (t : State),
    let given (opc : Nat) : Prop := Given s p opc c t
    let pay (o n : Nat) : Prop := payRange (c.field o 8) n = true
    let bad (i : Instr) : Prop := Answers i s p c 2 0 0 t
    (∀ e ∈ [(0x02, Instr.config p), (0x07, .bias p), (0x09, .rackrd p), (0x0A, .retired p), (0x0B, .scrub p), (0x0D, .layertest p),
        (0x0E, .power p)], given e.1 → p ≠ 0 → Answers e.2 s p c 1 0 0 t) ∧
    (s.mgmt.boot = 5 → s.takeCmd p = some (c, t) → (t.part p).records = [] →
      (payload c.opc = none → exec (.launch p) s = .next (t.cmdError p c 4)) ∧
      ∀ e ∈ [(0x01, Instr.launch p), (0x02, .config p), (0x03, .tlbinv p), (0x04, .pageres p), (0x05, .genwr p), (0x06, .geninv p),
          (0x07, .bias p), (0x08, .counters p), (0x09, .rackrd p), (0x0A, .retired p), (0x0B, .scrub p), (0x0C, .settime p),
          (0x0D, .layertest p), (0x0E, .power p), (0x0F, .attest p)], c.opc = e.1 → ∀ l, payload e.1 = some l →
        (c.clean l = false → exec e.2 s = .next (t.cmdError p c 1)) ∧
        (c.clean l = true → bit (c.field 1 1) 0 = true → (t.part p).jobs ≠ [] → c.begun = false → exec e.2 s = .next t)) ∧
    (let root := c.field 0x10 8
     let va := c.field 8 8
     let asn := c.field 0x18 2
     given 0x01 →
      ((inHbm root = false ∨ root % 8192 ≠ 0 ∨ va % 128 ≠ 0 ∨ canonical va = false) → exec (.launch p) s = .next (t.cmdError p c 1)) ∧
      (inHbm root = true → root % 8192 = 0 → va % 128 = 0 → canonical va = true →
        (∀ u, t.descFlips p asn root va = false → t.readDesc p asn root va = (none, u) → exec (.launch p) s = .next (u.cmdError p c 2)) ∧
        ∀ l u, t.readDesc p asn root va = (some l, u) → let d := jobDesc l
          (∀ k, (descCode d.1 d.2 = some k ∨ (descCode d.1 d.2 = none ∧ u.roomCode p d.1 = some k)) →
            exec (.launch p) s = .next (u.refuse p c d.1 k)) ∧
          (descCode d.1 d.2 = none → u.roomCode p d.1 = none →
            ∃ v, exec (.launch p) s = .next v ∧ v.mem = u.mem ∧ (v.part p).cmd = none ∧
              (v.part p).pending = some { desc := d.1, cseq := c.cseq, asn, root }))) ∧
    (let g := c.cfg
     given 0x02 → p = 0 →
      (c.begun = false →
        (t.cfgBad g = true → bad (.config p)) ∧
        (t.cfgBad g = false → t.cfgUnread g = true → Answers (.config p) s p c 3 0 0 t) ∧
        (t.cfgBad g = false → t.cfgUnread g = false → t.cfgNoQueue g = true → bad (.config p)) ∧
        (t.cfgBad g = false → t.cfgUnread g = false → t.cfgNoQueue g = false → t.cfgBusy g = true → Answers (.config p) s p c 4 0 0 t) ∧
        (t.cfgBad g = false → t.cfgUnread g = false → t.cfgNoQueue g = false → t.cfgBusy g = false →
          ∃ v, exec (.config p) s = .next v ∧ (v.part g.part).configured = true ∧ (v.part g.part).lnl = g.lnl ∧
            (v.part g.part).lbase = g.lbase ∧ (v.part g.part).pool = g.pool ∧ (v.part g.part).poolsz = g.poolsz ∧
            (g.part ≠ 0 → (v.part g.part).weight = g.weight ∧ (v.part g.part).ways = BitVec.ofNat 16 g.ways))) ∧
      (c.begun = true → (t.stillCores = false → exec (.config p) s = .next t) ∧
        (t.stillCores = true → ∃ u, Answers (.config p) s p c 0 0 0 u ∧ u.mem = t.mem ∧ (u.part g.part).stallB = g.pctl % 16 ∧
          (u.part g.part).msdbg = bit g.pctl 4))) ∧
    (∀ g : CfgCmd, t.cfgBad g = true ↔ 7 < g.part ∨ g.pool % 65536 ≠ 0 ∨ g.poolsz % 65536 ≠ 0 ∨
      payRange g.pool (max 1 g.poolsz) = false ∨
      (g.lnl ≠ 0 ∧ (g.lnl < 14 ∨ 26 < g.lnl ∨ g.lbase % (128 * 2 ^ g.lnl) ≠ 0 ∨ payRange g.lbase (136 * 2 ^ g.lnl) = false)) ∨
      (g.part ≠ 0 ∧ (g.weight = 0 ∨ 15 < g.weight ∨ 16 < t.weights g.part g.weight ∨ (∃ k ∈ [0, 24, 48, 72], bit g.cores k = true) ∨
        ∃ e ∈ t.cores, e.2.unusable = true ∧ bit g.cores e.1 = true))) ∧
    (given 0x03 → ∃ u, Answers (.tlbinv p) s p c 0 0 0 u ∧ u.mem = t.mem ∧
      ∀ k, ∀ e ∈ (u.core k).tlb, e ∈ (t.core k).tlb ∧ e.named p (c.field 8 2) (c.field 0x10 8) (c.field 0x18 8) = false) ∧
    (let hit := pageHit p (c.field 8 2) (c.field 0xA 1) (c.field 0x10 8)
     given 0x04 → ((2 < c.field 0xA 1 ∨ 1 < c.field 0xB 1) → bad (.pageres p)) ∧
      (c.field 0xA 1 < 3 → c.field 0xB 1 < 2 → ∃ u, Answers (.pageres p) s p c 0 0 0 u ∧
        ∀ k j cr, u.crew k j = some cr → ∀ w ∈ cr.warps, ∀ sp ∈ w.2.splits, ∀ ps, sp.st = .parked (.page ps) →
          ∀ x ∈ ps, hit x.2.2 = false)) ∧
    (let good : Prop := inHbm (c.field 0x18 8) = true ∧ c.field 0x18 8 % 8192 = 0 ∧ pay 0x10 64
     given 0x05 → (¬ good → bad (.genwr p)) ∧
      (good → t.anyPoison (c.field 0x10 8) 64 = true → Answers (.genwr p) s p c 3 0 0 t) ∧
      (good → t.anyPoison (c.field 0x10 8) 64 = false → ∃ u, Answers (.genwr p) s p c 0 0 0 u ∧ u.mem = t.mem ∧
        Store.look (u.part p).gens (c.field 8 2) = some { bytes := t.bytesAt (c.field 0x10 8) 64, root := c.field 0x18 8 })) ∧
    (given 0x06 → (t.filling p = true → ∃ v, exec (.geninv p) s = .next v ∧ v.mem = t.mem ∧ (v.part p).geninv = true) ∧
      (t.filling p = false → ∃ u, Answers (.geninv p) s p c 0 0 0 u ∧ (u.part p).geninv = false ∧
        ∀ pa l, inGen pa = true → genPart pa = p → u.lineAt pa = some l → l.pins ≠ [])) ∧
    (let page := c.field 0x10 8 / 65536
     let n := c.field 0x18 4
     let good : Prop := c.field 8 1 < 2 ∧ c.field 0x10 8 % 65536 = 0 ∧ 0 < n ∧ n ≤ 65536 ∧ inHbm (c.field 0x10 8) = true ∧
      inHbm (c.field 0x10 8 + 65536 * n - 1) = true
     given 0x07 → p = 0 → (¬ good → bad (.bias p)) ∧ (good →
      (t.flipping = none → ∃ v, exec (.bias p) s = .next v ∧ v.mem = t.mem ∧ v.flipping = some page ∧ v.bias = t.bias) ∧
      ∀ k, t.flipping = some k →
        (k + 1 < page + n → ∃ v, exec (.bias p) s = .next v ∧ v.flipping = some (k + 1) ∧
          (k ∈ v.bias ↔ c.field 8 1 = 0) ∧ (∀ m, m ≠ k → (m ∈ v.bias ↔ m ∈ t.bias)) ∧ v.agenda = t.flipMoves k ++ t.agenda ∧
          ∀ x y cr, v.crew x y = some cr → ∀ w ∈ cr.warps, ∀ sp ∈ w.2.splits, ∀ m, sp.st ≠ .parked (.flip k m)) ∧
        (page + n ≤ k + 1 → ∃ u, Answers (.bias p) s p c 0 0 0 u ∧ u.flipping = none ∧ (k ∈ u.bias ↔ c.field 8 1 = 0)))) ∧
    (let n := c.field 0xB 1
     let good : Prop := c.field 8 1 < 2 ∧ c.field 9 1 < 96 ∧ 0 < n ∧ n ≤ 64 ∧ pay 0x10 (4 * n)
     let own : Prop := p = 0 ∨ (c.field 8 1 = 0 ∧ (t.core (c.field 9 1)).part = some p)
     given 0x08 → (¬ good → bad (.counters p)) ∧ (good → ¬ own → Answers (.counters p) s p c 1 0 0 t) ∧
      (good → own → ∃ u, Answers (.counters p) s p c 0 0 0 u ∧ ∀ k, k < n → heldNat u (c.field 0x10 8 + 4 * k) 4 =
        (t.counter (decide (c.field 8 1 = 1)) (c.field 9 1) (c.field 0xA 1 + k)).toNat)) ∧
    (let n := c.field 0xC 2
     let good : Prop := c.field 8 2 < 96 ∧ 0 < n ∧ c.field 0xA 2 + n ≤ 512 ∧ pay 0x10 (64 * n)
     given 0x09 → p = 0 → (¬ good → bad (.rackrd p)) ∧
      (good → ∃ u, Answers (.rackrd p) s p c 0 0 0 u ∧ ∀ k, k < n →
        heldBytes u (c.field 0x10 8 + 64 * k) 64 = t.rackBytes (c.field 8 2) (c.field 0xA 2 + k))) ∧
    (let l := (t.part (c.field 8 1)).retired
     let n := min (c.field 0x18 8) l.length
     let good : Prop := c.field 8 1 < 8 ∧ pay 0x10 (max 1 (8 * n))
     given 0x0A → p = 0 → (¬ good → bad (.retired p)) ∧ (good →
      ∃ u, Answers (.retired p) s p c 0 n l.length u ∧ ∀ k, k < n → heldNat u (c.field 0x10 8 + 8 * k) 8 = l.getD k 0 % 2 ^ 64)) ∧
    (let page := c.field 0x10 8
     let good : Prop := page % 65536 = 0 ∧ pay 0x10 65536
     given 0x0B → p = 0 → (¬ good → bad (.scrub p)) ∧ (good →
      ∃ u, Answers (.scrub p) s p c 0 0 0 u ∧ (∀ a, page ≤ a → a < page + 65536 → u.byteAt a = 0 ∧ u.poisoned a = false) ∧
        ∀ a, ¬ (page ≤ a ∧ a < page + 65536) → u.byteAt a = t.byteAt a)) ∧
    (let ks := t.coresOf p
     let good : Prop := pay 0x10 (max 1 (16 * ks.length))
     given 0x0C → (¬ good → bad (.settime p)) ∧ (good →
      ∃ u, Answers (.settime p) s p c 0 0 0 u ∧ ∀ k, k < ks.length →
        heldNat u (c.field 0x10 8 + 16 * k) 8 = c.field 8 8 ∧
        heldNat u (c.field 0x10 8 + 16 * k + 8) 8 = (t.core (ks.getD k 0)).clk % 2 ^ 64)) ∧
    (let n := c.field 8 1
     let pass := Config.layerTest t.freeCtr n
     given 0x0D → p = 0 → (96 ≤ n → bad (.layertest p)) ∧
      (n < 96 → (t.core n).inOp = true → ∃ v, exec (.layertest p) s = .next v ∧ v.mem = t.mem ∧ v.cores = t.cores) ∧
      (n < 96 → (t.core n).inOp = false → ∃ u, Answers (.layertest p) s p c 0 pass.toNat 0 u ∧ u.mem = t.mem ∧
        (u.core n).resOut = ~~~ pass ∧ (u.core n).thr = (t.core n).thr)) ∧
    (let w := c.field 8 2
     given 0x0E → p = 0 → ((w < 120 ∨ 350 < w) → bad (.power p)) ∧
      (120 ≤ w → w ≤ 350 → ∃ u, Answers (.power p) s p c 0 0 0 u ∧ u.mem = t.mem ∧ u.mgmt.limit = w)) ∧
    (let good : Prop := pay 8 32 ∧ pay 0x10 1536
     given 0x0F → (¬ good → bad (.attest p)) ∧
      (good → t.anyPoison (c.field 8 8) 32 = true → Answers (.attest p) s p c 3 0 0 t) ∧
      (good → t.anyPoison (c.field 8 8) 32 = false →
        ∃ u, Answers (.attest p) s p c 0 0 0 u ∧ heldBytes u (c.field 0x10 8) 1536 = t.attestation (t.bytesAt (c.field 8 8) 32) ∧
          (t.attestation (t.bytesAt (c.field 8 8) 32)).length = 1536)) ∧
    (∀ n, exec (.continuationCommit (2 ^ 32 + n)) t = .next (t.stepsOn (Wait.flipAt n) true)) ∧
    ∀ (code i2 i3 : Nat), (t.part p).queue ≠ none → let ends (u : State) (kind : Nat) : Prop := u.mem = t.mem ∧ (u.part p).cmd = none ∧
        ∃ r, (u.part p).records = (t.part p).records ++ [r] ∧ r.cseq = c.cseq ∧ r.kind = kind ∧ r.code = code ∧
          (kind = 3 → r.info1 = BitVec.ofNat 64 c.index) ∧ (kind = 7 → r.info2 = BitVec.ofNat 32 i2 ∧ r.info3 = BitVec.ofNat 32 i3)
      ends (t.cmdDone p c code i2 i3) 7 ∧ ends (t.cmdError p c code) 3 ∧ ∀ d, ends (t.refuse p c d code) 1


/-! ### The host, the board, storage errors and heat -/

/-- The host's registers and the boot. Before `READY` the cores and Zhevvo make no move. A doorbell at most `CQSIZE` ahead is accepted, one
further is refused with a record; `Q0HDR` is honoured once, for a header that can be read; only 0x52E5 resets, and host memory is kept through it
(log 13); reads of the register space and of the management port give what the tables list and zero elsewhere. The boot goes through `ROM`, which
nothing outside ends (log 21), to `KEY`; the board selects, reads and writes helper data there, and completes or enrols an identity; then the boot
goes on through training and the march test, with its errors. The host reads and writes HBM through its decoder window, each access in one step
whatever its length (log 38); what it reads is memory, but for bytes that are undefined and those of a save pool (log 16),
and which lines its caches keep is open (log 43). -/
def Obligations.HostAndBoardRegisters : Prop :=
  ∀ s : State,
    (s.mgmt.boot ≠ 5 → ∀ p core slot n, ∀ i ∈ [Instr.crewDispatch core, .parkedEviction core, .coreMove core, .crewRetire core slot, .jobBind p,
      .jobEnd p n, .launch p, .config p, .completionRecordWrite p, .copyExecute core n, .mmaExecute core [], .rasterBatch n, .q0hdr 0],
      exec i s = .next s) ∧
    (∀ p v q, s.mgmt.boot = 5 → (s.part p).queue = some q →
      (seqSub (BitVec.toNat v) (s.cqHead q) ≤ q.cqsize → ∃ t, exec (.doorbell p v) s = .next t ∧ t.mem = s.mem ∧ (t.part p).dbell = v ∧
        (t.part p).records = (s.part p).records) ∧
      (q.cqsize < seqSub (BitVec.toNat v) (s.cqHead q) → ∃ t r, exec (.doorbell p v) s = .next t ∧ t.mem = s.mem ∧
        (t.part p).dbell = (s.part p).dbell ∧ (t.part p).records = (s.part p).records ++ [r] ∧ r.kind = 3 ∧ r.code = 3 ∧
        r.info1 = BitVec.ofNat 64 v.toNat)) ∧
    (∀ v q, s.mgmt.boot = 5 → s.mgmt.q0used = false → v ≠ 0 → s.anyPoison (BitVec.toNat v) 64 = false →
      s.readHeader (BitVec.toNat v) = some q →
      ∃ t, exec (.q0hdr v) s = .next t ∧ t.mem = s.mem ∧ (t.part 0).queue = some q ∧ t.mgmt.q0used = true ∧ t.mgmt.q0hdr = v ∧
        ∀ w, exec (.q0hdr w) t = .next t) ∧
    (∃ t, exec (.reset 0x52E5) s = .next t ∧ t.mgmt.boot = 0 ∧ t.cores = State.reset.cores ∧ t.parts = State.reset.parts ∧ t.slices = [] ∧
      t.picked = none ∧ ∀ a, inHost a = true → t.byteAt a = s.byteAt a) ∧
    (∀ v, v ≠ 0x52E5 → exec (.reset v) s = .next s) ∧
    (s.readRegister 0 4 = 0x00961F9A ∧ s.readRegister 8 4 = s.mgmt.boot % 16 + 2 ^ 8 * (s.mgmt.err % 256) ∧
      s.readRegister 0x10 8 = s.mgmt.q0hdr.toNat ∧ (∀ o n, o % n ≠ 0 → s.readRegister o n = 0) ∧
      (∀ o n, n ≠ 4 → n ≠ 8 → s.readRegister o n = 0) ∧ (∀ o, 0x18 ≤ o → ∀ n, s.readRegister o n = 0)) ∧
    ((s.mgmt.i3c = none → s.i3cAddress = 0x4E) ∧ (∀ a, s.mgmt.i3c = some a → s.i3cAddress = a) ∧
      s.privateRead 0 = bytesLE 4 (s.mgmt.boot % 16 + 2 ^ 8 * (s.mgmt.err % 256)) ∧ s.privateRead 3 = bytesLE 4 s.mgmt.pwr.toNat ∧
      (s.privateRead 4).length = 1793 ∧ s.privateRead 5 = bytesLE 4 s.mgmt.repair.length ∧
      s.privateRead 6 = bytesLE 8 s.mgmt.hwsel.toNat ∧ (∀ k, k < 256 → (s.privateRead 7)[k]? = some (s.mgmt.window k)) ∧
      (∀ k, k < s.mgmt.temp.length → fieldAt (s.privateRead 1) (2 * k) 2 = (s.mgmt.temp.getD k 0).toNat) ∧
      (∀ k, k < s.mgmt.rails.length → fieldAt (s.privateRead 2) (2 * k) 2 = (s.mgmt.rails.getD k 0).toNat) ∧
      ∀ k, 8 ≤ k → s.privateRead k = []) ∧
    (∀ o v, exec (.registerWriteIgnored o v) s = .next s) ∧
    (∀ o bs, s.mgmt.boot = 2 → bits s.mgmt.hwsel.toNat 63 62 = 0 → bits s.mgmt.hwsel.toNat 15 0 < 16 → o + bs.length ≤ 256 →
      s.mgmt.helper.length = 4096 →
      ∃ t, exec (.helper o bs) s = .next t ∧ t.mem = s.mem ∧ (∀ k, k < bs.length → t.mgmt.window (o + k) = bs.getD k 0) ∧
        ∀ k, k < 256 → ¬ (o ≤ k ∧ k < o + bs.length) → t.mgmt.window k = s.mgmt.window k) ∧
    (∀ v, bits (BitVec.toNat v) 61 16 = 0 →
      (bits (BitVec.toNat v) 63 62 = 0 → ∃ t, exec (.hwselHelperPart v) s = .next t ∧ t.mem = s.mem ∧ t.mgmt.hwsel = v ∧ t.mgmt.helper = s.mgmt.helper) ∧
      (bits (BitVec.toNat v) 63 62 = 1 → ∃ t, exec (.hwselRepairEntry v) s = .next t ∧ t.mem = s.mem ∧ t.mgmt.hwsel = v ∧
        ∀ e, s.mgmt.repair[bits (BitVec.toNat v) 15 0]? = some e → ∀ k, k < 8 → t.mgmt.window k = BitVec.ofNat 8 (e.toNat / 256 ^ k)) ∧
      (s.mgmt.boot = 2 → bits (BitVec.toNat v) 63 62 = 2 →
        let seed := seedOf s.mgmt.helper
        ∃ t, exec (.hwselHelperComplete v) s = .next t ∧ t.mem = s.mem ∧
          (seedHash seed = s.mgmt.helper.drop 4064 → t.mgmt.boot = 3 ∧ t.mgmt.seed = some seed) ∧
          (seedHash seed ≠ s.mgmt.helper.drop 4064 → t.mgmt.boot = 15 ∧ t.mgmt.err = 5)) ∧
      (s.mgmt.boot = 2 → bits (BitVec.toNat v) 63 62 = 3 → ∃ t, exec (.hwselEnrol v) s = .next t ∧ t.mem = s.mem ∧ t.mgmt.boot = 3 ∧
        t.mgmt.err = 1 ∧ t.mgmt.seed = some (seedOf t.mgmt.helper) ∧ seedHash (seedOf t.mgmt.helper) = t.mgmt.helper.drop 4064)) ∧
    (∀ a, ∃ t, exec (.i3cDynamicAddress a) s = .next t ∧ t.mgmt.i3c = some a ∧ t.mem = s.mem) ∧
    (s.mgmt.boot < 2 → ∃ t, exec .railsStable s = .next t ∧ t.mgmt.boot = s.mgmt.boot + 1 ∧ t.mgmt.err = s.mgmt.err ∧ t.mem = s.mem) ∧
    (2 ≤ s.mgmt.boot → exec .railsStable s = .next s) ∧
    (s.mgmt.boot = 3 → ∃ t u, exec (.train true) s = .next t ∧ t.mgmt.boot = 4 ∧ exec (.train false) s = .next u ∧ u.mgmt.boot = 15 ∧ u.mgmt.err = 2) ∧
    (s.mgmt.boot = 4 → ∀ fs, ∃ t, exec (.march fs) s = .next t ∧ t.mem = s.mem ∧
      let l := fs.eraseDups
      ((∃ n ∈ [0, 24, 48, 72], coreDead l n = true) → t.mgmt.boot = 15 ∧ t.mgmt.err = 3) ∧
      ((∀ n ∈ [0, 24, 48, 72], coreDead l n = false) → t.mgmt.boot = 5 ∧ t.mgmt.err = s.mgmt.err) ∧
      (∀ n, n < 96 → coreDead l n = true → (t.core n).unusable = true) ∧
      ∀ n x r, l = x :: r → n = BitVec.ofNat 64 (x.1 + 2 ^ 7 * x.2.1 + 2 ^ 8 * x.2.2.1 + 2 ^ 13 * x.2.2.2) → t.mgmt.repair.head? = some n) ∧
    (∀ h, (s.mgmt.base ≤ h → s.fromHost h = some (h - s.mgmt.base)) ∧ (h < s.mgmt.base → s.fromHost h = none)) ∧
    (∀ a n, (s.hostBytes a n).length = n ∧ ∀ k, k < n → s.inPool (a + k) = false → s.hostStale (a + k) = false →
      (s.hostBytes a n)[k]? = some (s.byteAt (a + k))) ∧
    (∀ h a n, s.fromHost (BitVec.toNat h) = some a → hbmRange a n = true →
      ∃ t, exec (.hostMemRead h n) s = .next t ∧ t.mem = s.mem ∧ t.hostData = s.hostBytes a n ∧
        (Config.hostKeeps s.freeCtr = false → t.hostLines = s.hostLines) ∧
        (Config.hostKeeps s.freeCtr = true → ∀ k, k < n → (a + k) / 128 ∈ t.hostLines)) ∧
    ∀ h a bs, s.fromHost (BitVec.toNat h) = some a → hbmRange a bs.length = true → bs ≠ [] → s.flipping = none →
      ∃ t, exec (.hostMemWrite h bs) s = .next t ∧ heldBytes t a bs.length = bs ∧
        (∀ b, ¬ (a ≤ b ∧ b < a + bs.length) → t.byteAt b = s.byteAt b) ∧
        ∀ l, a ≤ 128 * l → 128 * l + 128 ≤ a + bs.length → t.poisoned (128 * l) = false

/-- Storage errors, power and heat. A corrected error is counted, the sixteenth of a way quarantines it; an uncorrectable one in HBM poisons its
line and retires its page, for the partition that tags the line or was served last (log 22), with its record at the move (log 38); in a clean line it
drops it, a pinned one once its last pin goes (log 22), and quarantines its way, in a dirty line it also ends the jobs of its writer, in a register cache or stash it ends the job of its crew; the
host is told. What the sensors and the loops decide are the arguments of the moves (log 10): the loops throttle, release and suspend; at 105 °C the
attic layers of the hottest column are throttled until the die is below 100 °C, but for those that their own loops throttle; a layer leaves and enters
service between operations of the matrix queue alone; and at the trip point the module stops. -/
def Obligations.ErrorsAndHeatAreHandled : Prop :=
  ∀ s : State,
    (∀ a, inHbm (BitVec.toNat a) = true → ∃ t, exec (.hbmCorrected a) s = .next t ∧ t.mem = s.mem ∧
      Store.get (t.slice (homeOf a.toNat)).counters 0 0x2A = Store.get (s.slice (homeOf a.toNat)).counters 0 0x2A + 1) ∧
    (∀ a, inHbm (BitVec.toNat a) = true → ∃ t r, exec (.hbmUncorrectable a) s = .next t ∧ t.mem = s.mem ∧ t.poisoned a.toNat = true ∧
      a.toNat / 65536 * 65536 ∈ (t.part (s.readerOf a.toNat)).retired ∧ r.kind = 6 ∧ r.code = 1 ∧
      r.info1 = BitVec.ofNat 64 (128 * (a.toNat / 128)) ∧
      ∀ p ∈ [0, s.readerOf a.toNat], (s.part p).queue ≠ none → r ∈ (t.part p).records) ∧
    (∀ sl set way, way < 16 → let k := Store.get (s.slice sl).corr 0 way + 1
      ∃ t, exec (.llcCorrected sl set way) s = .next t ∧ Store.get (t.slice sl).corr 0 way = k ∧
        (k ≠ 16 → (t.slice sl).quarantine = (s.slice sl).quarantine ∧ t.mem = s.mem) ∧
        (k = 16 → (t.slice sl).quarantine = (s.slice sl).quarantine ||| BitVec.ofNat 16 (2 ^ way))) ∧
    (∀ sl set way l, way < 16 → s.llcLine sl set way = some l → l.dirty = false → ∃ t r, exec (.llcUeClean sl set way) s = .next t ∧
      (t.slice sl).quarantine.getLsbD way = true ∧ r.kind = 6 ∧ r.code = (if l.larder.isSome then 3 else 2) ∧
      r.info1 = BitVec.ofNat 64 (128 * l.line) ∧ (∀ p ∈ [0, l.tag], (s.part p).queue ≠ none → r ∈ (t.part p).records) ∧
      (((s.slice sl).sets.map fun e => e.1).Nodup →
        (l.pins = [] → t.llcLine sl set way = none) ∧
        (l.pins ≠ [] → ∃ m, t.llcLine sl set way = some m ∧ m.line = l.line ∧ m.leave = true))) ∧
    (∀ sl set way l, way < 16 → s.llcLine sl set way = some l → l.dirty = true → ∃ t, exec (.llcUeDirty sl set way) s = .next t ∧
      (t.slice sl).quarantine.getLsbD way = true ∧ 128 * l.line / 65536 * 65536 ∈ (t.part l.tag).retired ∧
      (∀ j ∈ s.writerJobs l, ∃ x, t.job? l.tag j = some x ∧ x.term.isSome = true) ∧
      (s.writerJobs l = [] → l.larder = none → (∀ e ∈ (s.slice sl).sets, ∀ m, Store.look e.2.ways way = some m → m.larder = none) →
        t.poisoned (128 * l.line) = true)) ∧
    (∀ core slot cr x, s.mgmt.boot = 5 → s.crew core slot = some cr → cr.fill = none → s.job? cr.part cr.job = some x →
      ∃ t y, exec (.sramUncorrectable core slot) s = .next t ∧ t.job? cr.part cr.job = some y ∧ y.term.isSome = true) ∧
    (s.mgmt.boot = 5 → ∀ n l, l < 4 → ∀ th fr su, ∃ t, exec (.powerLoopEval th fr su) s = .next t ∧ t.mem = s.mem ∧
      let c := s.core n
      let c' := t.core n
      c'.heat = c.heat ∧ (fr = [] → (c'.loop.getLsbD l = true ↔ c.loop.getLsbD l = true ∨ (l ≠ 0 ∧ (n, l) ∈ th))) ∧
      (th = [] → (c'.loop.getLsbD l = true ↔ c.loop.getLsbD l = true ∧ (n, l) ∉ fr)) ∧
      (c.inOp = true → c'.thr = c.thr) ∧
      (c.inOp = false → ((∃ k, (n, k) ∈ fr) ∨ ∃ k, k ≠ 0 ∧ (n, k) ∈ th) →
        c'.thr.getLsbD l = (c'.loop.getLsbD l || (c.heat && decide (l ≠ 0)))) ∧
      ∀ q k, su = [(n, q, k)] → (Store.get c'.quarters {} q).suspended = (Store.get c.quarters {} q).suspended + k) ∧
    (s.mgmt.boot = 5 → ∀ col, ∃ t, exec (.thermalThrottle col) s = .next t ∧ t.mem = s.mem ∧ col ∈ t.mgmt.thermal ∧
      (t.core col).heat = true ∧ (t.core col).loop = (s.core col).loop ∧ ((s.core col).inOp = true → (t.core col).thr = (s.core col).thr) ∧
      ((s.core col).inOp = false → ∀ l, l < 4 → (t.core col).thr.getLsbD l = ((s.core col).loop.getLsbD l || decide (l ≠ 0)))) ∧
    (s.mgmt.boot = 5 → ∃ t, exec .dieFallsBelow100c s = .next t ∧ t.mem = s.mem ∧ t.mgmt.thermal = [] ∧
      (∀ n, n ∉ s.mgmt.thermal → t.core n = s.core n) ∧
      ∀ n ∈ s.mgmt.thermal, (t.core n).heat = false ∧ (t.core n).loop = (s.core n).loop ∧
        ((s.core n).inOp = true → (t.core n).thr = (s.core n).thr) ∧ ((s.core n).inOp = false → (t.core n).thr = (s.core n).loop)) ∧
    (∀ c : Core, c.inOp = true ↔ ∃ op l, c.matQ = op :: l ∧ op.begun = true) ∧
    (∀ (core : Nat) (op : MatOp) (r : List MatOp), (s.core core).matQ = op :: r →
      ((s.setMatOp core op).core core).matQ = { op with begun := true } :: r ∧
      ((s.setMatOp core op).core core).inOp = true) ∧
    ∃ t, exec .thermalTrip s = .next t ∧ t.mem = s.mem ∧ t.mgmt.boot = 15 ∧ t.mgmt.err = 4 ∧ t.picked = none ∧ t.ready = false


/-! ### What instructions leave unchanged -/

namespace Sys2Proof.Claims

open Sys2Proof.Machine

/-- The instructions of a warp that store to memory or write windows back, and those that read it. Every other one neither stores nor
translates an address. -/
def stores : Instr → Bool
  | .st _ _ | .atom _ _ | .red _ _ | .fence _ _ | .swb _ _ | .smap _ _ | .bellInit _ _ | .bellArr _ _ | .fset _ _ | .fon _ _ | .qres _ _
  | .qcom _ _ | .qtake _ _ | .brel _ _ | .rast _ _ | .sleave _ _ | .sskip _ _ | .fdone _ _ => true
  | _ => false
def loads : Instr → Bool
  | .ld _ _ | .ldg4 _ _ | .prefetch _ _ | .cflush _ _ | .waita _ _ | .bellWait _ _ => true
  | _ => false

/-- The instructions that may set flags of `%fpf` (05 R63, R66, 09 R120, R126); `mtsr` writes it whole. -/
def setsFlags : Instr → Bool
  | .fadd _ _ | .fsub _ _ | .fmul _ _ | .ffma _ _ | .fmin _ _ | .fmax _ _ | .fcmp _ _ | .rcp _ _ | .rsqrt _ _ | .sqrt _ _ | .exp2 _ _
  | .log2 _ _ | .sinpi _ _ | .cospi _ _ | .frnd _ _ | .fscale _ _ | .fdot2 _ _ | .cvt _ _ | .cvtd _ _ | .cvtq _ _ | .pack _ _
  | .unpack _ _ | .wred _ _ | .wscan _ _ | .b32FaddF32 _ | .b32FsubF32 _ | .b32FmulF32 _ | .b32FaddF16x2 _ | .b32FmulF16x2 _
  | .b32FaddBf16x2 _ | .b32FmulBf16x2 _ | .b32FminF32 _ | .b32FmaxF32 _ => true
  | _ => false

/-- The address of a leaf entry that an access of an agent may reach: that of an entry of its core's TLB, or the end of a walk of its tables, in memory
that is this state's but for accessed and dirty bits (11 R148, R154, R156). -/
def LeafAt (s : State) (ag : Agent) (lpa : Nat) : Prop :=
  (∃ e ∈ (s.core ag.core).tlb, e.leafPa = lpa) ∨
    ∃ (u : State) (va e : Nat) (large : Bool), (∀ b, u.byteAt b ||| 0x81 = s.byteAt b ||| 0x81) ∧
      (u.walk ag.part ag.root va).1 = .leaf e lpa large

end Sys2Proof.Claims

/-- Memory under the instructions that store nothing, whether they complete, wait or fault: an instruction that makes no access changes no
byte and no poison, `exit` of a warp that holds no section among them; one that only loads changes no byte but the first two of a leaf entry that its
translation reached, where it sets bit 7, `D`, of the first and bit 0, `A`, of the second and changes no other bit (11 R154), `bell.wait` but for the
bytes of a bell that a thread has stored to, which are then free (13 R199, notes/assumptions/46.md); and the traffic of the register cache before an instruction changes none. -/
def Obligations.MemoryIsKeptByWhatStoresNothing : Prop :=
  ∀ (i : Instr) (s t : State) (c : Ctx), s.ctx? i = some c → stores i = false → ((∃ x v, i = .exit x v) → c.w.secs = []) →
    exec i s = .next t →
    (loads i = false → t.mem = s.mem ∧ t.poison = s.poison) ∧
    (loads i = true → NoneGenerated s → ∀ a, ((∃ x v, i = .bellWait x v) → s.ledger.written a = false) →
      ((∀ lpa, LeafAt s c.agent lpa → a ≠ lpa) → t.byteAt a ||| 0x01 = s.byteAt a ||| 0x01) ∧
      ((∀ lpa, LeafAt s c.agent lpa → a ≠ lpa + 1) → t.byteAt a ||| 0x80 = s.byteAt a ||| 0x80) ∧
      t.byteAt a ||| 0x81 = s.byteAt a ||| 0x81 ∧ s.byteAt a &&& t.byteAt a = s.byteAt a) ∧
    (NoneGenerated s → (s.readRegs i).mem = s.mem)

/-- Registers under every instruction of a warp, whether it completes, waits or faults. No other warp's registers change. In its own warp, unless that
enters its handler or ends, or it is `tret`, `exit` or `vput`: a lane register keeps its value outside the destinations and outside
`Mask()`; a scalar and a predicate outside the destinations; the index registers but for `xset`; `%fpf` but for the instructions that set flags and
`mtsr`; `%mmrep` but for `mstat`; and `%fault`. -/
def Obligations.RegistersAreKeptOutsideTheDestinations : Prop :=
  ∀ (i : Instr) (s t : State) (c : Ctx), s.ctx? i = some c → exec i s = .next t →
    (∀ k j cr, s.crew k j = some cr → ∃ cr', t.crew k j = some cr' ∧
      ∀ n, (k, j, n) ≠ (c.core, c.slot, c.wi) → SameRegs (cr.warp n) (cr'.warp n) ∧ (cr'.warp n).conv = (cr.warp n).conv ∧
        (cr'.warp n).mpred = (cr.warp n).mpred) ∧
    ∀ cr', t.crew c.core c.slot = some cr' →
      let w := c.w
      let w' := cr'.warp c.wi
      w'.retired = false → w'.save.isSome = w.save.isSome → (∀ x v, i ≠ .tret x v ∧ i ≠ .exit x v) →
      ((∀ x v, i ≠ .vput x v) → ∀ r l, r < 512 → ¬ (l ∈ c.mask ∧ (RegKind.v, r) ∈ c.dstRegs) → w'.vreg r l = w.vreg r l) ∧
      (∀ r, ¬ (c.mask ≠ [] ∧ (RegKind.s, r) ∈ c.dstRegs) → w'.sreg r = w.sreg r) ∧
      ((∀ x v, i ≠ .pset x v) → ∀ r l, r < 512 → ¬ (l ∈ c.mask ∧ (RegKind.m, r) ∈ c.dstRegs) → w'.pred r l = w.pred r l) ∧
      ((∀ x v, i ≠ .xset x v) → w'.x = w.x) ∧
      ((∀ x v, i ≠ .mtsr x v) → (setsFlags i = false → w'.fpf = w.fpf) ∧ w.fpf &&& w'.fpf = w.fpf) ∧
      ((∀ x v, i ≠ .mstat x v) → w'.mmrep = w.mmrep) ∧ w'.fault = w.fault

/-! ### Invariants -/

/-- Memory keeps its one canonical form through every step, of whatever instruction or move: addresses rise strictly and no entry equals
what an unlisted address reads as. -/
def Obligations.MemoryStaysCanonical : Prop :=
  ∀ s t : State, Memory.wf s.mem → step s = .next t → Memory.wf t.mem

/-- The module right after reset: its memory is in canonical form; the boot is in `RESET` without an error and nothing is picked; cores 0, 24,
48 and 72, and ways 14 and 15, are reserved to partition 0, which is the only one configured, with weight 1; no crew is resident, no line is
cached, no key is open and every counter is zero. That an unwritten byte reads 0 is the model's own choice (notes/assumptions/3.md), and so are the
values that no rule gives (log 13), that nothing is on the agenda (log 1) and that no program runs, so that a step changes nothing (log 12). -/
def Obligations.ResetLeavesTheModuleIdle : Prop :=
  let s := State.reset
  Memory.wf s.mem ∧ (∀ a, s.byteAt a = 0) ∧ s.mgmt.boot = 0 ∧ s.mgmt.err = 0 ∧ s.mgmt.limit = 350 ∧ s.picked = none ∧ s.ready = false ∧
  (∀ n, (s.core n).part = if n ∈ [0, 24, 48, 72] then some 0 else none) ∧
  (∀ p, (s.part p).configured = decide (p = 0) ∧ (s.part p).queue = none ∧ (s.part p).jobs = []) ∧
  (s.part 0).weight = 1 ∧ (∀ k, (s.part 0).ways.getLsbD k = decide (k = 14 ∨ k = 15)) ∧
  (∀ c k, s.crew c k = none) ∧ (∀ pa, s.lineAt pa = none) ∧ (∀ p j key, s.rackFind p j key = none) ∧
  (∀ b n i, s.counter b n i = 0) ∧ (∀ pa, s.poisoned pa = false) ∧ step s = .next s
end

