-- ==== Sys2Proof/Laws/Store.lean ====
section
/-! SUPPORT. Numbered data: what a read gives after a write, and that every operation keeps the sorted and the canonical form. -/

namespace Sys2Proof.Machine

theorem Store.look_put {α : Type} (m : Store α) (n k : Nat) (v : α) :
    Store.look (Store.put m n v) k = if n = k then some v else Store.look m k := by
  induction m with
  | nil => simp [Store.put, Store.look]
  | cons e r ih =>
    obtain ⟨a, x⟩ := e
    simp only [Store.put]
    split
    · subst_vars
      by_cases h : a = k <;> simp [Store.look, h]
    · split
      · simp [Store.look]
      · simp only [Store.look, ih]
        by_cases h : a = k
        · subst h
          simp [show ¬ n = a by omega]
        · simp [h]

theorem Store.look_del {α : Type} (m : Store α) (n k : Nat) :
    Store.look (Store.del m n) k = if n = k then none else Store.look m k := by
  induction m with
  | nil => simp [Store.del, Store.look]
  | cons e r ih =>
    obtain ⟨a, x⟩ := e
    simp only [Store.del]
    by_cases h : a = n
    · subst h
      rw [if_pos rfl, ih]
      by_cases h : a = k <;> simp [Store.look, h]
    · rw [if_neg h]
      simp only [Store.look, ih]
      by_cases h' : a = k
      · subst h'
        simp [show ¬ n = a by omega]
      · simp [h']

theorem Store.look_mem {α : Type} {m : Store α} {k : Nat} {x : α} (h : Store.look m k = some x) : (k, x) ∈ m := by
  induction m with
  | nil => simp [Store.look] at h
  | cons e r ih =>
    obtain ⟨a, y⟩ := e
    simp only [Store.look] at h
    split at h
    · simp_all
    · exact List.mem_cons_of_mem _ (ih h)

theorem Store.look_mapV {α : Type} (m : Store α) (f : Nat → α → α) (k : Nat) :
    Store.look (Store.mapV m f) k = (Store.look m k).map (f k) := by
  induction m with
  | nil => rfl
  | cons e r ih =>
    obtain ⟨a, x⟩ := e
    simp only [Store.mapV, List.map_cons, Store.look] at ih ⊢
    split
    · subst_vars; rfl
    · exact ih

@[simp] theorem Store.get_put_same {α : Type} (m : Store α) (d v : α) (n : Nat) : Store.get (Store.put m n v) d n = v := by
  simp [Store.get, Store.look_put]

theorem Store.get_put_other {α : Type} (m : Store α) (d v : α) {n k : Nat} (h : n ≠ k) :
    Store.get (Store.put m n v) d k = Store.get m d k := by
  simp [Store.get, Store.look_put, h]

/-- A read after a write in the form that lists no default. -/
theorem Store.get_set {α : Type} [DecidableEq α] (m : Store α) (d v : α) (n k : Nat) :
    Store.get (Store.set m d n v) d k = if n = k then v else Store.get m d k := by
  unfold Store.set
  split
  · subst_vars
    by_cases h : n = k <;> simp [Store.get, Store.look_del, h]
  · by_cases h : n = k <;> simp [Store.get, Store.look_put, h]

/-! ### The sorted and the canonical form -/

theorem Store.sorted_iff {α : Type} : ∀ m : Store α, Store.sorted m = true ↔ m.Pairwise fun a b => a.1 < b.1
  | [] => by simp [Store.sorted]
  | [_] => by simp [Store.sorted]
  | (k, x) :: (l, y) :: r => by
    have ih := Store.sorted_iff ((l, y) :: r)
    simp only [Store.sorted, Bool.and_eq_true, decide_eq_true_eq, ih]
    constructor
    · rintro ⟨h, hr⟩
      refine List.pairwise_cons.2 ⟨fun e he => ?_, hr⟩
      rcases List.mem_cons.1 he with rfl | he
      · exact h
      · exact Nat.lt_trans h ((List.pairwise_cons.1 hr).1 e he)
    · intro h
      exact ⟨(List.pairwise_cons.1 h).1 _ List.mem_cons_self, (List.pairwise_cons.1 h).2⟩

theorem Store.mem_put {α : Type} {m : Store α} {n : Nat} {v : α} {e : Nat × α} (h : e ∈ Store.put m n v) : e = (n, v) ∨ e ∈ m := by
  induction m with
  | nil => simpa [Store.put] using h
  | cons a r ih =>
    obtain ⟨k, x⟩ := a
    simp only [Store.put] at h
    split at h
    · rcases List.mem_cons.1 h with h | h
      · exact .inl h
      · exact .inr (List.mem_cons_of_mem _ h)
    · split at h
      · exact List.mem_cons.1 h
      · rcases List.mem_cons.1 h with rfl | h
        · exact .inr List.mem_cons_self
        · exact (ih h).imp id (List.mem_cons_of_mem _)

theorem Store.mem_del {α : Type} {m : Store α} {n : Nat} {e : Nat × α} (h : e ∈ Store.del m n) : e ∈ m := by
  induction m with
  | nil => exact h
  | cons a r ih =>
    obtain ⟨k, x⟩ := a
    simp only [Store.del] at h
    split at h
    · exact List.mem_cons_of_mem _ (ih h)
    · rcases List.mem_cons.1 h with rfl | h
      · exact List.mem_cons_self
      · exact List.mem_cons_of_mem _ (ih h)

theorem Store.put_sorted {α : Type} {m : Store α} (n : Nat) (v : α) (h : Store.sorted m = true) : Store.sorted (Store.put m n v) = true := by
  rw [Store.sorted_iff] at h ⊢
  induction m with
  | nil => simp [Store.put]
  | cons a r ih =>
    obtain ⟨k, x⟩ := a
    obtain ⟨h1, h2⟩ := List.pairwise_cons.1 h
    simp only [Store.put]
    split
    · subst_vars
      exact List.pairwise_cons.2 ⟨h1, h2⟩
    · split
      · refine List.pairwise_cons.2 ⟨fun e he => ?_, h⟩
        rcases List.mem_cons.1 he with rfl | he
        · assumption
        · exact Nat.lt_trans ‹_› (h1 e he)
      · refine List.pairwise_cons.2 ⟨fun e he => ?_, ih h2⟩
        rcases Store.mem_put he with rfl | he
        · simp only; omega
        · exact h1 e he

theorem Store.del_sorted {α : Type} {m : Store α} (n : Nat) (h : Store.sorted m = true) : Store.sorted (Store.del m n) = true := by
  rw [Store.sorted_iff] at h ⊢
  induction m with
  | nil => exact h
  | cons a r ih =>
    obtain ⟨k, x⟩ := a
    obtain ⟨h1, h2⟩ := List.pairwise_cons.1 h
    simp only [Store.del]
    split
    · exact ih h2
    · exact List.pairwise_cons.2 ⟨fun e he => h1 e (Store.mem_del he), ih h2⟩

theorem Store.wf_iff {α : Type} [DecidableEq α] (m : Store α) (d : α) :
    Store.wf m d = true ↔ Store.sorted m = true ∧ ∀ e ∈ m, e.2 ≠ d := by
  simp [Store.wf]

/-- A write keeps the canonical form. -/
theorem Store.set_wf {α : Type} [DecidableEq α] {m : Store α} {d : α} (n : Nat) (v : α) (h : Store.wf m d = true) :
    Store.wf (Store.set m d n v) d = true := by
  rw [Store.wf_iff] at h ⊢
  unfold Store.set
  split
  · exact ⟨Store.del_sorted n h.1, fun e he => h.2 e (Store.mem_del he)⟩
  · refine ⟨Store.put_sorted n v h.1, fun e he => ?_⟩
    rcases Store.mem_put he with rfl | he
    · assumption
    · exact h.2 e he

/-- What drops entries keeps the canonical form. -/
theorem Store.filter_wf {α : Type} [DecidableEq α] {m : Store α} {d : α} (p : Nat × α → Bool) (h : Store.wf m d = true) :
    Store.wf (m.filter p) d = true := by
  rw [Store.wf_iff, Store.sorted_iff] at h ⊢
  exact ⟨h.1.filter _, fun e he => h.2 e (List.mem_filter.1 he).1⟩

/-- What drops entries, or changes values but to the default, keeps the canonical form. -/
theorem Store.filterMap_wf {α : Type} [DecidableEq α] {m : Store α} {d : α} (g : Nat × α → Option (Nat × α))
    (hg : ∀ e x, g e = some x → x.1 = e.1) (hd : ∀ e ∈ m, ∀ x, g e = some x → x.2 ≠ d) (h : Store.wf m d = true) :
    Store.wf (m.filterMap g) d = true := by
  rw [Store.wf_iff, Store.sorted_iff] at h ⊢
  refine ⟨?_, fun x hx => ?_⟩
  · refine List.Pairwise.filterMap g (fun a b hab x hx y hy => ?_) h.1
    rw [hg a x hx, hg b y hy]
    exact hab
  · obtain ⟨e, he, hx⟩ := List.mem_filterMap.1 hx
    exact hd e he x hx

end Sys2Proof.Machine
end

