-- ==== Sys2Proof/Laws/State.lean ====
section
/-! SUPPORT. What each update of the state, of a crew and of a warp leaves unchanged, field by field; and what reading a part gives after
writing it. -/

namespace Sys2Proof.Machine

/-! ### Updates of the state -/

@[simp] theorem State.setCore_slices (s : State) (n : Nat) (c : Core) : (s.setCore n c).slices = s.slices := rfl
@[simp] theorem State.setCore_parts (s : State) (n : Nat) (c : Core) : (s.setCore n c).parts = s.parts := rfl
@[simp] theorem State.setCore_mem (s : State) (n : Nat) (c : Core) : (s.setCore n c).mem = s.mem := rfl
@[simp] theorem State.setCore_poison (s : State) (n : Nat) (c : Core) : (s.setCore n c).poison = s.poison := rfl
@[simp] theorem State.setCore_bias (s : State) (n : Nat) (c : Core) : (s.setCore n c).bias = s.bias := rfl
@[simp] theorem State.setCore_flipping (s : State) (n : Nat) (c : Core) : (s.setCore n c).flipping = s.flipping := rfl
@[simp] theorem State.setCore_hostLines (s : State) (n : Nat) (c : Core) : (s.setCore n c).hostLines = s.hostLines := rfl
@[simp] theorem State.setCore_ledger (s : State) (n : Nat) (c : Core) : (s.setCore n c).ledger = s.ledger := rfl
@[simp] theorem State.setCore_resolved (s : State) (n : Nat) (c : Core) : (s.setCore n c).resolved = s.resolved := rfl
@[simp] theorem State.setCore_raster (s : State) (n : Nat) (c : Core) : (s.setCore n c).raster = s.raster := rfl
@[simp] theorem State.setCore_conts (s : State) (n : Nat) (c : Core) : (s.setCore n c).conts = s.conts := rfl
@[simp] theorem State.setCore_qwaits (s : State) (n : Nat) (c : Core) : (s.setCore n c).qwaits = s.qwaits := rfl
@[simp] theorem State.setCore_qcommits (s : State) (n : Nat) (c : Core) : (s.setCore n c).qcommits = s.qcommits := rfl
@[simp] theorem State.setCore_qsteps (s : State) (n : Nat) (c : Core) : (s.setCore n c).qsteps = s.qsteps := rfl
@[simp] theorem State.setCore_arrivals (s : State) (n : Nat) (c : Core) : (s.setCore n c).arrivals = s.arrivals := rfl
@[simp] theorem State.setCore_qstopped (s : State) (n : Nat) (c : Core) : (s.setCore n c).qstopped = s.qstopped := rfl
@[simp] theorem State.setCore_channels (s : State) (n : Nat) (c : Core) : (s.setCore n c).channels = s.channels := rfl
@[simp] theorem State.setCore_mgmt (s : State) (n : Nat) (c : Core) : (s.setCore n c).mgmt = s.mgmt := rfl
@[simp] theorem State.setCore_hostData (s : State) (n : Nat) (c : Core) : (s.setCore n c).hostData = s.hostData := rfl
@[simp] theorem State.setCore_agenda (s : State) (n : Nat) (c : Core) : (s.setCore n c).agenda = s.agenda := rfl
@[simp] theorem State.setCore_turn (s : State) (n : Nat) (c : Core) : (s.setCore n c).turn = s.turn := rfl
@[simp] theorem State.setCore_picked (s : State) (n : Nat) (c : Core) : (s.setCore n c).picked = s.picked := rfl
@[simp] theorem State.setCore_freeCtr (s : State) (n : Nat) (c : Core) : (s.setCore n c).freeCtr = s.freeCtr := rfl
@[simp] theorem State.setCore_crewCtr (s : State) (n : Nat) (c : Core) : (s.setCore n c).crewCtr = s.crewCtr := rfl

@[simp] theorem State.setSlice_cores (s : State) (n : Nat) (x : Slice) : (s.setSlice n x).cores = s.cores := rfl
@[simp] theorem State.setSlice_parts (s : State) (n : Nat) (x : Slice) : (s.setSlice n x).parts = s.parts := rfl
@[simp] theorem State.setSlice_mem (s : State) (n : Nat) (x : Slice) : (s.setSlice n x).mem = s.mem := rfl
@[simp] theorem State.setSlice_poison (s : State) (n : Nat) (x : Slice) : (s.setSlice n x).poison = s.poison := rfl
@[simp] theorem State.setSlice_bias (s : State) (n : Nat) (x : Slice) : (s.setSlice n x).bias = s.bias := rfl
@[simp] theorem State.setSlice_flipping (s : State) (n : Nat) (x : Slice) : (s.setSlice n x).flipping = s.flipping := rfl
@[simp] theorem State.setSlice_hostLines (s : State) (n : Nat) (x : Slice) : (s.setSlice n x).hostLines = s.hostLines := rfl
@[simp] theorem State.setSlice_ledger (s : State) (n : Nat) (x : Slice) : (s.setSlice n x).ledger = s.ledger := rfl
@[simp] theorem State.setSlice_resolved (s : State) (n : Nat) (x : Slice) : (s.setSlice n x).resolved = s.resolved := rfl
@[simp] theorem State.setSlice_raster (s : State) (n : Nat) (x : Slice) : (s.setSlice n x).raster = s.raster := rfl
@[simp] theorem State.setSlice_conts (s : State) (n : Nat) (x : Slice) : (s.setSlice n x).conts = s.conts := rfl
@[simp] theorem State.setSlice_qwaits (s : State) (n : Nat) (x : Slice) : (s.setSlice n x).qwaits = s.qwaits := rfl
@[simp] theorem State.setSlice_qcommits (s : State) (n : Nat) (x : Slice) : (s.setSlice n x).qcommits = s.qcommits := rfl
@[simp] theorem State.setSlice_qsteps (s : State) (n : Nat) (x : Slice) : (s.setSlice n x).qsteps = s.qsteps := rfl
@[simp] theorem State.setSlice_arrivals (s : State) (n : Nat) (x : Slice) : (s.setSlice n x).arrivals = s.arrivals := rfl
@[simp] theorem State.setSlice_qstopped (s : State) (n : Nat) (x : Slice) : (s.setSlice n x).qstopped = s.qstopped := rfl
@[simp] theorem State.setSlice_channels (s : State) (n : Nat) (x : Slice) : (s.setSlice n x).channels = s.channels := rfl
@[simp] theorem State.setSlice_mgmt (s : State) (n : Nat) (x : Slice) : (s.setSlice n x).mgmt = s.mgmt := rfl
@[simp] theorem State.setSlice_hostData (s : State) (n : Nat) (x : Slice) : (s.setSlice n x).hostData = s.hostData := rfl
@[simp] theorem State.setSlice_agenda (s : State) (n : Nat) (x : Slice) : (s.setSlice n x).agenda = s.agenda := rfl
@[simp] theorem State.setSlice_turn (s : State) (n : Nat) (x : Slice) : (s.setSlice n x).turn = s.turn := rfl
@[simp] theorem State.setSlice_picked (s : State) (n : Nat) (x : Slice) : (s.setSlice n x).picked = s.picked := rfl
@[simp] theorem State.setSlice_freeCtr (s : State) (n : Nat) (x : Slice) : (s.setSlice n x).freeCtr = s.freeCtr := rfl
@[simp] theorem State.setSlice_crewCtr (s : State) (n : Nat) (x : Slice) : (s.setSlice n x).crewCtr = s.crewCtr := rfl

@[simp] theorem State.setPart_cores (s : State) (n : Nat) (x : Part) : (s.setPart n x).cores = s.cores := rfl
@[simp] theorem State.setPart_slices (s : State) (n : Nat) (x : Part) : (s.setPart n x).slices = s.slices := rfl
@[simp] theorem State.setPart_mem (s : State) (n : Nat) (x : Part) : (s.setPart n x).mem = s.mem := rfl
@[simp] theorem State.setPart_poison (s : State) (n : Nat) (x : Part) : (s.setPart n x).poison = s.poison := rfl
@[simp] theorem State.setPart_bias (s : State) (n : Nat) (x : Part) : (s.setPart n x).bias = s.bias := rfl
@[simp] theorem State.setPart_flipping (s : State) (n : Nat) (x : Part) : (s.setPart n x).flipping = s.flipping := rfl
@[simp] theorem State.setPart_hostLines (s : State) (n : Nat) (x : Part) : (s.setPart n x).hostLines = s.hostLines := rfl
@[simp] theorem State.setPart_ledger (s : State) (n : Nat) (x : Part) : (s.setPart n x).ledger = s.ledger := rfl
@[simp] theorem State.setPart_resolved (s : State) (n : Nat) (x : Part) : (s.setPart n x).resolved = s.resolved := rfl
@[simp] theorem State.setPart_raster (s : State) (n : Nat) (x : Part) : (s.setPart n x).raster = s.raster := rfl
@[simp] theorem State.setPart_conts (s : State) (n : Nat) (x : Part) : (s.setPart n x).conts = s.conts := rfl
@[simp] theorem State.setPart_qwaits (s : State) (n : Nat) (x : Part) : (s.setPart n x).qwaits = s.qwaits := rfl
@[simp] theorem State.setPart_qcommits (s : State) (n : Nat) (x : Part) : (s.setPart n x).qcommits = s.qcommits := rfl
@[simp] theorem State.setPart_qsteps (s : State) (n : Nat) (x : Part) : (s.setPart n x).qsteps = s.qsteps := rfl
@[simp] theorem State.setPart_arrivals (s : State) (n : Nat) (x : Part) : (s.setPart n x).arrivals = s.arrivals := rfl
@[simp] theorem State.setPart_qstopped (s : State) (n : Nat) (x : Part) : (s.setPart n x).qstopped = s.qstopped := rfl
@[simp] theorem State.setPart_channels (s : State) (n : Nat) (x : Part) : (s.setPart n x).channels = s.channels := rfl
@[simp] theorem State.setPart_mgmt (s : State) (n : Nat) (x : Part) : (s.setPart n x).mgmt = s.mgmt := rfl
@[simp] theorem State.setPart_hostData (s : State) (n : Nat) (x : Part) : (s.setPart n x).hostData = s.hostData := rfl
@[simp] theorem State.setPart_agenda (s : State) (n : Nat) (x : Part) : (s.setPart n x).agenda = s.agenda := rfl
@[simp] theorem State.setPart_turn (s : State) (n : Nat) (x : Part) : (s.setPart n x).turn = s.turn := rfl
@[simp] theorem State.setPart_picked (s : State) (n : Nat) (x : Part) : (s.setPart n x).picked = s.picked := rfl
@[simp] theorem State.setPart_freeCtr (s : State) (n : Nat) (x : Part) : (s.setPart n x).freeCtr = s.freeCtr := rfl
@[simp] theorem State.setPart_crewCtr (s : State) (n : Nat) (x : Part) : (s.setPart n x).crewCtr = s.crewCtr := rfl

@[simp] theorem State.setUnit_cores (s : State) (n : Nat) (x : RasterUnit) : (s.setUnit n x).cores = s.cores := rfl
@[simp] theorem State.setUnit_slices (s : State) (n : Nat) (x : RasterUnit) : (s.setUnit n x).slices = s.slices := rfl
@[simp] theorem State.setUnit_parts (s : State) (n : Nat) (x : RasterUnit) : (s.setUnit n x).parts = s.parts := rfl
@[simp] theorem State.setUnit_mem (s : State) (n : Nat) (x : RasterUnit) : (s.setUnit n x).mem = s.mem := rfl
@[simp] theorem State.setUnit_poison (s : State) (n : Nat) (x : RasterUnit) : (s.setUnit n x).poison = s.poison := rfl
@[simp] theorem State.setUnit_bias (s : State) (n : Nat) (x : RasterUnit) : (s.setUnit n x).bias = s.bias := rfl
@[simp] theorem State.setUnit_flipping (s : State) (n : Nat) (x : RasterUnit) : (s.setUnit n x).flipping = s.flipping := rfl
@[simp] theorem State.setUnit_hostLines (s : State) (n : Nat) (x : RasterUnit) : (s.setUnit n x).hostLines = s.hostLines := rfl
@[simp] theorem State.setUnit_ledger (s : State) (n : Nat) (x : RasterUnit) : (s.setUnit n x).ledger = s.ledger := rfl
@[simp] theorem State.setUnit_resolved (s : State) (n : Nat) (x : RasterUnit) : (s.setUnit n x).resolved = s.resolved := rfl
@[simp] theorem State.setUnit_conts (s : State) (n : Nat) (x : RasterUnit) : (s.setUnit n x).conts = s.conts := rfl
@[simp] theorem State.setUnit_qwaits (s : State) (n : Nat) (x : RasterUnit) : (s.setUnit n x).qwaits = s.qwaits := rfl
@[simp] theorem State.setUnit_qcommits (s : State) (n : Nat) (x : RasterUnit) : (s.setUnit n x).qcommits = s.qcommits := rfl
@[simp] theorem State.setUnit_qsteps (s : State) (n : Nat) (x : RasterUnit) : (s.setUnit n x).qsteps = s.qsteps := rfl
@[simp] theorem State.setUnit_arrivals (s : State) (n : Nat) (x : RasterUnit) : (s.setUnit n x).arrivals = s.arrivals := rfl
@[simp] theorem State.setUnit_qstopped (s : State) (n : Nat) (x : RasterUnit) : (s.setUnit n x).qstopped = s.qstopped := rfl
@[simp] theorem State.setUnit_channels (s : State) (n : Nat) (x : RasterUnit) : (s.setUnit n x).channels = s.channels := rfl
@[simp] theorem State.setUnit_mgmt (s : State) (n : Nat) (x : RasterUnit) : (s.setUnit n x).mgmt = s.mgmt := rfl
@[simp] theorem State.setUnit_hostData (s : State) (n : Nat) (x : RasterUnit) : (s.setUnit n x).hostData = s.hostData := rfl
@[simp] theorem State.setUnit_agenda (s : State) (n : Nat) (x : RasterUnit) : (s.setUnit n x).agenda = s.agenda := rfl
@[simp] theorem State.setUnit_turn (s : State) (n : Nat) (x : RasterUnit) : (s.setUnit n x).turn = s.turn := rfl
@[simp] theorem State.setUnit_picked (s : State) (n : Nat) (x : RasterUnit) : (s.setUnit n x).picked = s.picked := rfl
@[simp] theorem State.setUnit_freeCtr (s : State) (n : Nat) (x : RasterUnit) : (s.setUnit n x).freeCtr = s.freeCtr := rfl
@[simp] theorem State.setUnit_crewCtr (s : State) (n : Nat) (x : RasterUnit) : (s.setUnit n x).crewCtr = s.crewCtr := rfl

@[simp] theorem State.setCrew_slices (s : State) (n k : Nat) (cr : Crew) : (s.setCrew n k cr).slices = s.slices := rfl
@[simp] theorem State.setCrew_parts (s : State) (n k : Nat) (cr : Crew) : (s.setCrew n k cr).parts = s.parts := rfl
@[simp] theorem State.setCrew_mem (s : State) (n k : Nat) (cr : Crew) : (s.setCrew n k cr).mem = s.mem := rfl
@[simp] theorem State.setCrew_poison (s : State) (n k : Nat) (cr : Crew) : (s.setCrew n k cr).poison = s.poison := rfl
@[simp] theorem State.setCrew_bias (s : State) (n k : Nat) (cr : Crew) : (s.setCrew n k cr).bias = s.bias := rfl
@[simp] theorem State.setCrew_flipping (s : State) (n k : Nat) (cr : Crew) : (s.setCrew n k cr).flipping = s.flipping := rfl
@[simp] theorem State.setCrew_hostLines (s : State) (n k : Nat) (cr : Crew) : (s.setCrew n k cr).hostLines = s.hostLines := rfl
@[simp] theorem State.setCrew_ledger (s : State) (n k : Nat) (cr : Crew) : (s.setCrew n k cr).ledger = s.ledger := rfl
@[simp] theorem State.setCrew_resolved (s : State) (n k : Nat) (cr : Crew) : (s.setCrew n k cr).resolved = s.resolved := rfl
@[simp] theorem State.setCrew_raster (s : State) (n k : Nat) (cr : Crew) : (s.setCrew n k cr).raster = s.raster := rfl
@[simp] theorem State.setCrew_conts (s : State) (n k : Nat) (cr : Crew) : (s.setCrew n k cr).conts = s.conts := rfl
@[simp] theorem State.setCrew_qwaits (s : State) (n k : Nat) (cr : Crew) : (s.setCrew n k cr).qwaits = s.qwaits := rfl
@[simp] theorem State.setCrew_qcommits (s : State) (n k : Nat) (cr : Crew) : (s.setCrew n k cr).qcommits = s.qcommits := rfl
@[simp] theorem State.setCrew_qsteps (s : State) (n k : Nat) (cr : Crew) : (s.setCrew n k cr).qsteps = s.qsteps := rfl
@[simp] theorem State.setCrew_arrivals (s : State) (n k : Nat) (cr : Crew) : (s.setCrew n k cr).arrivals = s.arrivals := rfl
@[simp] theorem State.setCrew_qstopped (s : State) (n k : Nat) (cr : Crew) : (s.setCrew n k cr).qstopped = s.qstopped := rfl
@[simp] theorem State.setCrew_channels (s : State) (n k : Nat) (cr : Crew) : (s.setCrew n k cr).channels = s.channels := rfl
@[simp] theorem State.setCrew_mgmt (s : State) (n k : Nat) (cr : Crew) : (s.setCrew n k cr).mgmt = s.mgmt := rfl
@[simp] theorem State.setCrew_hostData (s : State) (n k : Nat) (cr : Crew) : (s.setCrew n k cr).hostData = s.hostData := rfl
@[simp] theorem State.setCrew_agenda (s : State) (n k : Nat) (cr : Crew) : (s.setCrew n k cr).agenda = s.agenda := rfl
@[simp] theorem State.setCrew_turn (s : State) (n k : Nat) (cr : Crew) : (s.setCrew n k cr).turn = s.turn := rfl
@[simp] theorem State.setCrew_picked (s : State) (n k : Nat) (cr : Crew) : (s.setCrew n k cr).picked = s.picked := rfl
@[simp] theorem State.setCrew_freeCtr (s : State) (n k : Nat) (cr : Crew) : (s.setCrew n k cr).freeCtr = s.freeCtr := rfl
@[simp] theorem State.setCrew_crewCtr (s : State) (n k : Nat) (cr : Crew) : (s.setCrew n k cr).crewCtr = s.crewCtr := rfl

@[simp] theorem State.setWarp_slices (s : State) (n k i : Nat) (w : Warp) : (s.setWarp n k i w).slices = s.slices := by unfold State.setWarp; split <;> rfl
@[simp] theorem State.setWarp_parts (s : State) (n k i : Nat) (w : Warp) : (s.setWarp n k i w).parts = s.parts := by unfold State.setWarp; split <;> rfl
@[simp] theorem State.setWarp_mem (s : State) (n k i : Nat) (w : Warp) : (s.setWarp n k i w).mem = s.mem := by unfold State.setWarp; split <;> rfl
@[simp] theorem State.setWarp_poison (s : State) (n k i : Nat) (w : Warp) : (s.setWarp n k i w).poison = s.poison := by unfold State.setWarp; split <;> rfl
@[simp] theorem State.setWarp_bias (s : State) (n k i : Nat) (w : Warp) : (s.setWarp n k i w).bias = s.bias := by unfold State.setWarp; split <;> rfl
@[simp] theorem State.setWarp_flipping (s : State) (n k i : Nat) (w : Warp) : (s.setWarp n k i w).flipping = s.flipping := by unfold State.setWarp; split <;> rfl
@[simp] theorem State.setWarp_hostLines (s : State) (n k i : Nat) (w : Warp) : (s.setWarp n k i w).hostLines = s.hostLines := by unfold State.setWarp; split <;> rfl
@[simp] theorem State.setWarp_ledger (s : State) (n k i : Nat) (w : Warp) : (s.setWarp n k i w).ledger = s.ledger := by unfold State.setWarp; split <;> rfl
@[simp] theorem State.setWarp_resolved (s : State) (n k i : Nat) (w : Warp) : (s.setWarp n k i w).resolved = s.resolved := by unfold State.setWarp; split <;> rfl
@[simp] theorem State.setWarp_raster (s : State) (n k i : Nat) (w : Warp) : (s.setWarp n k i w).raster = s.raster := by unfold State.setWarp; split <;> rfl
@[simp] theorem State.setWarp_conts (s : State) (n k i : Nat) (w : Warp) : (s.setWarp n k i w).conts = s.conts := by unfold State.setWarp; split <;> rfl
@[simp] theorem State.setWarp_qwaits (s : State) (n k i : Nat) (w : Warp) : (s.setWarp n k i w).qwaits = s.qwaits := by unfold State.setWarp; split <;> rfl
@[simp] theorem State.setWarp_qcommits (s : State) (n k i : Nat) (w : Warp) : (s.setWarp n k i w).qcommits = s.qcommits := by unfold State.setWarp; split <;> rfl
@[simp] theorem State.setWarp_qsteps (s : State) (n k i : Nat) (w : Warp) : (s.setWarp n k i w).qsteps = s.qsteps := by unfold State.setWarp; split <;> rfl
@[simp] theorem State.setWarp_arrivals (s : State) (n k i : Nat) (w : Warp) : (s.setWarp n k i w).arrivals = s.arrivals := by unfold State.setWarp; split <;> rfl
@[simp] theorem State.setWarp_qstopped (s : State) (n k i : Nat) (w : Warp) : (s.setWarp n k i w).qstopped = s.qstopped := by unfold State.setWarp; split <;> rfl
@[simp] theorem State.setWarp_channels (s : State) (n k i : Nat) (w : Warp) : (s.setWarp n k i w).channels = s.channels := by unfold State.setWarp; split <;> rfl
@[simp] theorem State.setWarp_mgmt (s : State) (n k i : Nat) (w : Warp) : (s.setWarp n k i w).mgmt = s.mgmt := by unfold State.setWarp; split <;> rfl
@[simp] theorem State.setWarp_hostData (s : State) (n k i : Nat) (w : Warp) : (s.setWarp n k i w).hostData = s.hostData := by unfold State.setWarp; split <;> rfl
@[simp] theorem State.setWarp_agenda (s : State) (n k i : Nat) (w : Warp) : (s.setWarp n k i w).agenda = s.agenda := by unfold State.setWarp; split <;> rfl
@[simp] theorem State.setWarp_turn (s : State) (n k i : Nat) (w : Warp) : (s.setWarp n k i w).turn = s.turn := by unfold State.setWarp; split <;> rfl
@[simp] theorem State.setWarp_picked (s : State) (n k i : Nat) (w : Warp) : (s.setWarp n k i w).picked = s.picked := by unfold State.setWarp; split <;> rfl
@[simp] theorem State.setWarp_freeCtr (s : State) (n k i : Nat) (w : Warp) : (s.setWarp n k i w).freeCtr = s.freeCtr := by unfold State.setWarp; split <;> rfl
@[simp] theorem State.setWarp_crewCtr (s : State) (n k i : Nat) (w : Warp) : (s.setWarp n k i w).crewCtr = s.crewCtr := by unfold State.setWarp; split <;> rfl

@[simp] theorem State.mapCrews_slices (s : State) (f : Crew → Crew) : (s.mapCrews f).slices = s.slices := rfl
@[simp] theorem State.mapCrews_mem (s : State) (f : Crew → Crew) : (s.mapCrews f).mem = s.mem := rfl
@[simp] theorem State.mapCrews_poison (s : State) (f : Crew → Crew) : (s.mapCrews f).poison = s.poison := rfl
@[simp] theorem State.mapCrews_bias (s : State) (f : Crew → Crew) : (s.mapCrews f).bias = s.bias := rfl
@[simp] theorem State.mapCrews_flipping (s : State) (f : Crew → Crew) : (s.mapCrews f).flipping = s.flipping := rfl
@[simp] theorem State.mapCrews_hostLines (s : State) (f : Crew → Crew) : (s.mapCrews f).hostLines = s.hostLines := rfl
@[simp] theorem State.mapCrews_ledger (s : State) (f : Crew → Crew) : (s.mapCrews f).ledger = s.ledger := rfl
@[simp] theorem State.mapCrews_resolved (s : State) (f : Crew → Crew) : (s.mapCrews f).resolved = s.resolved := rfl
@[simp] theorem State.mapCrews_raster (s : State) (f : Crew → Crew) : (s.mapCrews f).raster = s.raster := rfl
@[simp] theorem State.mapCrews_conts (s : State) (f : Crew → Crew) : (s.mapCrews f).conts = s.conts := rfl
@[simp] theorem State.mapCrews_qwaits (s : State) (f : Crew → Crew) : (s.mapCrews f).qwaits = s.qwaits := rfl
@[simp] theorem State.mapCrews_qcommits (s : State) (f : Crew → Crew) : (s.mapCrews f).qcommits = s.qcommits := rfl
@[simp] theorem State.mapCrews_qsteps (s : State) (f : Crew → Crew) : (s.mapCrews f).qsteps = s.qsteps := rfl
@[simp] theorem State.mapCrews_arrivals (s : State) (f : Crew → Crew) : (s.mapCrews f).arrivals = s.arrivals := rfl
@[simp] theorem State.mapCrews_qstopped (s : State) (f : Crew → Crew) : (s.mapCrews f).qstopped = s.qstopped := rfl
@[simp] theorem State.mapCrews_channels (s : State) (f : Crew → Crew) : (s.mapCrews f).channels = s.channels := rfl
@[simp] theorem State.mapCrews_mgmt (s : State) (f : Crew → Crew) : (s.mapCrews f).mgmt = s.mgmt := rfl
@[simp] theorem State.mapCrews_hostData (s : State) (f : Crew → Crew) : (s.mapCrews f).hostData = s.hostData := rfl
@[simp] theorem State.mapCrews_agenda (s : State) (f : Crew → Crew) : (s.mapCrews f).agenda = s.agenda := rfl
@[simp] theorem State.mapCrews_turn (s : State) (f : Crew → Crew) : (s.mapCrews f).turn = s.turn := rfl
@[simp] theorem State.mapCrews_picked (s : State) (f : Crew → Crew) : (s.mapCrews f).picked = s.picked := rfl
@[simp] theorem State.mapCrews_freeCtr (s : State) (f : Crew → Crew) : (s.mapCrews f).freeCtr = s.freeCtr := rfl
@[simp] theorem State.mapCrews_crewCtr (s : State) (f : Crew → Crew) : (s.mapCrews f).crewCtr = s.crewCtr := rfl

@[simp] theorem State.updCrew_slices (s : State) (uid : Nat) (f : Crew → Crew) : (s.updCrew uid f).slices = s.slices := rfl
@[simp] theorem State.updCrew_mem (s : State) (uid : Nat) (f : Crew → Crew) : (s.updCrew uid f).mem = s.mem := rfl
@[simp] theorem State.updCrew_poison (s : State) (uid : Nat) (f : Crew → Crew) : (s.updCrew uid f).poison = s.poison := rfl
@[simp] theorem State.updCrew_bias (s : State) (uid : Nat) (f : Crew → Crew) : (s.updCrew uid f).bias = s.bias := rfl
@[simp] theorem State.updCrew_flipping (s : State) (uid : Nat) (f : Crew → Crew) : (s.updCrew uid f).flipping = s.flipping := rfl
@[simp] theorem State.updCrew_hostLines (s : State) (uid : Nat) (f : Crew → Crew) : (s.updCrew uid f).hostLines = s.hostLines := rfl
@[simp] theorem State.updCrew_ledger (s : State) (uid : Nat) (f : Crew → Crew) : (s.updCrew uid f).ledger = s.ledger := rfl
@[simp] theorem State.updCrew_resolved (s : State) (uid : Nat) (f : Crew → Crew) : (s.updCrew uid f).resolved = s.resolved := rfl
@[simp] theorem State.updCrew_raster (s : State) (uid : Nat) (f : Crew → Crew) : (s.updCrew uid f).raster = s.raster := rfl
@[simp] theorem State.updCrew_conts (s : State) (uid : Nat) (f : Crew → Crew) : (s.updCrew uid f).conts = s.conts := rfl
@[simp] theorem State.updCrew_qwaits (s : State) (uid : Nat) (f : Crew → Crew) : (s.updCrew uid f).qwaits = s.qwaits := rfl
@[simp] theorem State.updCrew_qcommits (s : State) (uid : Nat) (f : Crew → Crew) : (s.updCrew uid f).qcommits = s.qcommits := rfl
@[simp] theorem State.updCrew_qsteps (s : State) (uid : Nat) (f : Crew → Crew) : (s.updCrew uid f).qsteps = s.qsteps := rfl
@[simp] theorem State.updCrew_arrivals (s : State) (uid : Nat) (f : Crew → Crew) : (s.updCrew uid f).arrivals = s.arrivals := rfl
@[simp] theorem State.updCrew_qstopped (s : State) (uid : Nat) (f : Crew → Crew) : (s.updCrew uid f).qstopped = s.qstopped := rfl
@[simp] theorem State.updCrew_channels (s : State) (uid : Nat) (f : Crew → Crew) : (s.updCrew uid f).channels = s.channels := rfl
@[simp] theorem State.updCrew_mgmt (s : State) (uid : Nat) (f : Crew → Crew) : (s.updCrew uid f).mgmt = s.mgmt := rfl
@[simp] theorem State.updCrew_hostData (s : State) (uid : Nat) (f : Crew → Crew) : (s.updCrew uid f).hostData = s.hostData := rfl
@[simp] theorem State.updCrew_agenda (s : State) (uid : Nat) (f : Crew → Crew) : (s.updCrew uid f).agenda = s.agenda := rfl
@[simp] theorem State.updCrew_turn (s : State) (uid : Nat) (f : Crew → Crew) : (s.updCrew uid f).turn = s.turn := rfl
@[simp] theorem State.updCrew_picked (s : State) (uid : Nat) (f : Crew → Crew) : (s.updCrew uid f).picked = s.picked := rfl
@[simp] theorem State.updCrew_freeCtr (s : State) (uid : Nat) (f : Crew → Crew) : (s.updCrew uid f).freeCtr = s.freeCtr := rfl
@[simp] theorem State.updCrew_crewCtr (s : State) (uid : Nat) (f : Crew → Crew) : (s.updCrew uid f).crewCtr = s.crewCtr := rfl

@[simp] theorem State.mapSplits_slices (s : State) (f : Split → Split) : (s.mapSplits f).slices = s.slices := rfl
@[simp] theorem State.mapSplits_mem (s : State) (f : Split → Split) : (s.mapSplits f).mem = s.mem := rfl
@[simp] theorem State.mapSplits_poison (s : State) (f : Split → Split) : (s.mapSplits f).poison = s.poison := rfl
@[simp] theorem State.mapSplits_bias (s : State) (f : Split → Split) : (s.mapSplits f).bias = s.bias := rfl
@[simp] theorem State.mapSplits_flipping (s : State) (f : Split → Split) : (s.mapSplits f).flipping = s.flipping := rfl
@[simp] theorem State.mapSplits_hostLines (s : State) (f : Split → Split) : (s.mapSplits f).hostLines = s.hostLines := rfl
@[simp] theorem State.mapSplits_ledger (s : State) (f : Split → Split) : (s.mapSplits f).ledger = s.ledger := rfl
@[simp] theorem State.mapSplits_resolved (s : State) (f : Split → Split) : (s.mapSplits f).resolved = s.resolved := rfl
@[simp] theorem State.mapSplits_raster (s : State) (f : Split → Split) : (s.mapSplits f).raster = s.raster := rfl
@[simp] theorem State.mapSplits_conts (s : State) (f : Split → Split) : (s.mapSplits f).conts = s.conts := rfl
@[simp] theorem State.mapSplits_qwaits (s : State) (f : Split → Split) : (s.mapSplits f).qwaits = s.qwaits := rfl
@[simp] theorem State.mapSplits_qcommits (s : State) (f : Split → Split) : (s.mapSplits f).qcommits = s.qcommits := rfl
@[simp] theorem State.mapSplits_qsteps (s : State) (f : Split → Split) : (s.mapSplits f).qsteps = s.qsteps := rfl
@[simp] theorem State.mapSplits_arrivals (s : State) (f : Split → Split) : (s.mapSplits f).arrivals = s.arrivals := rfl
@[simp] theorem State.mapSplits_qstopped (s : State) (f : Split → Split) : (s.mapSplits f).qstopped = s.qstopped := rfl
@[simp] theorem State.mapSplits_channels (s : State) (f : Split → Split) : (s.mapSplits f).channels = s.channels := rfl
@[simp] theorem State.mapSplits_mgmt (s : State) (f : Split → Split) : (s.mapSplits f).mgmt = s.mgmt := rfl
@[simp] theorem State.mapSplits_hostData (s : State) (f : Split → Split) : (s.mapSplits f).hostData = s.hostData := rfl
@[simp] theorem State.mapSplits_agenda (s : State) (f : Split → Split) : (s.mapSplits f).agenda = s.agenda := rfl
@[simp] theorem State.mapSplits_turn (s : State) (f : Split → Split) : (s.mapSplits f).turn = s.turn := rfl
@[simp] theorem State.mapSplits_picked (s : State) (f : Split → Split) : (s.mapSplits f).picked = s.picked := rfl
@[simp] theorem State.mapSplits_freeCtr (s : State) (f : Split → Split) : (s.mapSplits f).freeCtr = s.freeCtr := rfl
@[simp] theorem State.mapSplits_crewCtr (s : State) (f : Split → Split) : (s.mapSplits f).crewCtr = s.crewCtr := rfl

@[simp] theorem State.countCore_slices (s : State) (n i k : Nat) : (s.countCore n i k).slices = s.slices := rfl
@[simp] theorem State.countCore_parts (s : State) (n i k : Nat) : (s.countCore n i k).parts = s.parts := rfl
@[simp] theorem State.countCore_mem (s : State) (n i k : Nat) : (s.countCore n i k).mem = s.mem := rfl
@[simp] theorem State.countCore_poison (s : State) (n i k : Nat) : (s.countCore n i k).poison = s.poison := rfl
@[simp] theorem State.countCore_bias (s : State) (n i k : Nat) : (s.countCore n i k).bias = s.bias := rfl
@[simp] theorem State.countCore_flipping (s : State) (n i k : Nat) : (s.countCore n i k).flipping = s.flipping := rfl
@[simp] theorem State.countCore_hostLines (s : State) (n i k : Nat) : (s.countCore n i k).hostLines = s.hostLines := rfl
@[simp] theorem State.countCore_ledger (s : State) (n i k : Nat) : (s.countCore n i k).ledger = s.ledger := rfl
@[simp] theorem State.countCore_resolved (s : State) (n i k : Nat) : (s.countCore n i k).resolved = s.resolved := rfl
@[simp] theorem State.countCore_raster (s : State) (n i k : Nat) : (s.countCore n i k).raster = s.raster := rfl
@[simp] theorem State.countCore_conts (s : State) (n i k : Nat) : (s.countCore n i k).conts = s.conts := rfl
@[simp] theorem State.countCore_qwaits (s : State) (n i k : Nat) : (s.countCore n i k).qwaits = s.qwaits := rfl
@[simp] theorem State.countCore_qcommits (s : State) (n i k : Nat) : (s.countCore n i k).qcommits = s.qcommits := rfl
@[simp] theorem State.countCore_qsteps (s : State) (n i k : Nat) : (s.countCore n i k).qsteps = s.qsteps := rfl
@[simp] theorem State.countCore_arrivals (s : State) (n i k : Nat) : (s.countCore n i k).arrivals = s.arrivals := rfl
@[simp] theorem State.countCore_qstopped (s : State) (n i k : Nat) : (s.countCore n i k).qstopped = s.qstopped := rfl
@[simp] theorem State.countCore_channels (s : State) (n i k : Nat) : (s.countCore n i k).channels = s.channels := rfl
@[simp] theorem State.countCore_mgmt (s : State) (n i k : Nat) : (s.countCore n i k).mgmt = s.mgmt := rfl
@[simp] theorem State.countCore_hostData (s : State) (n i k : Nat) : (s.countCore n i k).hostData = s.hostData := rfl
@[simp] theorem State.countCore_agenda (s : State) (n i k : Nat) : (s.countCore n i k).agenda = s.agenda := rfl
@[simp] theorem State.countCore_turn (s : State) (n i k : Nat) : (s.countCore n i k).turn = s.turn := rfl
@[simp] theorem State.countCore_picked (s : State) (n i k : Nat) : (s.countCore n i k).picked = s.picked := rfl
@[simp] theorem State.countCore_freeCtr (s : State) (n i k : Nat) : (s.countCore n i k).freeCtr = s.freeCtr := rfl
@[simp] theorem State.countCore_crewCtr (s : State) (n i k : Nat) : (s.countCore n i k).crewCtr = s.crewCtr := rfl

@[simp] theorem State.countSlice_cores (s : State) (n i k : Nat) : (s.countSlice n i k).cores = s.cores := rfl
@[simp] theorem State.countSlice_parts (s : State) (n i k : Nat) : (s.countSlice n i k).parts = s.parts := rfl
@[simp] theorem State.countSlice_mem (s : State) (n i k : Nat) : (s.countSlice n i k).mem = s.mem := rfl
@[simp] theorem State.countSlice_poison (s : State) (n i k : Nat) : (s.countSlice n i k).poison = s.poison := rfl
@[simp] theorem State.countSlice_bias (s : State) (n i k : Nat) : (s.countSlice n i k).bias = s.bias := rfl
@[simp] theorem State.countSlice_flipping (s : State) (n i k : Nat) : (s.countSlice n i k).flipping = s.flipping := rfl
@[simp] theorem State.countSlice_hostLines (s : State) (n i k : Nat) : (s.countSlice n i k).hostLines = s.hostLines := rfl
@[simp] theorem State.countSlice_ledger (s : State) (n i k : Nat) : (s.countSlice n i k).ledger = s.ledger := rfl
@[simp] theorem State.countSlice_resolved (s : State) (n i k : Nat) : (s.countSlice n i k).resolved = s.resolved := rfl
@[simp] theorem State.countSlice_raster (s : State) (n i k : Nat) : (s.countSlice n i k).raster = s.raster := rfl
@[simp] theorem State.countSlice_conts (s : State) (n i k : Nat) : (s.countSlice n i k).conts = s.conts := rfl
@[simp] theorem State.countSlice_qwaits (s : State) (n i k : Nat) : (s.countSlice n i k).qwaits = s.qwaits := rfl
@[simp] theorem State.countSlice_qcommits (s : State) (n i k : Nat) : (s.countSlice n i k).qcommits = s.qcommits := rfl
@[simp] theorem State.countSlice_qsteps (s : State) (n i k : Nat) : (s.countSlice n i k).qsteps = s.qsteps := rfl
@[simp] theorem State.countSlice_arrivals (s : State) (n i k : Nat) : (s.countSlice n i k).arrivals = s.arrivals := rfl
@[simp] theorem State.countSlice_qstopped (s : State) (n i k : Nat) : (s.countSlice n i k).qstopped = s.qstopped := rfl
@[simp] theorem State.countSlice_channels (s : State) (n i k : Nat) : (s.countSlice n i k).channels = s.channels := rfl
@[simp] theorem State.countSlice_mgmt (s : State) (n i k : Nat) : (s.countSlice n i k).mgmt = s.mgmt := rfl
@[simp] theorem State.countSlice_hostData (s : State) (n i k : Nat) : (s.countSlice n i k).hostData = s.hostData := rfl
@[simp] theorem State.countSlice_agenda (s : State) (n i k : Nat) : (s.countSlice n i k).agenda = s.agenda := rfl
@[simp] theorem State.countSlice_turn (s : State) (n i k : Nat) : (s.countSlice n i k).turn = s.turn := rfl
@[simp] theorem State.countSlice_picked (s : State) (n i k : Nat) : (s.countSlice n i k).picked = s.picked := rfl
@[simp] theorem State.countSlice_freeCtr (s : State) (n i k : Nat) : (s.countSlice n i k).freeCtr = s.freeCtr := rfl
@[simp] theorem State.countSlice_crewCtr (s : State) (n i k : Nat) : (s.countSlice n i k).crewCtr = s.crewCtr := rfl

@[simp] theorem State.setRack_cores (s : State) (n e : Nat) (x : RackEnt) : (s.setRack n e x).cores = s.cores := rfl
@[simp] theorem State.setRack_parts (s : State) (n e : Nat) (x : RackEnt) : (s.setRack n e x).parts = s.parts := rfl
@[simp] theorem State.setRack_mem (s : State) (n e : Nat) (x : RackEnt) : (s.setRack n e x).mem = s.mem := rfl
@[simp] theorem State.setRack_poison (s : State) (n e : Nat) (x : RackEnt) : (s.setRack n e x).poison = s.poison := rfl
@[simp] theorem State.setRack_bias (s : State) (n e : Nat) (x : RackEnt) : (s.setRack n e x).bias = s.bias := rfl
@[simp] theorem State.setRack_flipping (s : State) (n e : Nat) (x : RackEnt) : (s.setRack n e x).flipping = s.flipping := rfl
@[simp] theorem State.setRack_hostLines (s : State) (n e : Nat) (x : RackEnt) : (s.setRack n e x).hostLines = s.hostLines := rfl
@[simp] theorem State.setRack_ledger (s : State) (n e : Nat) (x : RackEnt) : (s.setRack n e x).ledger = s.ledger := rfl
@[simp] theorem State.setRack_resolved (s : State) (n e : Nat) (x : RackEnt) : (s.setRack n e x).resolved = s.resolved := rfl
@[simp] theorem State.setRack_raster (s : State) (n e : Nat) (x : RackEnt) : (s.setRack n e x).raster = s.raster := rfl
@[simp] theorem State.setRack_conts (s : State) (n e : Nat) (x : RackEnt) : (s.setRack n e x).conts = s.conts := rfl
@[simp] theorem State.setRack_qwaits (s : State) (n e : Nat) (x : RackEnt) : (s.setRack n e x).qwaits = s.qwaits := rfl
@[simp] theorem State.setRack_qcommits (s : State) (n e : Nat) (x : RackEnt) : (s.setRack n e x).qcommits = s.qcommits := rfl
@[simp] theorem State.setRack_qsteps (s : State) (n e : Nat) (x : RackEnt) : (s.setRack n e x).qsteps = s.qsteps := rfl
@[simp] theorem State.setRack_arrivals (s : State) (n e : Nat) (x : RackEnt) : (s.setRack n e x).arrivals = s.arrivals := rfl
@[simp] theorem State.setRack_qstopped (s : State) (n e : Nat) (x : RackEnt) : (s.setRack n e x).qstopped = s.qstopped := rfl
@[simp] theorem State.setRack_channels (s : State) (n e : Nat) (x : RackEnt) : (s.setRack n e x).channels = s.channels := rfl
@[simp] theorem State.setRack_mgmt (s : State) (n e : Nat) (x : RackEnt) : (s.setRack n e x).mgmt = s.mgmt := rfl
@[simp] theorem State.setRack_hostData (s : State) (n e : Nat) (x : RackEnt) : (s.setRack n e x).hostData = s.hostData := rfl
@[simp] theorem State.setRack_agenda (s : State) (n e : Nat) (x : RackEnt) : (s.setRack n e x).agenda = s.agenda := rfl
@[simp] theorem State.setRack_turn (s : State) (n e : Nat) (x : RackEnt) : (s.setRack n e x).turn = s.turn := rfl
@[simp] theorem State.setRack_picked (s : State) (n e : Nat) (x : RackEnt) : (s.setRack n e x).picked = s.picked := rfl
@[simp] theorem State.setRack_freeCtr (s : State) (n e : Nat) (x : RackEnt) : (s.setRack n e x).freeCtr = s.freeCtr := rfl
@[simp] theorem State.setRack_crewCtr (s : State) (n e : Nat) (x : RackEnt) : (s.setRack n e x).crewCtr = s.crewCtr := rfl

@[simp] theorem State.freeRack_cores (s : State) (n e : Nat) : (s.freeRack n e).cores = s.cores := rfl
@[simp] theorem State.freeRack_parts (s : State) (n e : Nat) : (s.freeRack n e).parts = s.parts := rfl
@[simp] theorem State.freeRack_mem (s : State) (n e : Nat) : (s.freeRack n e).mem = s.mem := rfl
@[simp] theorem State.freeRack_poison (s : State) (n e : Nat) : (s.freeRack n e).poison = s.poison := rfl
@[simp] theorem State.freeRack_bias (s : State) (n e : Nat) : (s.freeRack n e).bias = s.bias := rfl
@[simp] theorem State.freeRack_flipping (s : State) (n e : Nat) : (s.freeRack n e).flipping = s.flipping := rfl
@[simp] theorem State.freeRack_hostLines (s : State) (n e : Nat) : (s.freeRack n e).hostLines = s.hostLines := rfl
@[simp] theorem State.freeRack_resolved (s : State) (n e : Nat) : (s.freeRack n e).resolved = s.resolved := rfl
@[simp] theorem State.freeRack_raster (s : State) (n e : Nat) : (s.freeRack n e).raster = s.raster := rfl
@[simp] theorem State.freeRack_conts (s : State) (n e : Nat) : (s.freeRack n e).conts = s.conts := rfl
@[simp] theorem State.freeRack_qwaits (s : State) (n e : Nat) : (s.freeRack n e).qwaits = s.qwaits := rfl
@[simp] theorem State.freeRack_qcommits (s : State) (n e : Nat) : (s.freeRack n e).qcommits = s.qcommits := rfl
@[simp] theorem State.freeRack_qsteps (s : State) (n e : Nat) : (s.freeRack n e).qsteps = s.qsteps := rfl
@[simp] theorem State.freeRack_arrivals (s : State) (n e : Nat) : (s.freeRack n e).arrivals = s.arrivals := rfl
@[simp] theorem State.freeRack_qstopped (s : State) (n e : Nat) : (s.freeRack n e).qstopped = s.qstopped := rfl
@[simp] theorem State.freeRack_channels (s : State) (n e : Nat) : (s.freeRack n e).channels = s.channels := rfl
@[simp] theorem State.freeRack_mgmt (s : State) (n e : Nat) : (s.freeRack n e).mgmt = s.mgmt := rfl
@[simp] theorem State.freeRack_hostData (s : State) (n e : Nat) : (s.freeRack n e).hostData = s.hostData := rfl
@[simp] theorem State.freeRack_agenda (s : State) (n e : Nat) : (s.freeRack n e).agenda = s.agenda := rfl
@[simp] theorem State.freeRack_turn (s : State) (n e : Nat) : (s.freeRack n e).turn = s.turn := rfl
@[simp] theorem State.freeRack_picked (s : State) (n e : Nat) : (s.freeRack n e).picked = s.picked := rfl
@[simp] theorem State.freeRack_freeCtr (s : State) (n e : Nat) : (s.freeRack n e).freeCtr = s.freeCtr := rfl
@[simp] theorem State.freeRack_crewCtr (s : State) (n e : Nat) : (s.freeRack n e).crewCtr = s.crewCtr := rfl

@[simp] theorem State.addRecord_cores (s : State) (p : Nat) (r : Record) : (s.addRecord p r).cores = s.cores := rfl
@[simp] theorem State.addRecord_slices (s : State) (p : Nat) (r : Record) : (s.addRecord p r).slices = s.slices := rfl
@[simp] theorem State.addRecord_mem (s : State) (p : Nat) (r : Record) : (s.addRecord p r).mem = s.mem := rfl
@[simp] theorem State.addRecord_poison (s : State) (p : Nat) (r : Record) : (s.addRecord p r).poison = s.poison := rfl
@[simp] theorem State.addRecord_bias (s : State) (p : Nat) (r : Record) : (s.addRecord p r).bias = s.bias := rfl
@[simp] theorem State.addRecord_flipping (s : State) (p : Nat) (r : Record) : (s.addRecord p r).flipping = s.flipping := rfl
@[simp] theorem State.addRecord_hostLines (s : State) (p : Nat) (r : Record) : (s.addRecord p r).hostLines = s.hostLines := rfl
@[simp] theorem State.addRecord_ledger (s : State) (p : Nat) (r : Record) : (s.addRecord p r).ledger = s.ledger := rfl
@[simp] theorem State.addRecord_resolved (s : State) (p : Nat) (r : Record) : (s.addRecord p r).resolved = s.resolved := rfl
@[simp] theorem State.addRecord_raster (s : State) (p : Nat) (r : Record) : (s.addRecord p r).raster = s.raster := rfl
@[simp] theorem State.addRecord_conts (s : State) (p : Nat) (r : Record) : (s.addRecord p r).conts = s.conts := rfl
@[simp] theorem State.addRecord_qwaits (s : State) (p : Nat) (r : Record) : (s.addRecord p r).qwaits = s.qwaits := rfl
@[simp] theorem State.addRecord_qcommits (s : State) (p : Nat) (r : Record) : (s.addRecord p r).qcommits = s.qcommits := rfl
@[simp] theorem State.addRecord_qsteps (s : State) (p : Nat) (r : Record) : (s.addRecord p r).qsteps = s.qsteps := rfl
@[simp] theorem State.addRecord_arrivals (s : State) (p : Nat) (r : Record) : (s.addRecord p r).arrivals = s.arrivals := rfl
@[simp] theorem State.addRecord_qstopped (s : State) (p : Nat) (r : Record) : (s.addRecord p r).qstopped = s.qstopped := rfl
@[simp] theorem State.addRecord_channels (s : State) (p : Nat) (r : Record) : (s.addRecord p r).channels = s.channels := rfl
@[simp] theorem State.addRecord_mgmt (s : State) (p : Nat) (r : Record) : (s.addRecord p r).mgmt = s.mgmt := rfl
@[simp] theorem State.addRecord_hostData (s : State) (p : Nat) (r : Record) : (s.addRecord p r).hostData = s.hostData := rfl
@[simp] theorem State.addRecord_agenda (s : State) (p : Nat) (r : Record) : (s.addRecord p r).agenda = s.agenda := rfl
@[simp] theorem State.addRecord_turn (s : State) (p : Nat) (r : Record) : (s.addRecord p r).turn = s.turn := rfl
@[simp] theorem State.addRecord_picked (s : State) (p : Nat) (r : Record) : (s.addRecord p r).picked = s.picked := rfl
@[simp] theorem State.addRecord_freeCtr (s : State) (p : Nat) (r : Record) : (s.addRecord p r).freeCtr = s.freeCtr := rfl
@[simp] theorem State.addRecord_crewCtr (s : State) (p : Nat) (r : Record) : (s.addRecord p r).crewCtr = s.crewCtr := rfl

@[simp] theorem State.storeAt_slices (s : State) (pa : Nat) (bs : List Byte) : (s.storeAt pa bs).slices = s.slices := rfl
@[simp] theorem State.storeAt_poison (s : State) (pa : Nat) (bs : List Byte) : (s.storeAt pa bs).poison = s.poison := rfl
@[simp] theorem State.storeAt_bias (s : State) (pa : Nat) (bs : List Byte) : (s.storeAt pa bs).bias = s.bias := rfl
@[simp] theorem State.storeAt_flipping (s : State) (pa : Nat) (bs : List Byte) : (s.storeAt pa bs).flipping = s.flipping := rfl
@[simp] theorem State.storeAt_hostLines (s : State) (pa : Nat) (bs : List Byte) : (s.storeAt pa bs).hostLines = s.hostLines := rfl
@[simp] theorem State.storeAt_raster (s : State) (pa : Nat) (bs : List Byte) : (s.storeAt pa bs).raster = s.raster := rfl
@[simp] theorem State.storeAt_conts (s : State) (pa : Nat) (bs : List Byte) : (s.storeAt pa bs).conts = s.conts := rfl
@[simp] theorem State.storeAt_qwaits (s : State) (pa : Nat) (bs : List Byte) : (s.storeAt pa bs).qwaits = s.qwaits := rfl
@[simp] theorem State.storeAt_qcommits (s : State) (pa : Nat) (bs : List Byte) : (s.storeAt pa bs).qcommits = s.qcommits := rfl
@[simp] theorem State.storeAt_qsteps (s : State) (pa : Nat) (bs : List Byte) : (s.storeAt pa bs).qsteps = s.qsteps := rfl
@[simp] theorem State.storeAt_arrivals (s : State) (pa : Nat) (bs : List Byte) : (s.storeAt pa bs).arrivals = s.arrivals := rfl
@[simp] theorem State.storeAt_qstopped (s : State) (pa : Nat) (bs : List Byte) : (s.storeAt pa bs).qstopped = s.qstopped := rfl
@[simp] theorem State.storeAt_channels (s : State) (pa : Nat) (bs : List Byte) : (s.storeAt pa bs).channels = s.channels := rfl
@[simp] theorem State.storeAt_mgmt (s : State) (pa : Nat) (bs : List Byte) : (s.storeAt pa bs).mgmt = s.mgmt := rfl
@[simp] theorem State.storeAt_hostData (s : State) (pa : Nat) (bs : List Byte) : (s.storeAt pa bs).hostData = s.hostData := rfl
@[simp] theorem State.storeAt_agenda (s : State) (pa : Nat) (bs : List Byte) : (s.storeAt pa bs).agenda = s.agenda := rfl
@[simp] theorem State.storeAt_turn (s : State) (pa : Nat) (bs : List Byte) : (s.storeAt pa bs).turn = s.turn := rfl
@[simp] theorem State.storeAt_picked (s : State) (pa : Nat) (bs : List Byte) : (s.storeAt pa bs).picked = s.picked := rfl
@[simp] theorem State.storeAt_freeCtr (s : State) (pa : Nat) (bs : List Byte) : (s.storeAt pa bs).freeCtr = s.freeCtr := rfl
@[simp] theorem State.storeAt_crewCtr (s : State) (pa : Nat) (bs : List Byte) : (s.storeAt pa bs).crewCtr = s.crewCtr := rfl

@[simp] theorem State.clearPoison_cores (s : State) (pa : Nat) : (s.clearPoison pa).cores = s.cores := rfl
@[simp] theorem State.clearPoison_slices (s : State) (pa : Nat) : (s.clearPoison pa).slices = s.slices := rfl
@[simp] theorem State.clearPoison_parts (s : State) (pa : Nat) : (s.clearPoison pa).parts = s.parts := rfl
@[simp] theorem State.clearPoison_mem (s : State) (pa : Nat) : (s.clearPoison pa).mem = s.mem := rfl
@[simp] theorem State.clearPoison_bias (s : State) (pa : Nat) : (s.clearPoison pa).bias = s.bias := rfl
@[simp] theorem State.clearPoison_flipping (s : State) (pa : Nat) : (s.clearPoison pa).flipping = s.flipping := rfl
@[simp] theorem State.clearPoison_hostLines (s : State) (pa : Nat) : (s.clearPoison pa).hostLines = s.hostLines := rfl
@[simp] theorem State.clearPoison_ledger (s : State) (pa : Nat) : (s.clearPoison pa).ledger = s.ledger := rfl
@[simp] theorem State.clearPoison_resolved (s : State) (pa : Nat) : (s.clearPoison pa).resolved = s.resolved := rfl
@[simp] theorem State.clearPoison_raster (s : State) (pa : Nat) : (s.clearPoison pa).raster = s.raster := rfl
@[simp] theorem State.clearPoison_conts (s : State) (pa : Nat) : (s.clearPoison pa).conts = s.conts := rfl
@[simp] theorem State.clearPoison_qwaits (s : State) (pa : Nat) : (s.clearPoison pa).qwaits = s.qwaits := rfl
@[simp] theorem State.clearPoison_qcommits (s : State) (pa : Nat) : (s.clearPoison pa).qcommits = s.qcommits := rfl
@[simp] theorem State.clearPoison_qsteps (s : State) (pa : Nat) : (s.clearPoison pa).qsteps = s.qsteps := rfl
@[simp] theorem State.clearPoison_arrivals (s : State) (pa : Nat) : (s.clearPoison pa).arrivals = s.arrivals := rfl
@[simp] theorem State.clearPoison_qstopped (s : State) (pa : Nat) : (s.clearPoison pa).qstopped = s.qstopped := rfl
@[simp] theorem State.clearPoison_channels (s : State) (pa : Nat) : (s.clearPoison pa).channels = s.channels := rfl
@[simp] theorem State.clearPoison_mgmt (s : State) (pa : Nat) : (s.clearPoison pa).mgmt = s.mgmt := rfl
@[simp] theorem State.clearPoison_hostData (s : State) (pa : Nat) : (s.clearPoison pa).hostData = s.hostData := rfl
@[simp] theorem State.clearPoison_agenda (s : State) (pa : Nat) : (s.clearPoison pa).agenda = s.agenda := rfl
@[simp] theorem State.clearPoison_turn (s : State) (pa : Nat) : (s.clearPoison pa).turn = s.turn := rfl
@[simp] theorem State.clearPoison_picked (s : State) (pa : Nat) : (s.clearPoison pa).picked = s.picked := rfl
@[simp] theorem State.clearPoison_freeCtr (s : State) (pa : Nat) : (s.clearPoison pa).freeCtr = s.freeCtr := rfl
@[simp] theorem State.clearPoison_crewCtr (s : State) (pa : Nat) : (s.clearPoison pa).crewCtr = s.crewCtr := rfl

@[simp] theorem State.eraseLine_cores (s : State) (pa : Nat) : (s.eraseLine pa).cores = s.cores := by simp only [State.eraseLine, State.clearPoison]
@[simp] theorem State.eraseLine_slices (s : State) (pa : Nat) : (s.eraseLine pa).slices = s.slices := by simp only [State.eraseLine, State.clearPoison]
@[simp] theorem State.eraseLine_parts (s : State) (pa : Nat) : (s.eraseLine pa).parts = s.parts := by simp only [State.eraseLine, State.clearPoison]
@[simp] theorem State.eraseLine_bias (s : State) (pa : Nat) : (s.eraseLine pa).bias = s.bias := by simp only [State.eraseLine, State.clearPoison]
@[simp] theorem State.eraseLine_flipping (s : State) (pa : Nat) : (s.eraseLine pa).flipping = s.flipping := by simp only [State.eraseLine, State.clearPoison]
@[simp] theorem State.eraseLine_hostLines (s : State) (pa : Nat) : (s.eraseLine pa).hostLines = s.hostLines := by simp only [State.eraseLine, State.clearPoison]
@[simp] theorem State.eraseLine_ledger (s : State) (pa : Nat) : (s.eraseLine pa).ledger = s.ledger := by simp only [State.eraseLine, State.clearPoison]
@[simp] theorem State.eraseLine_resolved (s : State) (pa : Nat) : (s.eraseLine pa).resolved = s.resolved := by simp only [State.eraseLine, State.clearPoison]
@[simp] theorem State.eraseLine_raster (s : State) (pa : Nat) : (s.eraseLine pa).raster = s.raster := by simp only [State.eraseLine, State.clearPoison]
@[simp] theorem State.eraseLine_conts (s : State) (pa : Nat) : (s.eraseLine pa).conts = s.conts := by simp only [State.eraseLine, State.clearPoison]
@[simp] theorem State.eraseLine_qwaits (s : State) (pa : Nat) : (s.eraseLine pa).qwaits = s.qwaits := by simp only [State.eraseLine, State.clearPoison]
@[simp] theorem State.eraseLine_qcommits (s : State) (pa : Nat) : (s.eraseLine pa).qcommits = s.qcommits := by simp only [State.eraseLine, State.clearPoison]
@[simp] theorem State.eraseLine_qsteps (s : State) (pa : Nat) : (s.eraseLine pa).qsteps = s.qsteps := by simp only [State.eraseLine, State.clearPoison]
@[simp] theorem State.eraseLine_arrivals (s : State) (pa : Nat) : (s.eraseLine pa).arrivals = s.arrivals := by simp only [State.eraseLine, State.clearPoison]
@[simp] theorem State.eraseLine_qstopped (s : State) (pa : Nat) : (s.eraseLine pa).qstopped = s.qstopped := by simp only [State.eraseLine, State.clearPoison]
@[simp] theorem State.eraseLine_channels (s : State) (pa : Nat) : (s.eraseLine pa).channels = s.channels := by simp only [State.eraseLine, State.clearPoison]
@[simp] theorem State.eraseLine_mgmt (s : State) (pa : Nat) : (s.eraseLine pa).mgmt = s.mgmt := by simp only [State.eraseLine, State.clearPoison]
@[simp] theorem State.eraseLine_hostData (s : State) (pa : Nat) : (s.eraseLine pa).hostData = s.hostData := by simp only [State.eraseLine, State.clearPoison]
@[simp] theorem State.eraseLine_agenda (s : State) (pa : Nat) : (s.eraseLine pa).agenda = s.agenda := by simp only [State.eraseLine, State.clearPoison]
@[simp] theorem State.eraseLine_turn (s : State) (pa : Nat) : (s.eraseLine pa).turn = s.turn := by simp only [State.eraseLine, State.clearPoison]
@[simp] theorem State.eraseLine_picked (s : State) (pa : Nat) : (s.eraseLine pa).picked = s.picked := by simp only [State.eraseLine, State.clearPoison]
@[simp] theorem State.eraseLine_freeCtr (s : State) (pa : Nat) : (s.eraseLine pa).freeCtr = s.freeCtr := by simp only [State.eraseLine, State.clearPoison]
@[simp] theorem State.eraseLine_crewCtr (s : State) (pa : Nat) : (s.eraseLine pa).crewCtr = s.crewCtr := by simp only [State.eraseLine, State.clearPoison]

@[simp] theorem State.setMgmt_cores (s : State) (f : Mgmt → Mgmt) : (s.setMgmt f).cores = s.cores := rfl
@[simp] theorem State.setMgmt_slices (s : State) (f : Mgmt → Mgmt) : (s.setMgmt f).slices = s.slices := rfl
@[simp] theorem State.setMgmt_parts (s : State) (f : Mgmt → Mgmt) : (s.setMgmt f).parts = s.parts := rfl
@[simp] theorem State.setMgmt_mem (s : State) (f : Mgmt → Mgmt) : (s.setMgmt f).mem = s.mem := rfl
@[simp] theorem State.setMgmt_poison (s : State) (f : Mgmt → Mgmt) : (s.setMgmt f).poison = s.poison := rfl
@[simp] theorem State.setMgmt_bias (s : State) (f : Mgmt → Mgmt) : (s.setMgmt f).bias = s.bias := rfl
@[simp] theorem State.setMgmt_flipping (s : State) (f : Mgmt → Mgmt) : (s.setMgmt f).flipping = s.flipping := rfl
@[simp] theorem State.setMgmt_hostLines (s : State) (f : Mgmt → Mgmt) : (s.setMgmt f).hostLines = s.hostLines := rfl
@[simp] theorem State.setMgmt_ledger (s : State) (f : Mgmt → Mgmt) : (s.setMgmt f).ledger = s.ledger := rfl
@[simp] theorem State.setMgmt_resolved (s : State) (f : Mgmt → Mgmt) : (s.setMgmt f).resolved = s.resolved := rfl
@[simp] theorem State.setMgmt_raster (s : State) (f : Mgmt → Mgmt) : (s.setMgmt f).raster = s.raster := rfl
@[simp] theorem State.setMgmt_conts (s : State) (f : Mgmt → Mgmt) : (s.setMgmt f).conts = s.conts := rfl
@[simp] theorem State.setMgmt_qwaits (s : State) (f : Mgmt → Mgmt) : (s.setMgmt f).qwaits = s.qwaits := rfl
@[simp] theorem State.setMgmt_qcommits (s : State) (f : Mgmt → Mgmt) : (s.setMgmt f).qcommits = s.qcommits := rfl
@[simp] theorem State.setMgmt_qsteps (s : State) (f : Mgmt → Mgmt) : (s.setMgmt f).qsteps = s.qsteps := rfl
@[simp] theorem State.setMgmt_arrivals (s : State) (f : Mgmt → Mgmt) : (s.setMgmt f).arrivals = s.arrivals := rfl
@[simp] theorem State.setMgmt_qstopped (s : State) (f : Mgmt → Mgmt) : (s.setMgmt f).qstopped = s.qstopped := rfl
@[simp] theorem State.setMgmt_channels (s : State) (f : Mgmt → Mgmt) : (s.setMgmt f).channels = s.channels := rfl
@[simp] theorem State.setMgmt_hostData (s : State) (f : Mgmt → Mgmt) : (s.setMgmt f).hostData = s.hostData := rfl
@[simp] theorem State.setMgmt_agenda (s : State) (f : Mgmt → Mgmt) : (s.setMgmt f).agenda = s.agenda := rfl
@[simp] theorem State.setMgmt_turn (s : State) (f : Mgmt → Mgmt) : (s.setMgmt f).turn = s.turn := rfl
@[simp] theorem State.setMgmt_picked (s : State) (f : Mgmt → Mgmt) : (s.setMgmt f).picked = s.picked := rfl
@[simp] theorem State.setMgmt_freeCtr (s : State) (f : Mgmt → Mgmt) : (s.setMgmt f).freeCtr = s.freeCtr := rfl
@[simp] theorem State.setMgmt_crewCtr (s : State) (f : Mgmt → Mgmt) : (s.setMgmt f).crewCtr = s.crewCtr := rfl

/-! ### Updates of a crew -/

@[simp] theorem Crew.setWarp_uid (cr : Crew) (i : Nat) (w : Warp) : (cr.setWarp i w).uid = cr.uid := rfl
@[simp] theorem Crew.setWarp_seat (cr : Crew) (i : Nat) (w : Warp) : (cr.setWarp i w).seat = cr.seat := rfl
@[simp] theorem Crew.setWarp_deferred (cr : Crew) (i : Nat) (w : Warp) : (cr.setWarp i w).deferred = cr.deferred := rfl
@[simp] theorem Crew.setWarp_kind (cr : Crew) (i : Nat) (w : Warp) : (cr.setWarp i w).kind = cr.kind := rfl
@[simp] theorem Crew.setWarp_shape (cr : Crew) (i : Nat) (w : Warp) : (cr.setWarp i w).shape = cr.shape := rfl
@[simp] theorem Crew.setWarp_part (cr : Crew) (i : Nat) (w : Warp) : (cr.setWarp i w).part = cr.part := rfl
@[simp] theorem Crew.setWarp_job (cr : Crew) (i : Nat) (w : Warp) : (cr.setWarp i w).job = cr.job := rfl
@[simp] theorem Crew.setWarp_asn (cr : Crew) (i : Nat) (w : Warp) : (cr.setWarp i w).asn = cr.asn := rfl
@[simp] theorem Crew.setWarp_root (cr : Crew) (i : Nat) (w : Warp) : (cr.setWarp i w).root = cr.root := rfl
@[simp] theorem Crew.setWarp_cx (cr : Crew) (i : Nat) (w : Warp) : (cr.setWarp i w).cx = cr.cx := rfl
@[simp] theorem Crew.setWarp_cy (cr : Crew) (i : Nat) (w : Warp) : (cr.setWarp i w).cy = cr.cy := rfl
@[simp] theorem Crew.setWarp_cz (cr : Crew) (i : Nat) (w : Warp) : (cr.setWarp i w).cz = cr.cz := rfl
@[simp] theorem Crew.setWarp_report (cr : Crew) (i : Nat) (w : Warp) : (cr.setWarp i w).report = cr.report := rfl
@[simp] theorem Crew.setWarp_prio (cr : Crew) (i : Nat) (w : Warp) : (cr.setWarp i w).prio = cr.prio := rfl
@[simp] theorem Crew.setWarp_cls (cr : Crew) (i : Nat) (w : Warp) : (cr.setWarp i w).cls = cr.cls := rfl
@[simp] theorem Crew.setWarp_s0 (cr : Crew) (i : Nat) (w : Warp) : (cr.setWarp i w).s0 = cr.s0 := rfl
@[simp] theorem Crew.setWarp_v0 (cr : Crew) (i : Nat) (w : Warp) : (cr.setWarp i w).v0 = cr.v0 := rfl
@[simp] theorem Crew.setWarp_lanes0 (cr : Crew) (i : Nat) (w : Warp) : (cr.setWarp i w).lanes0 = cr.lanes0 := rfl
@[simp] theorem Crew.setWarp_b (cr : Crew) (i : Nat) (w : Warp) : (cr.setWarp i w).b = cr.b := rfl
@[simp] theorem Crew.setWarp_stash (cr : Crew) (i : Nat) (w : Warp) : (cr.setWarp i w).stash = cr.stash := rfl
@[simp] theorem Crew.setWarp_frames (cr : Crew) (i : Nat) (w : Warp) : (cr.setWarp i w).frames = cr.frames := rfl
@[simp] theorem Crew.setWarp_epoch (cr : Crew) (i : Nat) (w : Warp) : (cr.setWarp i w).epoch = cr.epoch := rfl
@[simp] theorem Crew.setWarp_windows (cr : Crew) (i : Nat) (w : Warp) : (cr.setWarp i w).windows = cr.windows := rfl
@[simp] theorem Crew.setWarp_qres (cr : Crew) (i : Nat) (w : Warp) : (cr.setWarp i w).qres = cr.qres := rfl
@[simp] theorem Crew.setWarp_tickets (cr : Crew) (i : Nat) (w : Warp) : (cr.setWarp i w).tickets = cr.tickets := rfl
@[simp] theorem Crew.setWarp_mat (cr : Crew) (i : Nat) (w : Warp) : (cr.setWarp i w).mat = cr.mat := rfl
@[simp] theorem Crew.setWarp_engines (cr : Crew) (i : Nat) (w : Warp) : (cr.setWarp i w).engines = cr.engines := rfl
@[simp] theorem Crew.setWarp_status (cr : Crew) (i : Nat) (w : Warp) : (cr.setWarp i w).status = cr.status := rfl
@[simp] theorem Crew.setWarp_fill (cr : Crew) (i : Nat) (w : Warp) : (cr.setWarp i w).fill = cr.fill := rfl
@[simp] theorem Crew.setWarp_since (cr : Crew) (i : Nat) (w : Warp) : (cr.setWarp i w).since = cr.since := rfl
@[simp] theorem Crew.setWarp_parked (cr : Crew) (i : Nat) (w : Warp) : (cr.setWarp i w).parked = cr.parked := rfl
@[simp] theorem Crew.setWarp_savedAt (cr : Crew) (i : Nat) (w : Warp) : (cr.setWarp i w).savedAt = cr.savedAt := rfl
@[simp] theorem Crew.setWarp_saving (cr : Crew) (i : Nat) (w : Warp) : (cr.setWarp i w).saving = cr.saving := rfl
@[simp] theorem Crew.setWarp_batch (cr : Crew) (i : Nat) (w : Warp) : (cr.setWarp i w).batch = cr.batch := rfl
@[simp] theorem Crew.setWarp_raster (cr : Crew) (i : Nat) (w : Warp) : (cr.setWarp i w).raster = cr.raster := rfl

@[simp] theorem Crew.mapWarps_uid (cr : Crew) (f : Warp → Warp) : (cr.mapWarps f).uid = cr.uid := rfl
@[simp] theorem Crew.mapWarps_seat (cr : Crew) (f : Warp → Warp) : (cr.mapWarps f).seat = cr.seat := rfl
@[simp] theorem Crew.mapWarps_deferred (cr : Crew) (f : Warp → Warp) : (cr.mapWarps f).deferred = cr.deferred := rfl
@[simp] theorem Crew.mapWarps_kind (cr : Crew) (f : Warp → Warp) : (cr.mapWarps f).kind = cr.kind := rfl
@[simp] theorem Crew.mapWarps_shape (cr : Crew) (f : Warp → Warp) : (cr.mapWarps f).shape = cr.shape := rfl
@[simp] theorem Crew.mapWarps_part (cr : Crew) (f : Warp → Warp) : (cr.mapWarps f).part = cr.part := rfl
@[simp] theorem Crew.mapWarps_job (cr : Crew) (f : Warp → Warp) : (cr.mapWarps f).job = cr.job := rfl
@[simp] theorem Crew.mapWarps_asn (cr : Crew) (f : Warp → Warp) : (cr.mapWarps f).asn = cr.asn := rfl
@[simp] theorem Crew.mapWarps_root (cr : Crew) (f : Warp → Warp) : (cr.mapWarps f).root = cr.root := rfl
@[simp] theorem Crew.mapWarps_cx (cr : Crew) (f : Warp → Warp) : (cr.mapWarps f).cx = cr.cx := rfl
@[simp] theorem Crew.mapWarps_cy (cr : Crew) (f : Warp → Warp) : (cr.mapWarps f).cy = cr.cy := rfl
@[simp] theorem Crew.mapWarps_cz (cr : Crew) (f : Warp → Warp) : (cr.mapWarps f).cz = cr.cz := rfl
@[simp] theorem Crew.mapWarps_report (cr : Crew) (f : Warp → Warp) : (cr.mapWarps f).report = cr.report := rfl
@[simp] theorem Crew.mapWarps_prio (cr : Crew) (f : Warp → Warp) : (cr.mapWarps f).prio = cr.prio := rfl
@[simp] theorem Crew.mapWarps_cls (cr : Crew) (f : Warp → Warp) : (cr.mapWarps f).cls = cr.cls := rfl
@[simp] theorem Crew.mapWarps_s0 (cr : Crew) (f : Warp → Warp) : (cr.mapWarps f).s0 = cr.s0 := rfl
@[simp] theorem Crew.mapWarps_v0 (cr : Crew) (f : Warp → Warp) : (cr.mapWarps f).v0 = cr.v0 := rfl
@[simp] theorem Crew.mapWarps_lanes0 (cr : Crew) (f : Warp → Warp) : (cr.mapWarps f).lanes0 = cr.lanes0 := rfl
@[simp] theorem Crew.mapWarps_b (cr : Crew) (f : Warp → Warp) : (cr.mapWarps f).b = cr.b := rfl
@[simp] theorem Crew.mapWarps_stash (cr : Crew) (f : Warp → Warp) : (cr.mapWarps f).stash = cr.stash := rfl
@[simp] theorem Crew.mapWarps_frames (cr : Crew) (f : Warp → Warp) : (cr.mapWarps f).frames = cr.frames := rfl
@[simp] theorem Crew.mapWarps_epoch (cr : Crew) (f : Warp → Warp) : (cr.mapWarps f).epoch = cr.epoch := rfl
@[simp] theorem Crew.mapWarps_windows (cr : Crew) (f : Warp → Warp) : (cr.mapWarps f).windows = cr.windows := rfl
@[simp] theorem Crew.mapWarps_qres (cr : Crew) (f : Warp → Warp) : (cr.mapWarps f).qres = cr.qres := rfl
@[simp] theorem Crew.mapWarps_tickets (cr : Crew) (f : Warp → Warp) : (cr.mapWarps f).tickets = cr.tickets := rfl
@[simp] theorem Crew.mapWarps_mat (cr : Crew) (f : Warp → Warp) : (cr.mapWarps f).mat = cr.mat := rfl
@[simp] theorem Crew.mapWarps_engines (cr : Crew) (f : Warp → Warp) : (cr.mapWarps f).engines = cr.engines := rfl
@[simp] theorem Crew.mapWarps_status (cr : Crew) (f : Warp → Warp) : (cr.mapWarps f).status = cr.status := rfl
@[simp] theorem Crew.mapWarps_fill (cr : Crew) (f : Warp → Warp) : (cr.mapWarps f).fill = cr.fill := rfl
@[simp] theorem Crew.mapWarps_since (cr : Crew) (f : Warp → Warp) : (cr.mapWarps f).since = cr.since := rfl
@[simp] theorem Crew.mapWarps_parked (cr : Crew) (f : Warp → Warp) : (cr.mapWarps f).parked = cr.parked := rfl
@[simp] theorem Crew.mapWarps_savedAt (cr : Crew) (f : Warp → Warp) : (cr.mapWarps f).savedAt = cr.savedAt := rfl
@[simp] theorem Crew.mapWarps_saving (cr : Crew) (f : Warp → Warp) : (cr.mapWarps f).saving = cr.saving := rfl
@[simp] theorem Crew.mapWarps_batch (cr : Crew) (f : Warp → Warp) : (cr.mapWarps f).batch = cr.batch := rfl
@[simp] theorem Crew.mapWarps_raster (cr : Crew) (f : Warp → Warp) : (cr.mapWarps f).raster = cr.raster := rfl

/-! ### Updates of a warp -/

@[simp] theorem Warp.setV_s (w : Warp) (n l : Nat) (x : Word) : (w.setV n l x).s = w.s := rfl
@[simp] theorem Warp.setV_m (w : Warp) (n l : Nat) (x : Word) : (w.setV n l x).m = w.m := rfl
@[simp] theorem Warp.setV_x (w : Warp) (n l : Nat) (x : Word) : (w.setV n l x).x = w.x := rfl
@[simp] theorem Warp.setV_splits (w : Warp) (n l : Nat) (x : Word) : (w.setV n l x).splits = w.splits := rfl
@[simp] theorem Warp.setV_cur (w : Warp) (n l : Nat) (x : Word) : (w.setV n l x).cur = w.cur := rfl
@[simp] theorem Warp.setV_run (w : Warp) (n l : Nat) (x : Word) : (w.setV n l x).run = w.run := rfl
@[simp] theorem Warp.setV_meets (w : Warp) (n l : Nat) (x : Word) : (w.setV n l x).meets = w.meets := rfl
@[simp] theorem Warp.setV_fpf (w : Warp) (n l : Nat) (x : Word) : (w.setV n l x).fpf = w.fpf := rfl
@[simp] theorem Warp.setV_conv (w : Warp) (n l : Nat) (x : Word) : (w.setV n l x).conv = w.conv := rfl
@[simp] theorem Warp.setV_mpred (w : Warp) (n l : Nat) (x : Word) : (w.setV n l x).mpred = w.mpred := rfl
@[simp] theorem Warp.setV_mmrep (w : Warp) (n l : Nat) (x : Word) : (w.setV n l x).mmrep = w.mmrep := rfl
@[simp] theorem Warp.setV_fault (w : Warp) (n l : Nat) (x : Word) : (w.setV n l x).fault = w.fault := rfl
@[simp] theorem Warp.setV_seals (w : Warp) (n l : Nat) (x : Word) : (w.setV n l x).seals = w.seals := rfl
@[simp] theorem Warp.setV_pends (w : Warp) (n l : Nat) (x : Word) : (w.setV n l x).pends = w.pends := rfl
@[simp] theorem Warp.setV_hold (w : Warp) (n l : Nat) (x : Word) : (w.setV n l x).hold = w.hold := rfl
@[simp] theorem Warp.setV_save (w : Warp) (n l : Nat) (x : Word) : (w.setV n l x).save = w.save := rfl
@[simp] theorem Warp.setV_pmark (w : Warp) (n l : Nat) (x : Word) : (w.setV n l x).pmark = w.pmark := rfl
@[simp] theorem Warp.setV_secs (w : Warp) (n l : Nat) (x : Word) : (w.setV n l x).secs = w.secs := rfl
@[simp] theorem Warp.setV_report (w : Warp) (n l : Nat) (x : Word) : (w.setV n l x).report = w.report := rfl
@[simp] theorem Warp.setV_mmas (w : Warp) (n l : Nat) (x : Word) : (w.setV n l x).mmas = w.mmas := rfl
@[simp] theorem Warp.setV_lastMma (w : Warp) (n l : Nat) (x : Word) : (w.setV n l x).lastMma = w.lastMma := rfl
@[simp] theorem Warp.setV_unres (w : Warp) (n l : Nat) (x : Word) : (w.setV n l x).unres = w.unres := rfl
@[simp] theorem Warp.setV_quarter (w : Warp) (n l : Nat) (x : Word) : (w.setV n l x).quarter = w.quarter := rfl
@[simp] theorem Warp.setV_age (w : Warp) (n l : Nat) (x : Word) : (w.setV n l x).age = w.age := rfl
@[simp] theorem Warp.setV_losses (w : Warp) (n l : Nat) (x : Word) : (w.setV n l x).losses = w.losses := rfl
@[simp] theorem Warp.setV_starved (w : Warp) (n l : Nat) (x : Word) : (w.setV n l x).starved = w.starved := rfl
@[simp] theorem Warp.setV_retired (w : Warp) (n l : Nat) (x : Word) : (w.setV n l x).retired = w.retired := rfl

@[simp] theorem Warp.setS_v (w : Warp) (n : Nat) (x : Word) : (w.setS n x).v = w.v := rfl
@[simp] theorem Warp.setS_m (w : Warp) (n : Nat) (x : Word) : (w.setS n x).m = w.m := rfl
@[simp] theorem Warp.setS_x (w : Warp) (n : Nat) (x : Word) : (w.setS n x).x = w.x := rfl
@[simp] theorem Warp.setS_splits (w : Warp) (n : Nat) (x : Word) : (w.setS n x).splits = w.splits := rfl
@[simp] theorem Warp.setS_cur (w : Warp) (n : Nat) (x : Word) : (w.setS n x).cur = w.cur := rfl
@[simp] theorem Warp.setS_run (w : Warp) (n : Nat) (x : Word) : (w.setS n x).run = w.run := rfl
@[simp] theorem Warp.setS_meets (w : Warp) (n : Nat) (x : Word) : (w.setS n x).meets = w.meets := rfl
@[simp] theorem Warp.setS_fpf (w : Warp) (n : Nat) (x : Word) : (w.setS n x).fpf = w.fpf := rfl
@[simp] theorem Warp.setS_conv (w : Warp) (n : Nat) (x : Word) : (w.setS n x).conv = w.conv := rfl
@[simp] theorem Warp.setS_mpred (w : Warp) (n : Nat) (x : Word) : (w.setS n x).mpred = w.mpred := rfl
@[simp] theorem Warp.setS_mmrep (w : Warp) (n : Nat) (x : Word) : (w.setS n x).mmrep = w.mmrep := rfl
@[simp] theorem Warp.setS_fault (w : Warp) (n : Nat) (x : Word) : (w.setS n x).fault = w.fault := rfl
@[simp] theorem Warp.setS_seals (w : Warp) (n : Nat) (x : Word) : (w.setS n x).seals = w.seals := rfl
@[simp] theorem Warp.setS_pends (w : Warp) (n : Nat) (x : Word) : (w.setS n x).pends = w.pends := rfl
@[simp] theorem Warp.setS_hold (w : Warp) (n : Nat) (x : Word) : (w.setS n x).hold = w.hold := rfl
@[simp] theorem Warp.setS_save (w : Warp) (n : Nat) (x : Word) : (w.setS n x).save = w.save := rfl
@[simp] theorem Warp.setS_pmark (w : Warp) (n : Nat) (x : Word) : (w.setS n x).pmark = w.pmark := rfl
@[simp] theorem Warp.setS_secs (w : Warp) (n : Nat) (x : Word) : (w.setS n x).secs = w.secs := rfl
@[simp] theorem Warp.setS_report (w : Warp) (n : Nat) (x : Word) : (w.setS n x).report = w.report := rfl
@[simp] theorem Warp.setS_mmas (w : Warp) (n : Nat) (x : Word) : (w.setS n x).mmas = w.mmas := rfl
@[simp] theorem Warp.setS_lastMma (w : Warp) (n : Nat) (x : Word) : (w.setS n x).lastMma = w.lastMma := rfl
@[simp] theorem Warp.setS_unres (w : Warp) (n : Nat) (x : Word) : (w.setS n x).unres = w.unres := rfl
@[simp] theorem Warp.setS_quarter (w : Warp) (n : Nat) (x : Word) : (w.setS n x).quarter = w.quarter := rfl
@[simp] theorem Warp.setS_age (w : Warp) (n : Nat) (x : Word) : (w.setS n x).age = w.age := rfl
@[simp] theorem Warp.setS_losses (w : Warp) (n : Nat) (x : Word) : (w.setS n x).losses = w.losses := rfl
@[simp] theorem Warp.setS_starved (w : Warp) (n : Nat) (x : Word) : (w.setS n x).starved = w.starved := rfl
@[simp] theorem Warp.setS_retired (w : Warp) (n : Nat) (x : Word) : (w.setS n x).retired = w.retired := rfl

@[simp] theorem Warp.setPred_v (w : Warp) (k l : Nat) (b : Bool) : (w.setPred k l b).v = w.v := by unfold Warp.setPred; split <;> rfl
@[simp] theorem Warp.setPred_s (w : Warp) (k l : Nat) (b : Bool) : (w.setPred k l b).s = w.s := by unfold Warp.setPred; split <;> rfl
@[simp] theorem Warp.setPred_x (w : Warp) (k l : Nat) (b : Bool) : (w.setPred k l b).x = w.x := by unfold Warp.setPred; split <;> rfl
@[simp] theorem Warp.setPred_splits (w : Warp) (k l : Nat) (b : Bool) : (w.setPred k l b).splits = w.splits := by unfold Warp.setPred; split <;> rfl
@[simp] theorem Warp.setPred_cur (w : Warp) (k l : Nat) (b : Bool) : (w.setPred k l b).cur = w.cur := by unfold Warp.setPred; split <;> rfl
@[simp] theorem Warp.setPred_run (w : Warp) (k l : Nat) (b : Bool) : (w.setPred k l b).run = w.run := by unfold Warp.setPred; split <;> rfl
@[simp] theorem Warp.setPred_meets (w : Warp) (k l : Nat) (b : Bool) : (w.setPred k l b).meets = w.meets := by unfold Warp.setPred; split <;> rfl
@[simp] theorem Warp.setPred_fpf (w : Warp) (k l : Nat) (b : Bool) : (w.setPred k l b).fpf = w.fpf := by unfold Warp.setPred; split <;> rfl
@[simp] theorem Warp.setPred_conv (w : Warp) (k l : Nat) (b : Bool) : (w.setPred k l b).conv = w.conv := by unfold Warp.setPred; split <;> rfl
@[simp] theorem Warp.setPred_mpred (w : Warp) (k l : Nat) (b : Bool) : (w.setPred k l b).mpred = w.mpred := by unfold Warp.setPred; split <;> rfl
@[simp] theorem Warp.setPred_mmrep (w : Warp) (k l : Nat) (b : Bool) : (w.setPred k l b).mmrep = w.mmrep := by unfold Warp.setPred; split <;> rfl
@[simp] theorem Warp.setPred_fault (w : Warp) (k l : Nat) (b : Bool) : (w.setPred k l b).fault = w.fault := by unfold Warp.setPred; split <;> rfl
@[simp] theorem Warp.setPred_seals (w : Warp) (k l : Nat) (b : Bool) : (w.setPred k l b).seals = w.seals := by unfold Warp.setPred; split <;> rfl
@[simp] theorem Warp.setPred_pends (w : Warp) (k l : Nat) (b : Bool) : (w.setPred k l b).pends = w.pends := by unfold Warp.setPred; split <;> rfl
@[simp] theorem Warp.setPred_hold (w : Warp) (k l : Nat) (b : Bool) : (w.setPred k l b).hold = w.hold := by unfold Warp.setPred; split <;> rfl
@[simp] theorem Warp.setPred_save (w : Warp) (k l : Nat) (b : Bool) : (w.setPred k l b).save = w.save := by unfold Warp.setPred; split <;> rfl
@[simp] theorem Warp.setPred_pmark (w : Warp) (k l : Nat) (b : Bool) : (w.setPred k l b).pmark = w.pmark := by unfold Warp.setPred; split <;> rfl
@[simp] theorem Warp.setPred_secs (w : Warp) (k l : Nat) (b : Bool) : (w.setPred k l b).secs = w.secs := by unfold Warp.setPred; split <;> rfl
@[simp] theorem Warp.setPred_report (w : Warp) (k l : Nat) (b : Bool) : (w.setPred k l b).report = w.report := by unfold Warp.setPred; split <;> rfl
@[simp] theorem Warp.setPred_mmas (w : Warp) (k l : Nat) (b : Bool) : (w.setPred k l b).mmas = w.mmas := by unfold Warp.setPred; split <;> rfl
@[simp] theorem Warp.setPred_lastMma (w : Warp) (k l : Nat) (b : Bool) : (w.setPred k l b).lastMma = w.lastMma := by unfold Warp.setPred; split <;> rfl
@[simp] theorem Warp.setPred_unres (w : Warp) (k l : Nat) (b : Bool) : (w.setPred k l b).unres = w.unres := by unfold Warp.setPred; split <;> rfl
@[simp] theorem Warp.setPred_quarter (w : Warp) (k l : Nat) (b : Bool) : (w.setPred k l b).quarter = w.quarter := by unfold Warp.setPred; split <;> rfl
@[simp] theorem Warp.setPred_age (w : Warp) (k l : Nat) (b : Bool) : (w.setPred k l b).age = w.age := by unfold Warp.setPred; split <;> rfl
@[simp] theorem Warp.setPred_losses (w : Warp) (k l : Nat) (b : Bool) : (w.setPred k l b).losses = w.losses := by unfold Warp.setPred; split <;> rfl
@[simp] theorem Warp.setPred_starved (w : Warp) (k l : Nat) (b : Bool) : (w.setPred k l b).starved = w.starved := by unfold Warp.setPred; split <;> rfl
@[simp] theorem Warp.setPred_retired (w : Warp) (k l : Nat) (b : Bool) : (w.setPred k l b).retired = w.retired := by unfold Warp.setPred; split <;> rfl

@[simp] theorem Warp.setX_v (w : Warp) (k l : Nat) (x : BitVec 16) : (w.setX k l x).v = w.v := rfl
@[simp] theorem Warp.setX_s (w : Warp) (k l : Nat) (x : BitVec 16) : (w.setX k l x).s = w.s := rfl
@[simp] theorem Warp.setX_m (w : Warp) (k l : Nat) (x : BitVec 16) : (w.setX k l x).m = w.m := rfl
@[simp] theorem Warp.setX_splits (w : Warp) (k l : Nat) (x : BitVec 16) : (w.setX k l x).splits = w.splits := rfl
@[simp] theorem Warp.setX_cur (w : Warp) (k l : Nat) (x : BitVec 16) : (w.setX k l x).cur = w.cur := rfl
@[simp] theorem Warp.setX_run (w : Warp) (k l : Nat) (x : BitVec 16) : (w.setX k l x).run = w.run := rfl
@[simp] theorem Warp.setX_meets (w : Warp) (k l : Nat) (x : BitVec 16) : (w.setX k l x).meets = w.meets := rfl
@[simp] theorem Warp.setX_fpf (w : Warp) (k l : Nat) (x : BitVec 16) : (w.setX k l x).fpf = w.fpf := rfl
@[simp] theorem Warp.setX_conv (w : Warp) (k l : Nat) (x : BitVec 16) : (w.setX k l x).conv = w.conv := rfl
@[simp] theorem Warp.setX_mpred (w : Warp) (k l : Nat) (x : BitVec 16) : (w.setX k l x).mpred = w.mpred := rfl
@[simp] theorem Warp.setX_mmrep (w : Warp) (k l : Nat) (x : BitVec 16) : (w.setX k l x).mmrep = w.mmrep := rfl
@[simp] theorem Warp.setX_fault (w : Warp) (k l : Nat) (x : BitVec 16) : (w.setX k l x).fault = w.fault := rfl
@[simp] theorem Warp.setX_seals (w : Warp) (k l : Nat) (x : BitVec 16) : (w.setX k l x).seals = w.seals := rfl
@[simp] theorem Warp.setX_pends (w : Warp) (k l : Nat) (x : BitVec 16) : (w.setX k l x).pends = w.pends := rfl
@[simp] theorem Warp.setX_hold (w : Warp) (k l : Nat) (x : BitVec 16) : (w.setX k l x).hold = w.hold := rfl
@[simp] theorem Warp.setX_save (w : Warp) (k l : Nat) (x : BitVec 16) : (w.setX k l x).save = w.save := rfl
@[simp] theorem Warp.setX_pmark (w : Warp) (k l : Nat) (x : BitVec 16) : (w.setX k l x).pmark = w.pmark := rfl
@[simp] theorem Warp.setX_secs (w : Warp) (k l : Nat) (x : BitVec 16) : (w.setX k l x).secs = w.secs := rfl
@[simp] theorem Warp.setX_report (w : Warp) (k l : Nat) (x : BitVec 16) : (w.setX k l x).report = w.report := rfl
@[simp] theorem Warp.setX_mmas (w : Warp) (k l : Nat) (x : BitVec 16) : (w.setX k l x).mmas = w.mmas := rfl
@[simp] theorem Warp.setX_lastMma (w : Warp) (k l : Nat) (x : BitVec 16) : (w.setX k l x).lastMma = w.lastMma := rfl
@[simp] theorem Warp.setX_unres (w : Warp) (k l : Nat) (x : BitVec 16) : (w.setX k l x).unres = w.unres := rfl
@[simp] theorem Warp.setX_quarter (w : Warp) (k l : Nat) (x : BitVec 16) : (w.setX k l x).quarter = w.quarter := rfl
@[simp] theorem Warp.setX_age (w : Warp) (k l : Nat) (x : BitVec 16) : (w.setX k l x).age = w.age := rfl
@[simp] theorem Warp.setX_losses (w : Warp) (k l : Nat) (x : BitVec 16) : (w.setX k l x).losses = w.losses := rfl
@[simp] theorem Warp.setX_starved (w : Warp) (k l : Nat) (x : BitVec 16) : (w.setX k l x).starved = w.starved := rfl
@[simp] theorem Warp.setX_retired (w : Warp) (k l : Nat) (x : BitVec 16) : (w.setX k l x).retired = w.retired := rfl

@[simp] theorem Warp.orFpf_v (w : Warp) (f : Word) : (w.orFpf f).v = w.v := rfl
@[simp] theorem Warp.orFpf_s (w : Warp) (f : Word) : (w.orFpf f).s = w.s := rfl
@[simp] theorem Warp.orFpf_m (w : Warp) (f : Word) : (w.orFpf f).m = w.m := rfl
@[simp] theorem Warp.orFpf_x (w : Warp) (f : Word) : (w.orFpf f).x = w.x := rfl
@[simp] theorem Warp.orFpf_splits (w : Warp) (f : Word) : (w.orFpf f).splits = w.splits := rfl
@[simp] theorem Warp.orFpf_cur (w : Warp) (f : Word) : (w.orFpf f).cur = w.cur := rfl
@[simp] theorem Warp.orFpf_run (w : Warp) (f : Word) : (w.orFpf f).run = w.run := rfl
@[simp] theorem Warp.orFpf_meets (w : Warp) (f : Word) : (w.orFpf f).meets = w.meets := rfl
@[simp] theorem Warp.orFpf_conv (w : Warp) (f : Word) : (w.orFpf f).conv = w.conv := rfl
@[simp] theorem Warp.orFpf_mpred (w : Warp) (f : Word) : (w.orFpf f).mpred = w.mpred := rfl
@[simp] theorem Warp.orFpf_mmrep (w : Warp) (f : Word) : (w.orFpf f).mmrep = w.mmrep := rfl
@[simp] theorem Warp.orFpf_fault (w : Warp) (f : Word) : (w.orFpf f).fault = w.fault := rfl
@[simp] theorem Warp.orFpf_seals (w : Warp) (f : Word) : (w.orFpf f).seals = w.seals := rfl
@[simp] theorem Warp.orFpf_pends (w : Warp) (f : Word) : (w.orFpf f).pends = w.pends := rfl
@[simp] theorem Warp.orFpf_hold (w : Warp) (f : Word) : (w.orFpf f).hold = w.hold := rfl
@[simp] theorem Warp.orFpf_save (w : Warp) (f : Word) : (w.orFpf f).save = w.save := rfl
@[simp] theorem Warp.orFpf_pmark (w : Warp) (f : Word) : (w.orFpf f).pmark = w.pmark := rfl
@[simp] theorem Warp.orFpf_secs (w : Warp) (f : Word) : (w.orFpf f).secs = w.secs := rfl
@[simp] theorem Warp.orFpf_report (w : Warp) (f : Word) : (w.orFpf f).report = w.report := rfl
@[simp] theorem Warp.orFpf_mmas (w : Warp) (f : Word) : (w.orFpf f).mmas = w.mmas := rfl
@[simp] theorem Warp.orFpf_lastMma (w : Warp) (f : Word) : (w.orFpf f).lastMma = w.lastMma := rfl
@[simp] theorem Warp.orFpf_unres (w : Warp) (f : Word) : (w.orFpf f).unres = w.unres := rfl
@[simp] theorem Warp.orFpf_quarter (w : Warp) (f : Word) : (w.orFpf f).quarter = w.quarter := rfl
@[simp] theorem Warp.orFpf_age (w : Warp) (f : Word) : (w.orFpf f).age = w.age := rfl
@[simp] theorem Warp.orFpf_losses (w : Warp) (f : Word) : (w.orFpf f).losses = w.losses := rfl
@[simp] theorem Warp.orFpf_starved (w : Warp) (f : Word) : (w.orFpf f).starved = w.starved := rfl
@[simp] theorem Warp.orFpf_retired (w : Warp) (f : Word) : (w.orFpf f).retired = w.retired := rfl

@[simp] theorem Warp.mapSplits_v (w : Warp) (f : Split → Split) : (w.mapSplits f).v = w.v := rfl
@[simp] theorem Warp.mapSplits_s (w : Warp) (f : Split → Split) : (w.mapSplits f).s = w.s := rfl
@[simp] theorem Warp.mapSplits_m (w : Warp) (f : Split → Split) : (w.mapSplits f).m = w.m := rfl
@[simp] theorem Warp.mapSplits_x (w : Warp) (f : Split → Split) : (w.mapSplits f).x = w.x := rfl
@[simp] theorem Warp.mapSplits_cur (w : Warp) (f : Split → Split) : (w.mapSplits f).cur = w.cur := rfl
@[simp] theorem Warp.mapSplits_run (w : Warp) (f : Split → Split) : (w.mapSplits f).run = w.run := rfl
@[simp] theorem Warp.mapSplits_meets (w : Warp) (f : Split → Split) : (w.mapSplits f).meets = w.meets := rfl
@[simp] theorem Warp.mapSplits_fpf (w : Warp) (f : Split → Split) : (w.mapSplits f).fpf = w.fpf := rfl
@[simp] theorem Warp.mapSplits_conv (w : Warp) (f : Split → Split) : (w.mapSplits f).conv = w.conv := rfl
@[simp] theorem Warp.mapSplits_mpred (w : Warp) (f : Split → Split) : (w.mapSplits f).mpred = w.mpred := rfl
@[simp] theorem Warp.mapSplits_mmrep (w : Warp) (f : Split → Split) : (w.mapSplits f).mmrep = w.mmrep := rfl
@[simp] theorem Warp.mapSplits_fault (w : Warp) (f : Split → Split) : (w.mapSplits f).fault = w.fault := rfl
@[simp] theorem Warp.mapSplits_seals (w : Warp) (f : Split → Split) : (w.mapSplits f).seals = w.seals := rfl
@[simp] theorem Warp.mapSplits_pends (w : Warp) (f : Split → Split) : (w.mapSplits f).pends = w.pends := rfl
@[simp] theorem Warp.mapSplits_hold (w : Warp) (f : Split → Split) : (w.mapSplits f).hold = w.hold := rfl
@[simp] theorem Warp.mapSplits_pmark (w : Warp) (f : Split → Split) : (w.mapSplits f).pmark = w.pmark := rfl
@[simp] theorem Warp.mapSplits_secs (w : Warp) (f : Split → Split) : (w.mapSplits f).secs = w.secs := rfl
@[simp] theorem Warp.mapSplits_report (w : Warp) (f : Split → Split) : (w.mapSplits f).report = w.report := rfl
@[simp] theorem Warp.mapSplits_mmas (w : Warp) (f : Split → Split) : (w.mapSplits f).mmas = w.mmas := rfl
@[simp] theorem Warp.mapSplits_lastMma (w : Warp) (f : Split → Split) : (w.mapSplits f).lastMma = w.lastMma := rfl
@[simp] theorem Warp.mapSplits_unres (w : Warp) (f : Split → Split) : (w.mapSplits f).unres = w.unres := rfl
@[simp] theorem Warp.mapSplits_quarter (w : Warp) (f : Split → Split) : (w.mapSplits f).quarter = w.quarter := rfl
@[simp] theorem Warp.mapSplits_age (w : Warp) (f : Split → Split) : (w.mapSplits f).age = w.age := rfl
@[simp] theorem Warp.mapSplits_losses (w : Warp) (f : Split → Split) : (w.mapSplits f).losses = w.losses := rfl
@[simp] theorem Warp.mapSplits_starved (w : Warp) (f : Split → Split) : (w.mapSplits f).starved = w.starved := rfl
@[simp] theorem Warp.mapSplits_retired (w : Warp) (f : Split → Split) : (w.mapSplits f).retired = w.retired := rfl

@[simp] theorem Warp.countDivergent_v (w : Warp) (n : Nat) : (w.countDivergent n).v = w.v := rfl
@[simp] theorem Warp.countDivergent_s (w : Warp) (n : Nat) : (w.countDivergent n).s = w.s := rfl
@[simp] theorem Warp.countDivergent_m (w : Warp) (n : Nat) : (w.countDivergent n).m = w.m := rfl
@[simp] theorem Warp.countDivergent_x (w : Warp) (n : Nat) : (w.countDivergent n).x = w.x := rfl
@[simp] theorem Warp.countDivergent_splits (w : Warp) (n : Nat) : (w.countDivergent n).splits = w.splits := rfl
@[simp] theorem Warp.countDivergent_cur (w : Warp) (n : Nat) : (w.countDivergent n).cur = w.cur := rfl
@[simp] theorem Warp.countDivergent_run (w : Warp) (n : Nat) : (w.countDivergent n).run = w.run := rfl
@[simp] theorem Warp.countDivergent_meets (w : Warp) (n : Nat) : (w.countDivergent n).meets = w.meets := rfl
@[simp] theorem Warp.countDivergent_fpf (w : Warp) (n : Nat) : (w.countDivergent n).fpf = w.fpf := rfl
@[simp] theorem Warp.countDivergent_conv (w : Warp) (n : Nat) : (w.countDivergent n).conv = w.conv := rfl
@[simp] theorem Warp.countDivergent_mmrep (w : Warp) (n : Nat) : (w.countDivergent n).mmrep = w.mmrep := rfl
@[simp] theorem Warp.countDivergent_fault (w : Warp) (n : Nat) : (w.countDivergent n).fault = w.fault := rfl
@[simp] theorem Warp.countDivergent_seals (w : Warp) (n : Nat) : (w.countDivergent n).seals = w.seals := rfl
@[simp] theorem Warp.countDivergent_pends (w : Warp) (n : Nat) : (w.countDivergent n).pends = w.pends := rfl
@[simp] theorem Warp.countDivergent_hold (w : Warp) (n : Nat) : (w.countDivergent n).hold = w.hold := rfl
@[simp] theorem Warp.countDivergent_save (w : Warp) (n : Nat) : (w.countDivergent n).save = w.save := rfl
@[simp] theorem Warp.countDivergent_pmark (w : Warp) (n : Nat) : (w.countDivergent n).pmark = w.pmark := rfl
@[simp] theorem Warp.countDivergent_secs (w : Warp) (n : Nat) : (w.countDivergent n).secs = w.secs := rfl
@[simp] theorem Warp.countDivergent_report (w : Warp) (n : Nat) : (w.countDivergent n).report = w.report := rfl
@[simp] theorem Warp.countDivergent_mmas (w : Warp) (n : Nat) : (w.countDivergent n).mmas = w.mmas := rfl
@[simp] theorem Warp.countDivergent_lastMma (w : Warp) (n : Nat) : (w.countDivergent n).lastMma = w.lastMma := rfl
@[simp] theorem Warp.countDivergent_quarter (w : Warp) (n : Nat) : (w.countDivergent n).quarter = w.quarter := rfl
@[simp] theorem Warp.countDivergent_age (w : Warp) (n : Nat) : (w.countDivergent n).age = w.age := rfl
@[simp] theorem Warp.countDivergent_losses (w : Warp) (n : Nat) : (w.countDivergent n).losses = w.losses := rfl
@[simp] theorem Warp.countDivergent_starved (w : Warp) (n : Nat) : (w.countDivergent n).starved = w.starved := rfl
@[simp] theorem Warp.countDivergent_retired (w : Warp) (n : Nat) : (w.countDivergent n).retired = w.retired := rfl

/-! ### A part read after it is written -/

theorem State.core_setCore (s : State) (n k : Nat) (c : Core) : (s.setCore n c).core k = if n = k then c else s.core k := by
  unfold State.core State.setCore
  split
  · subst_vars; exact Store.get_put_same ..
  · exact Store.get_put_other _ _ _ ‹_›

theorem State.slice_setSlice (s : State) (n k : Nat) (x : Slice) : (s.setSlice n x).slice k = if n = k then x else s.slice k := by
  unfold State.slice State.setSlice
  split
  · subst_vars; exact Store.get_put_same ..
  · exact Store.get_put_other _ _ _ ‹_›

theorem State.part_setPart (s : State) (n k : Nat) (x : Part) : (s.setPart n x).part k = if n = k then x else s.part k := by
  unfold State.part State.setPart
  split
  · subst_vars; exact Store.get_put_same ..
  · exact Store.get_put_other _ _ _ ‹_›

theorem State.unit_setUnit (s : State) (n k : Nat) (x : RasterUnit) : (s.setUnit n x).unit k = if n = k then x else s.unit k := by
  unfold State.unit State.setUnit
  split
  · subst_vars; exact Store.get_put_same ..
  · exact Store.get_put_other _ _ _ ‹_›

@[simp] theorem State.part_setCore (s : State) (n k : Nat) (c : Core) : (s.setCore n c).part k = s.part k := rfl
@[simp] theorem State.slice_setCore (s : State) (n k : Nat) (c : Core) : (s.setCore n c).slice k = s.slice k := rfl
@[simp] theorem State.unit_setCore (s : State) (n k : Nat) (c : Core) : (s.setCore n c).unit k = s.unit k := rfl
@[simp] theorem State.core_setPart (s : State) (n k : Nat) (x : Part) : (s.setPart n x).core k = s.core k := rfl
@[simp] theorem State.slice_setPart (s : State) (n k : Nat) (x : Part) : (s.setPart n x).slice k = s.slice k := rfl
@[simp] theorem State.unit_setPart (s : State) (n k : Nat) (x : Part) : (s.setPart n x).unit k = s.unit k := rfl
@[simp] theorem State.core_setSlice (s : State) (n k : Nat) (x : Slice) : (s.setSlice n x).core k = s.core k := rfl
@[simp] theorem State.part_setSlice (s : State) (n k : Nat) (x : Slice) : (s.setSlice n x).part k = s.part k := rfl
@[simp] theorem State.unit_setSlice (s : State) (n k : Nat) (x : Slice) : (s.setSlice n x).unit k = s.unit k := rfl
@[simp] theorem State.core_setUnit (s : State) (n k : Nat) (x : RasterUnit) : (s.setUnit n x).core k = s.core k := rfl
@[simp] theorem State.part_setUnit (s : State) (n k : Nat) (x : RasterUnit) : (s.setUnit n x).part k = s.part k := rfl
@[simp] theorem State.slice_setUnit (s : State) (n k : Nat) (x : RasterUnit) : (s.setUnit n x).slice k = s.slice k := rfl
@[simp] theorem State.part_setCrew (s : State) (n k j : Nat) (cr : Crew) : (s.setCrew n k cr).part j = s.part j := rfl
@[simp] theorem State.slice_setCrew (s : State) (n k j : Nat) (cr : Crew) : (s.setCrew n k cr).slice j = s.slice j := rfl
@[simp] theorem State.unit_setCrew (s : State) (n k j : Nat) (cr : Crew) : (s.setCrew n k cr).unit j = s.unit j := rfl

theorem State.crew_setCrew (s : State) (n k n' k' : Nat) (cr : Crew) :
    (s.setCrew n k cr).crew n' k' = if n = n' ∧ k = k' then some cr else s.crew n' k' := by
  unfold State.crew State.setCrew
  rw [State.core_setCore]
  by_cases h : n = n'
  · subst h
    simp only [if_true, Store.look_put, true_and]
  · simp [h]

@[simp] theorem State.crew_setCrew_same (s : State) (n k : Nat) (cr : Crew) : (s.setCrew n k cr).crew n k = some cr := by
  simp [State.crew_setCrew]

theorem Crew.warp_setWarp (cr : Crew) (i j : Nat) (w : Warp) : (cr.setWarp i w).warp j = if i = j then w else cr.warp j := by
  unfold Crew.warp Crew.setWarp
  split
  · subst_vars; exact Store.get_put_same ..
  · exact Store.get_put_other _ _ _ ‹_›

theorem State.setWarp_of {s : State} {n k : Nat} {cr : Crew} (h : s.crew n k = some cr) (i : Nat) (w : Warp) :
    s.setWarp n k i w = s.setCrew n k (cr.setWarp i w) := by
  simp [State.setWarp, h]

theorem laneKey_inj {n l n' l' : Nat} (hn : n < 512) (hn' : n' < 512) : laneKey n l = laneKey n' l' ↔ n = n' ∧ l = l' := by
  unfold laneKey; omega

theorem Warp.vreg_setV (w : Warp) {n n' : Nat} (l l' : Nat) (x : Word) (hn : n < 512) (hn' : n' < 512) :
    (w.setV n l x).vreg n' l' = if n = n' ∧ l = l' then x else w.vreg n' l' := by
  simp only [Warp.vreg, Warp.setV, Store.get_set, laneKey_inj hn hn']

theorem Warp.sreg_setS (w : Warp) (n n' : Nat) (x : Word) : (w.setS n x).sreg n' = if n = n' then x else w.sreg n' := by
  simp only [Warp.sreg, Warp.setS, Store.get_set]

theorem Warp.xreg_setX (w : Warp) {k k' : Nat} (l l' : Nat) (x : BitVec 16) (hk : k < 512) (hk' : k' < 512) :
    (w.setX k l x).xreg k' l' = if k = k' ∧ l = l' then x else w.xreg k' l' := by
  simp only [Warp.xreg, Warp.setX, Store.get_set, laneKey_inj hk hk']

/-- m7 reads 1 and keeps no written value (07 R79). -/
theorem Warp.pred_setPred (w : Warp) {k k' : Nat} (l l' : Nat) (b : Bool) (hk : k < 512) (hk' : k' < 512) :
    (w.setPred k l b).pred k' l' = if k' = 7 then true else if k = k' ∧ l = l' then b else w.pred k' l' := by
  unfold Warp.pred Warp.setPred
  by_cases h : k' = 7
  · simp [h]
  · by_cases h7 : k = 7
    · subst h7
      simp [h, Ne.symm h]
    · simp only [h, h7, if_false, Store.get_set, laneKey_inj hk hk']

@[simp] theorem Warp.pred_seven (w : Warp) (l : Nat) : w.pred 7 l = true := rfl

@[simp] theorem Warp.sreg_setV (w : Warp) (n l k : Nat) (x : Word) : (w.setV n l x).sreg k = w.sreg k := rfl
@[simp] theorem Warp.pred_setV (w : Warp) (n l k j : Nat) (x : Word) : (w.setV n l x).pred k j = w.pred k j := rfl
@[simp] theorem Warp.xreg_setV (w : Warp) (n l k j : Nat) (x : Word) : (w.setV n l x).xreg k j = w.xreg k j := rfl
@[simp] theorem Warp.vreg_setS (w : Warp) (n k j : Nat) (x : Word) : (w.setS n x).vreg k j = w.vreg k j := rfl
@[simp] theorem Warp.pred_setS (w : Warp) (n k j : Nat) (x : Word) : (w.setS n x).pred k j = w.pred k j := rfl
@[simp] theorem Warp.vreg_setPred (w : Warp) (k l n j : Nat) (b : Bool) : (w.setPred k l b).vreg n j = w.vreg n j := by
  simp [Warp.vreg]
@[simp] theorem Warp.sreg_setPred (w : Warp) (k l n : Nat) (b : Bool) : (w.setPred k l b).sreg n = w.sreg n := by
  simp [Warp.sreg]

end Sys2Proof.Machine
end

