-- ==== Sys2Proof/Laws/Issue.lean ====
section
/-! SUPPORT. The operations that every instruction of a warp shares: what each can change, and how an issue ends. -/

namespace Sys2Proof.Machine

/-- `t` differs from `s` at most in cores, slices, partitions, waits at queues, the order of memory events and the count of free values. -/
structure Kept (s t : State) : Prop where
  mem      : t.mem = s.mem
  poison   : t.poison = s.poison
  bias     : t.bias = s.bias
  flipping : t.flipping = s.flipping
  raster   : t.raster = s.raster
  conts    : t.conts = s.conts
  qcommits : t.qcommits = s.qcommits
  qsteps   : t.qsteps = s.qsteps
  arrivals : t.arrivals = s.arrivals
  qstopped : t.qstopped = s.qstopped
  channels : t.channels = s.channels
  mgmt     : t.mgmt = s.mgmt
  hostData : t.hostData = s.hostData
  agenda   : t.agenda = s.agenda
  turn     : t.turn = s.turn
  picked   : t.picked = s.picked
  crewCtr  : t.crewCtr = s.crewCtr
  hostLines : t.hostLines = s.hostLines
  resolved : t.resolved = s.resolved

namespace Kept

theorem refl (s : State) : Kept s s := by constructor <;> rfl

theorem trans {s t u : State} (h : Kept s t) (k : Kept t u) : Kept s u := by
  constructor
  · exact k.mem.trans h.mem
  · exact k.poison.trans h.poison
  · exact k.bias.trans h.bias
  · exact k.flipping.trans h.flipping
  · exact k.raster.trans h.raster
  · exact k.conts.trans h.conts
  · exact k.qcommits.trans h.qcommits
  · exact k.qsteps.trans h.qsteps
  · exact k.arrivals.trans h.arrivals
  · exact k.qstopped.trans h.qstopped
  · exact k.channels.trans h.channels
  · exact k.mgmt.trans h.mgmt
  · exact k.hostData.trans h.hostData
  · exact k.agenda.trans h.agenda
  · exact k.turn.trans h.turn
  · exact k.picked.trans h.picked
  · exact k.crewCtr.trans h.crewCtr
  · exact k.hostLines.trans h.hostLines
  · exact k.resolved.trans h.resolved

theorem ite {b : Prop} [Decidable b] {s t u : State} (h : Kept s t) (k : Kept s u) : Kept s (if b then t else u) := by
  split
  · exact h
  · exact k

theorem foldl {α : Type} {f : State → α → State} (hf : ∀ s a, Kept s (f s a)) : ∀ (l : List α) (s : State), Kept s (l.foldl f s)
  | [], s => refl s
  | a :: r, s => (hf s a).trans (foldl hf r (f s a))

theorem setCore (s : State) (n : Nat) (c : Core) : Kept s (s.setCore n c) := by constructor <;> rfl
theorem setSlice (s : State) (n : Nat) (x : Slice) : Kept s (s.setSlice n x) := by constructor <;> rfl
theorem setPart (s : State) (n : Nat) (x : Part) : Kept s (s.setPart n x) := by constructor <;> rfl
theorem setCrew (s : State) (n k : Nat) (cr : Crew) : Kept s (s.setCrew n k cr) := by constructor <;> rfl
theorem setWarp (s : State) (n k i : Nat) (w : Warp) : Kept s (s.setWarp n k i w) := by constructor <;> simp
theorem mapCrews (s : State) (f : Crew → Crew) : Kept s (s.mapCrews f) := by constructor <;> rfl
theorem updCrew (s : State) (uid : Nat) (f : Crew → Crew) : Kept s (s.updCrew uid f) := by constructor <;> rfl
theorem ordered (s : State) (g : Ledger) : Kept s { s with ledger := g } := by constructor <;> rfl
theorem mapSplits (s : State) (f : Split → Split) : Kept s (s.mapSplits f) := by constructor <;> rfl
theorem countCore (s : State) (n i k : Nat) : Kept s (s.countCore n i k) := by constructor <;> rfl
theorem countSlice (s : State) (n i k : Nat) : Kept s (s.countSlice n i k) := by constructor <;> rfl
theorem setRack (s : State) (n e : Nat) (x : RackEnt) : Kept s (s.setRack n e x) := by constructor <;> rfl
theorem freeRack (s : State) (n e : Nat) : Kept s (s.freeRack n e) := by constructor <;> rfl
theorem drawn (s : State) (n : Nat) : Kept s { s with freeCtr := n } := by constructor <;> rfl

theorem giveArea (s : State) (p uid what : Nat) : Kept s (s.giveArea p uid what) := by constructor <;> rfl

theorem waits (s : State) (l : List QWait) : Kept s { s with qwaits := l } := by constructor <;> rfl

/-! ### Ordered sections and the end of a warp -/

theorem advanceLoop : ∀ (f : Nat) (s : State) (sl e : Nat), Kept s (s.advanceLoop f sl e)
  | 0, s, _, _ => refl s
  | f + 1, s, sl, e => by
    unfold State.advanceLoop
    split
    · exact refl s
    · split
      · exact refl s
      · dsimp only
        split
        · exact ((setRack ..).trans (countSlice ..)).trans (advanceLoop f ..)
        · split
          · exact ((setRack ..).trans (countSlice ..)).trans (advanceLoop f ..)
          · split
            · exact ((setRack ..).trans (mapCrews ..)).trans (countSlice ..)
            · exact refl s

theorem reclassOnce (s : State) : Kept s s.reclassOnce :=
  (foldl (f := fun (s : State) (t : Nat × Nat × RackEnt) => s.setRack t.1 t.2.1 { t.2.2 with cls := s.waitersClass t.1 t.2.1 })
    (fun _ _ => setRack ..) s.allRack s).trans (mapCrews ..)

theorem reclassLoop : ∀ (n : Nat) (s : State), Kept s (State.reclassLoop n s)
  | 0, s => refl s
  | n + 1, s => (reclassOnce s).trans (reclassLoop n s.reclassOnce)

theorem reclass (s : State) : Kept s s.reclass := by
  unfold State.reclass
  dsimp only
  split
  · exact mapCrews ..
  · exact (mapCrews ..).trans (reclassLoop ..)

theorem reown (s : State) : Kept s s.reown :=
  (foldl (f := fun (s : State) (t : Nat × Nat × RackEnt) => s.setRack t.1 t.2.1 { t.2.2 with owner := s.ownerOf t.1 t.2.1 t.2.2 })
    (fun _ _ => setRack ..) s.allRack s).trans (reclass _)

theorem advance (s : State) (sl e : Nat) : Kept s (s.advance sl e) := by
  unfold State.advance
  dsimp only
  refine (advanceLoop 140 s sl e).trans ?_
  split
  · exact refl _
  · split
    · exact (freeRack ..).trans (reclass _)
    · exact (setRack ..).trans (reclass _)

theorem leaveAt (s : State) (sl e : Nat) : Kept s (s.leaveAt sl e) := by
  unfold State.leaveAt
  split
  · exact refl s
  · split
    · exact refl s
    · exact (setRack ..).trans (advance ..)

theorem skipAt (s : State) (sl e q : Nat) (auto : Bool) : Kept s (s.skipAt sl e q auto) := by
  unfold State.skipAt
  split
  · exact refl s
  · exact (setRack ..).trans (advance ..)

theorem faultWaiters (s : State) (sl e code : Nat) : Kept s (s.faultWaiters sl e code) := mapCrews ..

theorem breakKey (s : State) (sl e : Nat) : Kept s (s.breakKey sl e) := by
  unfold State.breakKey
  split
  · exact refl s
  · exact (((setRack ..).trans (faultWaiters ..)).trans (countSlice ..)).trans (reown _)

theorem dropWaiters (s : State) (uid : Nat) (w : Warp) : Kept s (s.dropWaiters uid w) := by
  unfold State.dropWaiters
  refine foldl (fun s sp => ?_) _ s
  split
  · split
    · exact (setRack ..).trans (updCrew ..)
    · exact refl s
  · exact refl s

theorem retireWarp (s : State) (c k wi : Nat) : Kept s (s.retireWarp c k wi) := by
  unfold State.retireWarp
  split
  · exact refl s
  · exact ((setCrew ..).trans (setCore ..)).trans (giveArea ..)

theorem autoLeave (s : State) (ts : List Thr) (w : Warp) : Kept s (s.autoLeave ts w) :=
  foldl (f := fun (s : State) (h : Section) => ((s.countSlice h.slice 0x31 1).sendLeave ts h.slice h.entry).leaveAt h.slice h.entry)
    (fun _ _ => ((countSlice ..).trans (ordered ..)).trans (leaveAt ..)) w.secs s

theorem endWarp (s : State) (c k wi : Nat) (st : Option Word) : Kept s (s.endWarp c k wi st) := by
  unfold State.endWarp
  split
  · exact refl s
  · refine Kept.trans ?_ (reclass _)
    refine Kept.trans ?_ (retireWarp ..)
    refine Kept.trans ?_ (waits _ _)
    refine Kept.trans ?_ (foldl (fun _ _ => breakKey ..) _ _)
    exact (setCrew ..).trans (dropWaiters ..)

theorem deliver (s : State) (c k wi lane : Nat) (pc resume : Addr) (fs : List LaneFault) : Kept s (s.deliver c k wi lane pc resume fs) := by
  unfold State.deliver
  split
  · exact refl s
  · dsimp only
    split
    · exact endWarp ..
    · split
      · exact (setWarp ..).trans (endWarp ..)
      · refine Kept.trans ?_ (setCrew ..)
        exact ite (countCore ..) (refl s)

theorem settleWarp (s : State) (c k wi : Nat) : Kept s (s.settleWarp c k wi) := by
  unfold State.settleWarp
  split
  · exact refl s
  · exact setCrew ..

theorem endWait (s : State) (c k wi : Nat) (sp : Split) : Kept s (s.endWait c k wi sp) := by
  unfold State.endWait
  have draw (b : Bool) : Kept s (if b then { s with freeCtr := s.freeCtr + 1 } else s) := by
    split
    · exact drawn ..
    · exact refl s
  split
  · exact refl s
  · dsimp only
    split
    · split
      · split
        · exact ((draw _).trans (setWarp ..)).trans (deliver ..)
        · exact (draw _).trans (setWarp ..)
      · exact refl s
    · split
      · split
        · exact ((draw _).trans (setWarp ..)).trans (deliver ..)
        · exact ((draw _).trans (setWarp ..)).trans (deliver ..)
      · exact refl s
    · exact refl s

theorem wakeWarp (s : State) (c k wi : Nat) : Kept s (s.wakeWarp c k wi) := by
  unfold State.wakeWarp
  have once (s : State) : Kept s (match s.crew c k with
      | none => s
      | some cr => ((cr.warp wi).splits).foldl (fun s sp =>
          match s.crew c k with
          | none => s
          | some cr => if (cr.warp wi).splits.any (fun t => decide (t = sp)) then s.endWait c k wi sp else s) s) := by
    split
    · exact refl s
    · refine foldl (fun s sp => ?_) _ s
      split
      · exact refl s
      · split
        · exact endWait ..
        · exact refl s
  exact (((once s).trans (settleWarp ..)).trans (once _)).trans (settleWarp ..)

theorem afterIssue (s : State) (c k wi : Nat) : Kept s (s.afterIssue c k wi) := by
  unfold State.afterIssue
  split
  · exact refl s
  · dsimp only
    split
    · exact refl s
    · split
      · exact ((retireWarp ..).trans (autoLeave ..)).trans (reclass _)
      · exact wakeWarp ..

theorem charge (c : Ctx) (s : State) : Kept s (c.charge s) := by
  unfold Ctx.charge
  split
  · exact refl s
  · exact ((setCore ..).trans (countCore ..)).trans (countCore ..)

theorem raise (c : Ctx) (s : State) (fs : List LaneFault) : Kept s (c.raise s fs) := (setWarp ..).trans (afterIssue ..)

theorem finish (c : Ctx) (s : State) (ctl : Ctl) (late : List LaneFault) (extra : List (RegKind × Nat × Nat)) :
    Kept s (c.finish s ctl late extra) := by
  unfold Ctx.finish
  dsimp only
  refine Kept.trans ?_ (afterIssue ..)
  cases ctl <;> first
    | exact setWarp ..
    | exact (drawn ..).trans (setWarp ..)

theorem parkAt (c : Ctx) (s : State) (wait : Wait) (ans : Store Nat) : Kept s (c.parkAt s wait ans) := (setWarp ..).trans (afterIssue ..)

end Kept

/-! ### Issue -/

/-- How an issue ends: in a fault of the encoding or of an operand on a state without the instruction's effect, in the fault, the effect or the wait that the
instruction's own meaning gives. -/
theorem issue_cases {i : Instr} {s t : State} {bad : Ctx → Bool} {body : Ctx → State → Res} (h : issue i s bad body = .next t) :
    ∃ c, s.ctx? i = some c ∧
      let u := c.charge { s with picked := none }
      let u0 := c.setWarp u (c.account (c.warpIn u))
      (∃ fs, t = c.raise u0 fs) ∨
      (∃ u' fs, body c u = .fault u' fs ∧ t = c.raise (c.setWarp u' (c.account (c.warpIn u'))) fs) ∨
      (∃ u' ctl late extra, body c u = .done u' ctl late extra ∧ c.preFaults = [] ∧ t = c.finish u' ctl late extra) ∨
      ∃ u' w ans, body c u = .park u' w ans ∧ c.preFaults = [] ∧ t = c.parkAt u' w ans := by
  unfold issue at h
  split at h
  · exact absurd h (by simp)
  · rename_i c hc
    refine ⟨c, hc, ?_⟩
    dsimp only at h ⊢
    split at h
    · exact .inl ⟨_, (Host.Outcome.next.inj h).symm⟩
    · split at h <;> split at h
      · exact .inr (.inl ⟨_, _, ‹_›, (Host.Outcome.next.inj h).symm⟩)
      · exact .inl ⟨_, (Host.Outcome.next.inj h).symm⟩
      · exact .inr (.inr (.inl ⟨_, _, _, _, ‹_›, List.isEmpty_iff.1 ‹_›, (Host.Outcome.next.inj h).symm⟩))
      · exact .inl ⟨_, (Host.Outcome.next.inj h).symm⟩
      · exact .inr (.inr (.inr ⟨_, _, _, ‹_›, List.isEmpty_iff.1 ‹_›, (Host.Outcome.next.inj h).symm⟩))
      · exact .inl ⟨_, (Host.Outcome.next.inj h).symm⟩

/-- An issue whose own meaning keeps the state outside cores, slices and partitions keeps it so altogether, but for what was picked. -/
theorem issue_kept {i : Instr} {s t : State} {bad : Ctx → Bool} {body : Ctx → State → Res} (h : issue i s bad body = .next t)
    (hb : ∀ c u, (∀ u' fs, body c u = .fault u' fs → Kept u u') ∧ (∀ u' ctl l e, body c u = .done u' ctl l e → Kept u u') ∧
      ∀ u' w a, body c u = .park u' w a → Kept u u') : Kept { s with picked := none } t := by
  obtain ⟨c, -, h⟩ := issue_cases h
  have k := Kept.charge c { s with picked := none }
  rcases h with ⟨fs, rfl⟩ | ⟨u', fs, hu, rfl⟩ | ⟨u', ctl, l, e, hu, -, rfl⟩ | ⟨u', w, a, hu, -, rfl⟩
  · exact (k.trans (.setWarp ..)).trans (.raise ..)
  · exact ((k.trans ((hb c _).1 _ _ hu)).trans (.setWarp ..)).trans (.raise ..)
  · exact (k.trans ((hb c _).2.1 _ _ _ _ hu)).trans (.finish ..)
  · exact (k.trans ((hb c _).2.2 _ _ _ hu)).trans (.parkAt ..)

/-- An instruction that changes registers only changes nothing outside cores, slices and partitions. -/
theorem issueReg_kept {i : Instr} {s t : State} {f : Ctx → Warp → Warp} (h : issueReg i s f = .next t) : Kept { s with picked := none } t := by
  refine issue_kept h fun c u => ⟨?_, ?_, ?_⟩
  · intro u' fs h; simp [regBody] at h
  · intro u' ctl l e h
    simp only [regBody, Res.done.injEq] at h
    exact h.1 ▸ Kept.setWarp ..
  · intro u' w a h; simp [regBody] at h

/-- The effect of an issue without a fault of its encoding or operands. -/
theorem issue_done {i : Instr} {s : State} {bad : Ctx → Bool} {body : Ctx → State → Res} {c : Ctx} (hc : s.ctx? i = some c)
    (he : encOk i = true) (hd : dstOk c.form.d c.x.d = true) (hb : bad c = false) (hp : c.preFaults = []) {u : State} {ctl : Ctl}
    {late : List LaneFault} {extra : List (RegKind × Nat × Nat)}
    (h : body c (c.charge { s with picked := none }) = .done u ctl late extra) : issue i s bad body = .next (c.finish u ctl late extra) := by
  simp [issue, hc, he, hd, hb, hp, h]

theorem issue_fault {i : Instr} {s : State} {bad : Ctx → Bool} {body : Ctx → State → Res} {c : Ctx} (hc : s.ctx? i = some c)
    (he : encOk i = true) (hd : dstOk c.form.d c.x.d = true) (hb : bad c = false) (hp : c.preFaults = []) {u : State} {fs : List LaneFault}
    (h : body c (c.charge { s with picked := none }) = .fault u fs) :
    issue i s bad body = .next (c.raise (c.setWarp u (c.account (c.warpIn u))) fs) := by
  simp [issue, hc, he, hd, hb, hp, h]

theorem issue_park {i : Instr} {s : State} {bad : Ctx → Bool} {body : Ctx → State → Res} {c : Ctx} (hc : s.ctx? i = some c)
    (he : encOk i = true) (hd : dstOk c.form.d c.x.d = true) (hb : bad c = false) (hp : c.preFaults = []) {u : State} {w : Wait}
    {ans : Store Nat} (h : body c (c.charge { s with picked := none }) = .park u w ans) : issue i s bad body = .next (c.parkAt u w ans) := by
  simp [issue, hc, he, hd, hb, hp, h]

end Sys2Proof.Machine
end

