-- ==== Sys2Proof/Laws/Memory.lean ====
section
/-! SUPPORT. Memory: what a read gives after a write, and that each operation that changes memory keeps its canonical form. -/

namespace Sys2Proof.Machine

/-! ### Canonical form -/

theorem memPut_wf : ∀ {m : Store Byte} (a : Nat) (bs : List Byte), Memory.wf m → Memory.wf (memPut m a bs)
  | _, _, [], h => h
  | _, a, b :: r, h => memPut_wf (a + 1) r (Store.set_wf a b h)

theorem reset_mem_wf : Memory.wf State.reset.mem := by decide

/-- Of what a store does, memory sees its bytes alone: neither the record of the event nor the rereads that it causes change it. -/
@[simp] theorem State.recheck_mem (s : State) (a n : Nat) : (s.recheck a n).mem = s.mem := rfl

@[simp] theorem State.putRaw_mem (s : State) (pa : Nat) (bs : List Byte) : (s.putRaw pa bs).mem = memPut s.mem pa bs := rfl

@[simp] theorem State.putBy_mem (s : State) (who : Option (Thr × List Rel)) (pa : Nat) (bs : List Byte) :
    (s.putBy who pa bs).mem = memPut s.mem pa bs := rfl

@[simp] theorem State.storeRaw_mem (s : State) (pa : Nat) (bs : List Byte) : (s.storeRaw pa bs).mem = memPut s.mem pa bs := rfl

@[simp] theorem State.storeBy_mem (s : State) (who : Option (Thr × List Rel)) (pa : Nat) (bs : List Byte) :
    (s.storeBy who pa bs).mem = memPut s.mem pa bs := rfl

@[simp] theorem State.storeAt_mem (s : State) (pa : Nat) (bs : List Byte) : (s.storeAt pa bs).mem = memPut s.mem pa bs := rfl

@[simp] theorem State.placeAt_mem (s : State) (pa : Nat) (bs : List Byte) : (s.placeAt pa bs).mem = memPut s.mem pa bs := rfl

theorem State.storeAt_wf {s : State} (pa : Nat) (bs : List Byte) (h : Memory.wf s.mem) : Memory.wf (s.storeAt pa bs).mem := by
  rw [State.storeAt_mem]
  exact memPut_wf pa bs h

theorem State.eraseLine_mem (s : State) (pa : Nat) : (s.eraseLine pa).mem = memPut s.mem (128 * lineOf pa) (List.replicate 128 0) := by
  simp only [State.eraseLine, State.clearPoison]

theorem State.eraseLine_wf {s : State} (pa : Nat) (h : Memory.wf s.mem) : Memory.wf (s.eraseLine pa).mem := by
  rw [State.eraseLine_mem]
  exact memPut_wf _ _ h

theorem puts_wf : ∀ {m : Store Byte} (ws : List (Nat × List Byte)), Memory.wf m → Memory.wf (ws.foldl (fun m w => memPut m w.1 w.2) m)
  | _, [], h => h
  | _, w :: r, h => puts_wf r (memPut_wf w.1 w.2 h)

theorem foldl_mem {α : Type} {f : State → α → State} (hf : ∀ s a, (f s a).mem = s.mem) : ∀ (l : List α) (s : State), (l.foldl f s).mem = s.mem
  | [], _ => rfl
  | a :: r, s => (foldl_mem hf r (f s a)).trans (hf s a)

theorem State.storeMany_mem (s : State) (ws : List (Nat × List Byte)) :
    (s.storeMany ws).mem = ws.foldl (fun m w => memPut m w.1 w.2) s.mem := by
  have put : ∀ (ws : List (Nat × List Byte)) (s : State),
      (ws.foldl (fun s w => s.putRaw w.1 w.2) s).mem = ws.foldl (fun m w => memPut m w.1 w.2) s.mem := by
    intro ws
    induction ws with
    | nil => intro s; rfl
    | cons w r ih => intro s; rw [List.foldl_cons, ih, State.putRaw_mem, List.foldl_cons]
  rw [State.storeMany, foldl_mem fun s (w : Nat × List Byte) => State.recheck_mem s w.1 w.2.length, put]

theorem State.storeMany_wf {s : State} (ws : List (Nat × List Byte)) (h : Memory.wf s.mem) : Memory.wf (s.storeMany ws).mem := by
  rw [State.storeMany_mem]
  exact puts_wf ws h

theorem State.editMem_wf {s : State} (lo n : Nat) (f : Nat → Byte → Byte) (h : Memory.wf s.mem) : Memory.wf (s.editMem lo n f).mem := by
  have hd := ((Store.wf_iff s.mem (0 : Byte)).1 h).2
  unfold State.editMem
  rw [State.recheck_mem]
  refine Store.filterMap_wf (m := s.mem) _ ?_ ?_ h
  · intro e x hx
    split at hx
    · split at hx
      · exact absurd hx (by simp)
      · simp only [Option.some.injEq] at hx; rw [← hx]
    · simp only [Option.some.injEq] at hx; rw [← hx]
  · intro e he x hx
    split at hx
    · split at hx
      · exact absurd hx (by simp)
      · simp only [Option.some.injEq] at hx; rw [← hx]; assumption
    · simp only [Option.some.injEq] at hx; rw [← hx]; exact hd e he

theorem State.resetModule_wf {s : State} (h : Memory.wf s.mem) : Memory.wf s.resetModule.mem := Store.filter_wf _ h

/-! ### Reads after writes -/

theorem get_memPut : ∀ (bs : List Byte) (m : Store Byte) (a b : Nat),
    Store.get (memPut m a bs) 0 b = if a ≤ b ∧ b < a + bs.length then bs.getD (b - a) 0 else Store.get m 0 b
  | [], m, a, b => by simp [memPut]
  | x :: r, m, a, b => by
    rw [memPut, get_memPut r, Store.get_set]
    by_cases h : a = b
    · subst h
      simp [show ¬ (a + 1 ≤ a) by omega]
    · by_cases h1 : a + 1 ≤ b ∧ b < a + 1 + r.length
      · rw [if_pos h1, if_pos (by simp only [List.length_cons]; omega), show b - a = (b - (a + 1)) + 1 by omega]
        simp
      · rw [if_neg h1, if_neg h, if_neg (by simp only [List.length_cons]; omega)]

theorem State.byteAt_storeAt (s : State) (pa : Nat) (bs : List Byte) (b : Nat) :
    (s.storeAt pa bs).byteAt b = if pa ≤ b ∧ b < pa + bs.length then bs.getD (b - pa) 0 else s.byteAt b :=
  by unfold State.byteAt; rw [State.storeAt_mem]; exact get_memPut bs s.mem pa b

theorem State.byteAt_eraseLine (s : State) (pa b : Nat) :
    (s.eraseLine pa).byteAt b = if 128 * lineOf pa ≤ b ∧ b < 128 * lineOf pa + 128 then 0 else s.byteAt b := by
  unfold State.byteAt
  rw [State.eraseLine_mem, get_memPut, List.length_replicate]
  split
  · rename_i h
    rw [List.getD_replicate _ (by omega)]
  · rfl

theorem State.length_bytesAt (s : State) : ∀ n pa, (s.bytesAt pa n).length = n
  | 0, _ => rfl
  | n + 1, pa => by simp [State.bytesAt, State.length_bytesAt s n]

theorem State.bytesAt_eq_map (s : State) : ∀ n pa, s.bytesAt pa n = (List.range n).map fun k => s.seenByte (pa + k)
  | 0, _ => rfl
  | n + 1, pa => by
    rw [State.bytesAt, State.bytesAt_eq_map s n, List.range_succ_eq_map]
    simp [Function.comp_def, Nat.add_assoc, Nat.add_comm 1]

theorem length_bytesLE : ∀ n x, (bytesLE n x).length = n
  | 0, _ => rfl
  | n + 1, x => by simp [bytesLE, length_bytesLE n]

theorem natOf_bytesLE : ∀ n x, natOf (bytesLE n x) = x % 256 ^ n
  | 0, x => by simp [bytesLE, natOf, Nat.mod_one]
  | n + 1, x => by
    rw [bytesLE, natOf, natOf_bytesLE n, BitVec.toNat_ofNat, show 256 ^ (n + 1) = 256 * 256 ^ n from pow_succ' 256 n]
    exact (Nat.mod_mul (a := 256)).symm

end Sys2Proof.Machine
end

