-- ==== Sys2Proof/Laws/Order.lean ====
section
/-! SUPPORT. What clocks, points and threads of the ledger know after each operation on them (11 R171, R177). -/

namespace Sys2Proof.Machine

/-- A clock with one more event knows what it knew, and that thread's events up to the one added. -/
theorem Clock.knows_mark (k : Clock) (t u : Thr) (n m : Nat) :
    (k.mark t n).knows u m = true ↔ k.knows u m = true ∨ (u = t ∧ m ≤ n) := by
  unfold Clock.mark
  split
  case isTrue h =>
    refine ⟨.inl, fun g => g.elim id ?_⟩
    rintro ⟨rfl, hm⟩
    simp only [Clock.knows, Bool.or_eq_true, decide_eq_true_eq, List.any_eq_true, Bool.and_eq_true] at h ⊢
    rcases h with h | ⟨x, hx, rfl, hn⟩
    · exact .inl (by omega)
    · exact .inr ⟨x, hx, rfl, by omega⟩
  case isFalse h =>
    simp only [Clock.knows, Bool.or_eq_true, decide_eq_true_eq, List.any_eq_true, Bool.and_eq_true, not_or, not_exists, not_and,
      List.mem_cons, List.mem_filter, Bool.not_eq_true', decide_eq_false_iff_not] at h ⊢
    constructor
    · rintro (g | ⟨x, rfl | ⟨hx, hn⟩, rfl, hm⟩)
      · exact .inl (.inl g)
      · exact .inr ⟨rfl, hm⟩
      · exact .inl (.inr ⟨x, hx, rfl, hm⟩)
    · rintro ((g | ⟨x, hx, rfl, hm⟩) | ⟨rfl, hm⟩)
      · exact .inl g
      · by_cases e : x.1 = t
        · exact .inr ⟨(t, n), .inl rfl, e.symm, by have := h.2 x hx e; simp only; omega⟩
        · exact .inr ⟨x, .inr ⟨hx, e⟩, rfl, hm⟩
      · exact .inr ⟨(u, n), .inl rfl, rfl, hm⟩

/-- Marking a list of events adds exactly those. -/
theorem Clock.knows_marks (l : List (Thr × Nat)) (k : Clock) (u : Thr) (m : Nat) :
    (l.foldl (fun k x => k.mark x.1 x.2) k).knows u m = true ↔ k.knows u m = true ∨ ∃ x ∈ l, u = x.1 ∧ m ≤ x.2 := by
  induction l generalizing k with
  | nil => simp
  | cons x r ih => simp [ih, Clock.knows_mark, or_assoc]

/-- The join of two points knows what either knows. -/
theorem Clock.knows_join (a b : Clock) (t : Thr) (n : Nat) :
    (a.join b).knows t n = true ↔ a.knows t n = true ∨ b.knows t n = true := by
  rw [Clock.join, Clock.knows_marks]
  simp only [Clock.knows, Bool.or_eq_true, decide_eq_true_eq, List.any_eq_true, Bool.and_eq_true, Nat.max_def]
  constructor
  · rintro ((h | h) | ⟨x, hx, rfl, hn⟩)
    · split at h
      · exact .inr (.inl h)
      · exact .inl (.inl h)
    · exact .inl (.inr h)
    · exact .inr (.inr ⟨x, hx, rfl, hn⟩)
  · rintro ((h | h) | (h | ⟨x, hx, rfl, hn⟩))
    · exact .inl (.inl (by split <;> omega))
    · exact .inl (.inr h)
    · exact .inl (.inl (by split <;> omega))
    · exact .inr ⟨x, hx, rfl, hn⟩

@[simp] theorem Ledger.point_setPoint (g : Ledger) (p q : Point) (k : Clock) :
    (g.setPoint p k).point q = if p = q then k else g.point q := by
  unfold Ledger.setPoint Ledger.point
  by_cases h : p = q
  · simp [h]
  · have e : (g.points.filter fun x => !decide (x.1 = p)).find? (fun x => decide (x.1 = q)) = g.points.find? fun x => decide (x.1 = q) := by
      rw [List.find?_filter]
      congr 1; funext x
      by_cases hx : x.1 = q <;> simp [hx, Ne.symm h]
    simp [h, e]

/-- A thread that is set is as it was set, and no other thread has come to anything else. -/
@[simp] theorem Ledger.thread_setThread (g : Ledger) (t u : Thr) (x : ThrSt) :
    (g.setThread t x).thread u = if t = u then x else g.thread u := by
  by_cases h : t = u
  · simp [Ledger.thread, Ledger.setThread, h]
  · have e : (g.threads.filter fun y => !decide (y.1 = t)).find? (fun y => decide (y.1 = u)) = g.threads.find? fun y => decide (y.1 = u) := by
      rw [List.find?_filter]
      congr 1; funext y
      by_cases hy : y.1 = u <;> simp [hy, Ne.symm h]
    simp only [Ledger.thread, Ledger.setThread, List.find?_cons, decide_eq_false h, e, if_neg h, Ledger.point]

/-- A point hands on what it handed on before and what is given to it (11 R177). -/
theorem Ledger.knows_give (g : Ledger) (p : Point) (k : Clock) (t : Thr) (n : Nat) :
    ((g.give p k).point p).knows t n = true ↔ (g.point p).knows t n = true ∨ k.knows t n = true := by
  simp [Ledger.give, Clock.knows_join]

/-- A thread that acquires knows what it knew and what it acquires (11 R171). -/
theorem Ledger.knows_acquire (g : Ledger) (t u : Thr) (k : Clock) (n : Nat) :
    ((g.acquire t k).thread t).clk.knows u n = true ↔ (g.thread t).clk.knows u n = true ∨ k.knows u n = true := by
  simp [Ledger.acquire, Clock.knows_join]

/-- A release hands on what its thread knows, what it has read, and all its own events (11 R171). -/
theorem Ledger.knows_before (g : Ledger) (t u : Thr) (n : Nat) :
    (g.before t).knows u n = true ↔
      (g.thread t).clk.knows u n = true ∨ (g.thread t).obs.knows u n = true ∨ (u = t ∧ n ≤ g.count) := by
  simp [Ledger.before, Clock.knows_mark, Clock.knows_join, or_assoc]

end Sys2Proof.Machine
end

