-- ==== Sys2Proof/Laws/PerInstr.lean ====
section
/-! SUPPORT. Per constructor of `Instr`: its opcode with its head and its encoded word 2, or its B32 code with its word, is read back as the
constructor (07 R75-R91). -/

namespace Sys2Proof.Laws

open Sys2Proof Sys2Proof.Machine

theorem decode_encodeWC (w : WC) : decodeWC (encodeWC w) = .ok w := by
  obtain ⟨t, r, sat, ftz, neg, abs, cond, pd, imm⟩ := w
  have ht : tyOf (tyCode t % 2 ^ 4) = some t := by cases t <;> rfl
  have hr : decodeRnd (encodeRnd r % 2 ^ 2) = r := by cases r <;> rfl
  have hb (b : Bool) : decide (ofBool b % 2 ^ 1 = 1) = b := by cases b <;> rfl
  have hf {n : Nat} (x : BitVec n) : BitVec.ofNat n (x.toNat % 2 ^ n) = x := by simp
  simp only [decodeWC, encodeWC, wcWidths, unpack, pack, Nat.add_mul_mod_self_left, Nat.mod_mod, Nat.add_mul_div_left, Nat.two_pow_pos,
    Nat.mod_div_self, Nat.zero_add, ht, hr, hb, hf]

theorem decode_encodeWM (w : WM) : decodeWM (encodeWM w) = .ok w := by
  obtain ⟨space, size, sign, scope, order, cpol, off⟩ := w
  have hb (b : Bool) : decide (ofBool b % 2 ^ 1 = 1) = b := by cases b <;> rfl
  have hf {n : Nat} (x : BitVec n) : BitVec.ofNat n (x.toNat % 2 ^ n) = x := by simp
  simp only [decodeWM, encodeWM, wmWidths, unpack, pack, Nat.add_mul_mod_self_left, Nat.mod_mod, Nat.add_mul_div_left, Nat.two_pow_pos,
    Nat.mod_div_self, Nat.zero_add, Nat.zero_mod, Nat.mul_mod_right, Nat.mul_div_cancel_left, if_true, hb, hf]

theorem decode_encodeWB (w : WB) : decodeWB (encodeWB w) = .ok w := by
  obtain ⟨hint, off⟩ := w
  have hf {n : Nat} (x : BitVec n) : BitVec.ofNat n (x.toNat % 2 ^ n) = x := by simp
  simp only [decodeWB, encodeWB, wbWidths, unpack, pack, Nat.add_mul_mod_self_left, Nat.mod_mod, Nat.add_mul_div_left, Nat.two_pow_pos,
    Nat.zero_add, Nat.zero_mod, Nat.mod_div_self, Nat.mul_mod_right, Nat.mul_div_cancel_left, if_true, hf]

/-- The opcode of an instruction with its head and its encoded word 2 is read back as the instruction, and so is its B32 code with its word. -/
def Rebuilt.Statement (i : Instr) : Prop :=
  (∀ op x w2, opcode i = some op → x96Head i = some x → word2 i = some w2 → encOk i = true → mkX96 op x (encodeWord2 w2) = .ok i) ∧
  ∀ base w k, b32Row i = some (base, w, k) → mkB32 base w = .ok i

theorem wc (k : WC → Instr) (w : WC) : (decodeWC (encodeWC w)).map k = .ok (k w) := by rw [decode_encodeWC]; rfl
theorem wm (k : WM → Instr) (w : WM) : (decodeWM (encodeWM w)).map k = .ok (k w) := by rw [decode_encodeWM]; rfl
theorem wb (k : WB → Instr) (w : WB) : (decodeWB (encodeWB w)).map k = .ok (k w) := by rw [decode_encodeWB]; rfl
theorem ws (k : WS → Instr) (w : WS) : (.ok (k (BitVec.ofNat 32 w.toNat)) : Except Reject Instr) = .ok (k w) := by
  rw [BitVec.ofNat_toNat, BitVec.setWidth_eq]

theorem ofX96 {i : Instr} {op : Nat} {x : Head} {w2 : Word2} (h1 : opcode i = some op) (h2 : x96Head i = some x) (h3 : word2 i = some w2)
    (h : mkX96 op x (encodeWord2 w2) = .ok i) (h4 : b32Row i = none) : Rebuilt.Statement i := by
  refine ⟨fun _ _ _ g1 g2 g3 _ => ?_, fun _ _ _ g => ?_⟩
  · rw [h1] at g1; rw [h2] at g2; rw [h3] at g3
    cases g1; cases g2; cases g3; exact h
  · rw [h4] at g; cases g

theorem ofB32 {i : Instr} {base : Nat} {w : B32} {k : Imm6} (h1 : b32Row i = some (base, w, k)) (h2 : opcode i = none)
    (h : mkB32 base w = .ok i) : Rebuilt.Statement i := by
  refine ⟨fun _ _ _ g => ?_, fun _ _ _ g => ?_⟩
  · rw [h2] at g; cases g
  · rw [h1] at g; cases g; exact h

theorem ofEvent {i : Instr} (h1 : opcode i = none) (h2 : b32Row i = none) : Rebuilt.Statement i :=
  ⟨fun _ _ _ g => (by rw [h1] at g; cases g), fun _ _ _ g => (by rw [h2] at g; cases g)⟩

/-- `call` and `call.r` share an opcode and differ in `SUB` (09 R137). -/
theorem Rebuilt.call (x w) : Rebuilt.Statement (.call x w) := by
  refine ⟨fun _ _ _ g1 g2 g3 g => ?_, fun _ _ _ g => by cases g⟩
  cases g1; cases g2; cases g3
  have h : x.sub = 0 := by
    by_contra h
    have f : form (.call x w) = none := by
      show branchForm x (hintOk w) 0 .unread (dV 2) = none
      simp [branchForm, formIf, show x.sub.toNat ≠ 0 from fun e => h (BitVec.eq_of_toNat_eq e)]
    have e : encOk (.call x w) = (true && match form (.call x w), some x with
      | some f, some x => headOk f x (imm12Of (.call x w))
      | _, _ => false) := rfl
    rw [e, f] at g
    cases g
  show (decodeWB (encodeWB w)).map _ = _
  rw [decode_encodeWB]
  simp [Except.map, h]

theorem Rebuilt.callR (x w) : Rebuilt.Statement (.callR x w) := by
  refine ⟨fun _ _ _ g1 g2 g3 g => ?_, fun _ _ _ g => by cases g⟩
  cases g1; cases g2; cases g3
  have h : x.sub = 1 := by
    by_contra h
    have f : form (.callR x w) = none := by
      show branchForm x (hintOk w && decide (w.off = 0)) 1 (Use.vs 2) (dV 2) = none
      simp [branchForm, formIf, show x.sub.toNat ≠ 1 from fun e => h (BitVec.eq_of_toNat_eq e)]
    have e : encOk (.callR x w) = (true && match form (.callR x w), some x with
      | some f, some x => headOk f x (imm12Of (.callR x w))
      | _, _ => false) := rfl
    rw [e, f] at g
    cases g
  show (decodeWB (encodeWB w)).map _ = _
  rw [decode_encodeWB]
  simp [Except.map, h]

theorem Rebuilt.nop (x w) : Rebuilt.Statement (.nop x w) := ofX96 rfl rfl rfl (wc (.nop x) w) rfl
theorem Rebuilt.mov (x w) : Rebuilt.Statement (.mov x w) := ofX96 rfl rfl rfl (wc (.mov x) w) rfl
theorem Rebuilt.add (x w) : Rebuilt.Statement (.add x w) := ofX96 rfl rfl rfl (wc (.add x) w) rfl
theorem Rebuilt.sub (x w) : Rebuilt.Statement (.sub x w) := ofX96 rfl rfl rfl (wc (.sub x) w) rfl
theorem Rebuilt.mul (x w) : Rebuilt.Statement (.mul x w) := ofX96 rfl rfl rfl (wc (.mul x) w) rfl
theorem Rebuilt.mulhi (x w) : Rebuilt.Statement (.mulhi x w) := ofX96 rfl rfl rfl (wc (.mulhi x) w) rfl
theorem Rebuilt.mad (x w) : Rebuilt.Statement (.mad x w) := ofX96 rfl rfl rfl (wc (.mad x) w) rfl
theorem Rebuilt.madw (x w) : Rebuilt.Statement (.madw x w) := ofX96 rfl rfl rfl (wc (.madw x) w) rfl
theorem Rebuilt.lea (x w) : Rebuilt.Statement (.lea x w) := ofX96 rfl rfl rfl (wc (.lea x) w) rfl
theorem Rebuilt.add3 (x w) : Rebuilt.Statement (.add3 x w) := ofX96 rfl rfl rfl (wc (.add3 x) w) rfl
theorem Rebuilt.min (x w) : Rebuilt.Statement (.min x w) := ofX96 rfl rfl rfl (wc (.min x) w) rfl
theorem Rebuilt.max (x w) : Rebuilt.Statement (.max x w) := ofX96 rfl rfl rfl (wc (.max x) w) rfl
theorem Rebuilt.abs (x w) : Rebuilt.Statement (.abs x w) := ofX96 rfl rfl rfl (wc (.abs x) w) rfl
theorem Rebuilt.neg (x w) : Rebuilt.Statement (.neg x w) := ofX96 rfl rfl rfl (wc (.neg x) w) rfl
theorem Rebuilt.and (x w) : Rebuilt.Statement (.and x w) := ofX96 rfl rfl rfl (wc (.and x) w) rfl
theorem Rebuilt.or (x w) : Rebuilt.Statement (.or x w) := ofX96 rfl rfl rfl (wc (.or x) w) rfl
theorem Rebuilt.xor (x w) : Rebuilt.Statement (.xor x w) := ofX96 rfl rfl rfl (wc (.xor x) w) rfl
theorem Rebuilt.not (x w) : Rebuilt.Statement (.not x w) := ofX96 rfl rfl rfl (wc (.not x) w) rfl
theorem Rebuilt.bitf (x w) : Rebuilt.Statement (.bitf x w) := ofX96 rfl rfl rfl (wc (.bitf x) w) rfl
theorem Rebuilt.shl (x w) : Rebuilt.Statement (.shl x w) := ofX96 rfl rfl rfl (wc (.shl x) w) rfl
theorem Rebuilt.shr (x w) : Rebuilt.Statement (.shr x w) := ofX96 rfl rfl rfl (wc (.shr x) w) rfl
theorem Rebuilt.sar (x w) : Rebuilt.Statement (.sar x w) := ofX96 rfl rfl rfl (wc (.sar x) w) rfl
theorem Rebuilt.dsh (x w) : Rebuilt.Statement (.dsh x w) := ofX96 rfl rfl rfl (wc (.dsh x) w) rfl
theorem Rebuilt.fext (x w) : Rebuilt.Statement (.fext x w) := ofX96 rfl rfl rfl (wc (.fext x) w) rfl
theorem Rebuilt.fins (x w) : Rebuilt.Statement (.fins x w) := ofX96 rfl rfl rfl (wc (.fins x) w) rfl
theorem Rebuilt.clz (x w) : Rebuilt.Statement (.clz x w) := ofX96 rfl rfl rfl (wc (.clz x) w) rfl
theorem Rebuilt.popc (x w) : Rebuilt.Statement (.popc x w) := ofX96 rfl rfl rfl (wc (.popc x) w) rfl
theorem Rebuilt.brev (x w) : Rebuilt.Statement (.brev x w) := ofX96 rfl rfl rfl (wc (.brev x) w) rfl
theorem Rebuilt.cmp (x w) : Rebuilt.Statement (.cmp x w) := ofX96 rfl rfl rfl (wc (.cmp x) w) rfl
theorem Rebuilt.sel (x w) : Rebuilt.Statement (.sel x w) := ofX96 rfl rfl rfl (wc (.sel x) w) rfl
theorem Rebuilt.acs (x w) : Rebuilt.Statement (.acs x w) := ofX96 rfl rfl rfl (wc (.acs x) w) rfl
theorem Rebuilt.sad (x w) : Rebuilt.Statement (.sad x w) := ofX96 rfl rfl rfl (wc (.sad x) w) rfl
theorem Rebuilt.bsel (x w) : Rebuilt.Statement (.bsel x w) := ofX96 rfl rfl rfl (wc (.bsel x) w) rfl
theorem Rebuilt.pset (x w) : Rebuilt.Statement (.pset x w) := ofX96 rfl rfl rfl (wc (.pset x) w) rfl
theorem Rebuilt.vote (x w) : Rebuilt.Statement (.vote x w) := ofX96 rfl rfl rfl (wc (.vote x) w) rfl
theorem Rebuilt.ballot (x w) : Rebuilt.Statement (.ballot x w) := ofX96 rfl rfl rfl (wc (.ballot x) w) rfl
theorem Rebuilt.mcnt (x w) : Rebuilt.Statement (.mcnt x w) := ofX96 rfl rfl rfl (wc (.mcnt x) w) rfl
theorem Rebuilt.xlane (x w) : Rebuilt.Statement (.xlane x w) := ofX96 rfl rfl rfl (wc (.xlane x) w) rfl
theorem Rebuilt.bcast (x w) : Rebuilt.Statement (.bcast x w) := ofX96 rfl rfl rfl (wc (.bcast x) w) rfl
theorem Rebuilt.wred (x w) : Rebuilt.Statement (.wred x w) := ofX96 rfl rfl rfl (wc (.wred x) w) rfl
theorem Rebuilt.wscan (x w) : Rebuilt.Statement (.wscan x w) := ofX96 rfl rfl rfl (wc (.wscan x) w) rfl
theorem Rebuilt.vget (x w) : Rebuilt.Statement (.vget x w) := ofX96 rfl rfl rfl (wc (.vget x) w) rfl
theorem Rebuilt.vput (x w) : Rebuilt.Statement (.vput x w) := ofX96 rfl rfl rfl (wc (.vput x) w) rfl
theorem Rebuilt.xset (x w) : Rebuilt.Statement (.xset x w) := ofX96 rfl rfl rfl (wc (.xset x) w) rfl
theorem Rebuilt.bmov (x w) : Rebuilt.Statement (.bmov x w) := ofX96 rfl rfl rfl (wc (.bmov x) w) rfl
theorem Rebuilt.bpass (x w) : Rebuilt.Statement (.bpass x w) := ofX96 rfl rfl rfl (wc (.bpass x) w) rfl
theorem Rebuilt.smov (x w) : Rebuilt.Statement (.smov x w) := ofX96 rfl rfl rfl (wc (.smov x) w) rfl
theorem Rebuilt.fadd (x w) : Rebuilt.Statement (.fadd x w) := ofX96 rfl rfl rfl (wc (.fadd x) w) rfl
theorem Rebuilt.fsub (x w) : Rebuilt.Statement (.fsub x w) := ofX96 rfl rfl rfl (wc (.fsub x) w) rfl
theorem Rebuilt.fmul (x w) : Rebuilt.Statement (.fmul x w) := ofX96 rfl rfl rfl (wc (.fmul x) w) rfl
theorem Rebuilt.ffma (x w) : Rebuilt.Statement (.ffma x w) := ofX96 rfl rfl rfl (wc (.ffma x) w) rfl
theorem Rebuilt.fmin (x w) : Rebuilt.Statement (.fmin x w) := ofX96 rfl rfl rfl (wc (.fmin x) w) rfl
theorem Rebuilt.fmax (x w) : Rebuilt.Statement (.fmax x w) := ofX96 rfl rfl rfl (wc (.fmax x) w) rfl
theorem Rebuilt.fcmp (x w) : Rebuilt.Statement (.fcmp x w) := ofX96 rfl rfl rfl (wc (.fcmp x) w) rfl
theorem Rebuilt.frnd (x w) : Rebuilt.Statement (.frnd x w) := ofX96 rfl rfl rfl (wc (.frnd x) w) rfl
theorem Rebuilt.rcp (x w) : Rebuilt.Statement (.rcp x w) := ofX96 rfl rfl rfl (wc (.rcp x) w) rfl
theorem Rebuilt.rsqrt (x w) : Rebuilt.Statement (.rsqrt x w) := ofX96 rfl rfl rfl (wc (.rsqrt x) w) rfl
theorem Rebuilt.sqrt (x w) : Rebuilt.Statement (.sqrt x w) := ofX96 rfl rfl rfl (wc (.sqrt x) w) rfl
theorem Rebuilt.exp2 (x w) : Rebuilt.Statement (.exp2 x w) := ofX96 rfl rfl rfl (wc (.exp2 x) w) rfl
theorem Rebuilt.log2 (x w) : Rebuilt.Statement (.log2 x w) := ofX96 rfl rfl rfl (wc (.log2 x) w) rfl
theorem Rebuilt.sinpi (x w) : Rebuilt.Statement (.sinpi x w) := ofX96 rfl rfl rfl (wc (.sinpi x) w) rfl
theorem Rebuilt.cospi (x w) : Rebuilt.Statement (.cospi x w) := ofX96 rfl rfl rfl (wc (.cospi x) w) rfl
theorem Rebuilt.fdot2 (x w) : Rebuilt.Statement (.fdot2 x w) := ofX96 rfl rfl rfl (wc (.fdot2 x) w) rfl
theorem Rebuilt.cvt (x w) : Rebuilt.Statement (.cvt x w) := ofX96 rfl rfl rfl (wc (.cvt x) w) rfl
theorem Rebuilt.cvtq (x w) : Rebuilt.Statement (.cvtq x w) := ofX96 rfl rfl rfl (wc (.cvtq x) w) rfl
theorem Rebuilt.cvtd (x w) : Rebuilt.Statement (.cvtd x w) := ofX96 rfl rfl rfl (wc (.cvtd x) w) rfl
theorem Rebuilt.pack (x w) : Rebuilt.Statement (.pack x w) := ofX96 rfl rfl rfl (wc (.pack x) w) rfl
theorem Rebuilt.unpack (x w) : Rebuilt.Statement (.unpack x w) := ofX96 rfl rfl rfl (wc (.unpack x) w) rfl
theorem Rebuilt.fclass (x w) : Rebuilt.Statement (.fclass x w) := ofX96 rfl rfl rfl (wc (.fclass x) w) rfl
theorem Rebuilt.fscale (x w) : Rebuilt.Statement (.fscale x w) := ofX96 rfl rfl rfl (wc (.fscale x) w) rfl
theorem Rebuilt.bra (x w) : Rebuilt.Statement (.bra x w) := ofX96 rfl rfl rfl (wb (.bra x) w) rfl
theorem Rebuilt.brx (x w) : Rebuilt.Statement (.brx x w) := ofX96 rfl rfl rfl (wb (.brx x) w) rfl
theorem Rebuilt.ret (x w) : Rebuilt.Statement (.ret x w) := ofX96 rfl rfl rfl (ws (.ret x) w) rfl
theorem Rebuilt.exit (x w) : Rebuilt.Statement (.exit x w) := ofX96 rfl rfl rfl (ws (.exit x) w) rfl
theorem Rebuilt.meet (x w) : Rebuilt.Statement (.meet x w) := ofX96 rfl rfl rfl (wb (.meet x) w) rfl
theorem Rebuilt.trap (x w) : Rebuilt.Statement (.trap x w) := ofX96 rfl rfl rfl (ws (.trap x) w) rfl
theorem Rebuilt.tret (x w) : Rebuilt.Statement (.tret x w) := ofX96 rfl rfl rfl (ws (.tret x) w) rfl
theorem Rebuilt.yield (x w) : Rebuilt.Statement (.yield x w) := ofX96 rfl rfl rfl (ws (.yield x) w) rfl
theorem Rebuilt.brk (x w) : Rebuilt.Statement (.brk x w) := ofX96 rfl rfl rfl (ws (.brk x) w) rfl
theorem Rebuilt.mfsr (x w) : Rebuilt.Statement (.mfsr x w) := ofX96 rfl rfl rfl (ws (.mfsr x) w) rfl
theorem Rebuilt.mtsr (x w) : Rebuilt.Statement (.mtsr x w) := ofX96 rfl rfl rfl (ws (.mtsr x) w) rfl
theorem Rebuilt.ld (x w) : Rebuilt.Statement (.ld x w) := ofX96 rfl rfl rfl (wm (.ld x) w) rfl
theorem Rebuilt.st (x w) : Rebuilt.Statement (.st x w) := ofX96 rfl rfl rfl (wm (.st x) w) rfl
theorem Rebuilt.ldg4 (x w) : Rebuilt.Statement (.ldg4 x w) := ofX96 rfl rfl rfl (wm (.ldg4 x) w) rfl
theorem Rebuilt.atom (x w) : Rebuilt.Statement (.atom x w) := ofX96 rfl rfl rfl (wm (.atom x) w) rfl
theorem Rebuilt.red (x w) : Rebuilt.Statement (.red x w) := ofX96 rfl rfl rfl (wm (.red x) w) rfl
theorem Rebuilt.prefetch (x w) : Rebuilt.Statement (.prefetch x w) := ofX96 rfl rfl rfl (wm (.prefetch x) w) rfl
theorem Rebuilt.fence (x w) : Rebuilt.Statement (.fence x w) := ofX96 rfl rfl rfl (wm (.fence x) w) rfl
theorem Rebuilt.waita (x w) : Rebuilt.Statement (.waita x w) := ofX96 rfl rfl rfl (wm (.waita x) w) rfl
theorem Rebuilt.smap (x w) : Rebuilt.Statement (.smap x w) := ofX96 rfl rfl rfl (wm (.smap x) w) rfl
theorem Rebuilt.swb (x w) : Rebuilt.Statement (.swb x w) := ofX96 rfl rfl rfl (wm (.swb x) w) rfl
theorem Rebuilt.cflush (x w) : Rebuilt.Statement (.cflush x w) := ofX96 rfl rfl rfl (wm (.cflush x) w) rfl
theorem Rebuilt.bellInit (x w) : Rebuilt.Statement (.bellInit x w) := ofX96 rfl rfl rfl (ws (.bellInit x) w) rfl
theorem Rebuilt.bellArr (x w) : Rebuilt.Statement (.bellArr x w) := ofX96 rfl rfl rfl (ws (.bellArr x) w) rfl
theorem Rebuilt.bellWait (x w) : Rebuilt.Statement (.bellWait x w) := ofX96 rfl rfl rfl (ws (.bellWait x) w) rfl
theorem Rebuilt.fset (x w) : Rebuilt.Statement (.fset x w) := ofX96 rfl rfl rfl (ws (.fset x) w) rfl
theorem Rebuilt.fon (x w) : Rebuilt.Statement (.fon x w) := ofX96 rfl rfl rfl (ws (.fon x) w) rfl
theorem Rebuilt.qres (x w) : Rebuilt.Statement (.qres x w) := ofX96 rfl rfl rfl (ws (.qres x) w) rfl
theorem Rebuilt.qcom (x w) : Rebuilt.Statement (.qcom x w) := ofX96 rfl rfl rfl (ws (.qcom x) w) rfl
theorem Rebuilt.qtake (x w) : Rebuilt.Statement (.qtake x w) := ofX96 rfl rfl rfl (ws (.qtake x) w) rfl
theorem Rebuilt.spawn (x w) : Rebuilt.Statement (.spawn x w) := ofX96 rfl rfl rfl (ws (.spawn x) w) rfl
theorem Rebuilt.cpy (x w) : Rebuilt.Statement (.cpy x w) := ofX96 rfl rfl rfl (ws (.cpy x) w) rfl
theorem Rebuilt.qfen (x w) : Rebuilt.Statement (.qfen x w) := ofX96 rfl rfl rfl (ws (.qfen x) w) rfl
theorem Rebuilt.tcfg (x w) : Rebuilt.Statement (.tcfg x w) := ofX96 rfl rfl rfl (ws (.tcfg x) w) rfl
theorem Rebuilt.bres (x w) : Rebuilt.Statement (.bres x w) := ofX96 rfl rfl rfl (ws (.bres x) w) rfl
theorem Rebuilt.brel (x w) : Rebuilt.Statement (.brel x w) := ofX96 rfl rfl rfl (ws (.brel x) w) rfl
theorem Rebuilt.tload (x w) : Rebuilt.Statement (.tload x w) := ofX96 rfl rfl rfl (ws (.tload x) w) rfl
theorem Rebuilt.mma (x w) : Rebuilt.Statement (.mma x w) := ofX96 rfl rfl rfl (ws (.mma x) w) rfl
theorem Rebuilt.tdrain (x w) : Rebuilt.Statement (.tdrain x w) := ofX96 rfl rfl rfl (ws (.tdrain x) w) rfl
theorem Rebuilt.tzero (x w) : Rebuilt.Statement (.tzero x w) := ofX96 rfl rfl rfl (ws (.tzero x) w) rfl
theorem Rebuilt.tquant (x w) : Rebuilt.Statement (.tquant x w) := ofX96 rfl rfl rfl (ws (.tquant x) w) rfl
theorem Rebuilt.mstat (x w) : Rebuilt.Statement (.mstat x w) := ofX96 rfl rfl rfl (ws (.mstat x) w) rfl
theorem Rebuilt.sopen (x w) : Rebuilt.Statement (.sopen x w) := ofX96 rfl rfl rfl (ws (.sopen x) w) rfl
theorem Rebuilt.senter (x w) : Rebuilt.Statement (.senter x w) := ofX96 rfl rfl rfl (ws (.senter x) w) rfl
theorem Rebuilt.sleave (x w) : Rebuilt.Statement (.sleave x w) := ofX96 rfl rfl rfl (ws (.sleave x) w) rfl
theorem Rebuilt.sskip (x w) : Rebuilt.Statement (.sskip x w) := ofX96 rfl rfl rfl (ws (.sskip x) w) rfl
theorem Rebuilt.stake (x w) : Rebuilt.Statement (.stake x w) := ofX96 rfl rfl rfl (ws (.stake x) w) rfl
theorem Rebuilt.rast (x w) : Rebuilt.Statement (.rast x w) := ofX96 rfl rfl rfl (ws (.rast x) w) rfl
theorem Rebuilt.fdone (x w) : Rebuilt.Statement (.fdone x w) := ofX96 rfl rfl rfl (ws (.fdone x) w) rfl
theorem Rebuilt.fpois (x w) : Rebuilt.Statement (.fpois x w) := ofX96 rfl rfl rfl (ws (.fpois x) w) rfl
theorem Rebuilt.b32Nop (w) : Rebuilt.Statement (.b32Nop w) := ofB32 rfl rfl rfl
theorem Rebuilt.b32Mov (w) : Rebuilt.Statement (.b32Mov w) := ofB32 rfl rfl rfl
theorem Rebuilt.b32AddS32 (w) : Rebuilt.Statement (.b32AddS32 w) := ofB32 rfl rfl rfl
theorem Rebuilt.b32SubS32 (w) : Rebuilt.Statement (.b32SubS32 w) := ofB32 rfl rfl rfl
theorem Rebuilt.b32MulS32 (w) : Rebuilt.Statement (.b32MulS32 w) := ofB32 rfl rfl rfl
theorem Rebuilt.b32And (w) : Rebuilt.Statement (.b32And w) := ofB32 rfl rfl rfl
theorem Rebuilt.b32Or (w) : Rebuilt.Statement (.b32Or w) := ofB32 rfl rfl rfl
theorem Rebuilt.b32Xor (w) : Rebuilt.Statement (.b32Xor w) := ofB32 rfl rfl rfl
theorem Rebuilt.b32Shl (w) : Rebuilt.Statement (.b32Shl w) := ofB32 rfl rfl rfl
theorem Rebuilt.b32Shr (w) : Rebuilt.Statement (.b32Shr w) := ofB32 rfl rfl rfl
theorem Rebuilt.b32Sar (w) : Rebuilt.Statement (.b32Sar w) := ofB32 rfl rfl rfl
theorem Rebuilt.b32MinS32 (w) : Rebuilt.Statement (.b32MinS32 w) := ofB32 rfl rfl rfl
theorem Rebuilt.b32MaxS32 (w) : Rebuilt.Statement (.b32MaxS32 w) := ofB32 rfl rfl rfl
theorem Rebuilt.b32MinN32 (w) : Rebuilt.Statement (.b32MinN32 w) := ofB32 rfl rfl rfl
theorem Rebuilt.b32MaxN32 (w) : Rebuilt.Statement (.b32MaxN32 w) := ofB32 rfl rfl rfl
theorem Rebuilt.b32FaddF32 (w) : Rebuilt.Statement (.b32FaddF32 w) := ofB32 rfl rfl rfl
theorem Rebuilt.b32FsubF32 (w) : Rebuilt.Statement (.b32FsubF32 w) := ofB32 rfl rfl rfl
theorem Rebuilt.b32FmulF32 (w) : Rebuilt.Statement (.b32FmulF32 w) := ofB32 rfl rfl rfl
theorem Rebuilt.b32FminF32 (w) : Rebuilt.Statement (.b32FminF32 w) := ofB32 rfl rfl rfl
theorem Rebuilt.b32FmaxF32 (w) : Rebuilt.Statement (.b32FmaxF32 w) := ofB32 rfl rfl rfl
theorem Rebuilt.b32FaddF16x2 (w) : Rebuilt.Statement (.b32FaddF16x2 w) := ofB32 rfl rfl rfl
theorem Rebuilt.b32FmulF16x2 (w) : Rebuilt.Statement (.b32FmulF16x2 w) := ofB32 rfl rfl rfl
theorem Rebuilt.b32FaddBf16x2 (w) : Rebuilt.Statement (.b32FaddBf16x2 w) := ofB32 rfl rfl rfl
theorem Rebuilt.b32FmulBf16x2 (w) : Rebuilt.Statement (.b32FmulBf16x2 w) := ofB32 rfl rfl rfl
theorem Rebuilt.b32AddS16x2 (w) : Rebuilt.Statement (.b32AddS16x2 w) := ofB32 rfl rfl rfl
theorem Rebuilt.b32SubS16x2 (w) : Rebuilt.Statement (.b32SubS16x2 w) := ofB32 rfl rfl rfl
theorem Rebuilt.b32MaxS16x2 (w) : Rebuilt.Statement (.b32MaxS16x2 w) := ofB32 rfl rfl rfl
theorem Rebuilt.b32MinS16x2 (w) : Rebuilt.Statement (.b32MinS16x2 w) := ofB32 rfl rfl rfl
theorem Rebuilt.b32XlaneFrom (w) : Rebuilt.Statement (.b32XlaneFrom w) := ofB32 rfl rfl rfl
theorem Rebuilt.b32XlaneSwap (w) : Rebuilt.Statement (.b32XlaneSwap w) := ofB32 rfl rfl rfl
theorem Rebuilt.b32Bcast (w) : Rebuilt.Statement (.b32Bcast w) := ofB32 rfl rfl rfl
theorem Rebuilt.issueArbitration (x0 x1) : Rebuilt.Statement (.issueArbitration x0 x1) := ofEvent rfl rfl
theorem Rebuilt.maskPredictionRepair (x0 x1 x2) : Rebuilt.Statement (.maskPredictionRepair x0 x1 x2) := ofEvent rfl rfl
theorem Rebuilt.resultReturn (x0 x1 x2 x3 x4 x5) : Rebuilt.Statement (.resultReturn x0 x1 x2 x3 x4 x5) := ofEvent rfl rfl
theorem Rebuilt.lineRequest (x0 x1 x2 x3) : Rebuilt.Statement (.lineRequest x0 x1 x2 x3) := ofEvent rfl rfl
theorem Rebuilt.fillRecordWaitServed (x0 x1) : Rebuilt.Statement (.fillRecordWaitServed x0 x1) := ofEvent rfl rfl
theorem Rebuilt.fillTaskPlace (x0) : Rebuilt.Statement (.fillTaskPlace x0) := ofEvent rfl rfl
theorem Rebuilt.fillRelease (x0 x1 x2) : Rebuilt.Statement (.fillRelease x0 x1 x2) := ofEvent rfl rfl
theorem Rebuilt.copyExecute (x0 x1) : Rebuilt.Statement (.copyExecute x0 x1) := ofEvent rfl rfl
theorem Rebuilt.copyComplete (x0 x1) : Rebuilt.Statement (.copyComplete x0 x1) := ofEvent rfl rfl
theorem Rebuilt.continuationCommit (x0) : Rebuilt.Statement (.continuationCommit x0) := ofEvent rfl rfl
theorem Rebuilt.hodTloadExecute (x0) : Rebuilt.Statement (.hodTloadExecute x0) := ofEvent rfl rfl
theorem Rebuilt.tcfgBarrier (x0) : Rebuilt.Statement (.tcfgBarrier x0) := ofEvent rfl rfl
theorem Rebuilt.mmaExecute (x0 x1) : Rebuilt.Statement (.mmaExecute x0 x1) := ofEvent rfl rfl
theorem Rebuilt.mmaComplete (x0) : Rebuilt.Statement (.mmaComplete x0) := ofEvent rfl rfl
theorem Rebuilt.tdrainExecute (x0) : Rebuilt.Statement (.tdrainExecute x0) := ofEvent rfl rfl
theorem Rebuilt.tquantExecute (x0) : Rebuilt.Statement (.tquantExecute x0) := ofEvent rfl rfl
theorem Rebuilt.tzeroExecute (x0) : Rebuilt.Statement (.tzeroExecute x0) := ofEvent rfl rfl
theorem Rebuilt.mstatReport (x0 x1 x2) : Rebuilt.Statement (.mstatReport x0 x1 x2) := ofEvent rfl rfl
theorem Rebuilt.stallBudgetExpiry (x0 x1) : Rebuilt.Statement (.stallBudgetExpiry x0 x1) := ofEvent rfl rfl
theorem Rebuilt.stallCount (x0) : Rebuilt.Statement (.stallCount x0) := ofEvent rfl rfl
theorem Rebuilt.rasterBatch (x0) : Rebuilt.Statement (.rasterBatch x0) := ofEvent rfl rfl
theorem Rebuilt.tileKeyOpen (x0) : Rebuilt.Statement (.tileKeyOpen x0) := ofEvent rfl rfl
theorem Rebuilt.rasterBatchComplete (x0) : Rebuilt.Statement (.rasterBatchComplete x0) := ofEvent rfl rfl
theorem Rebuilt.crewDispatch (x0) : Rebuilt.Statement (.crewDispatch x0) := ofEvent rfl rfl
theorem Rebuilt.parkedEviction (x0) : Rebuilt.Statement (.parkedEviction x0) := ofEvent rfl rfl
theorem Rebuilt.crewSave (x0 x1) : Rebuilt.Statement (.crewSave x0 x1) := ofEvent rfl rfl
theorem Rebuilt.saveDeferLimit (x0 x1) : Rebuilt.Statement (.saveDeferLimit x0 x1) := ofEvent rfl rfl
theorem Rebuilt.crewRetire (x0 x1) : Rebuilt.Statement (.crewRetire x0 x1) := ofEvent rfl rfl
theorem Rebuilt.jobEnd (x0 x1) : Rebuilt.Statement (.jobEnd x0 x1) := ofEvent rfl rfl
theorem Rebuilt.completionRecordWrite (x0) : Rebuilt.Statement (.completionRecordWrite x0) := ofEvent rfl rfl
theorem Rebuilt.doorbell (x0 x1) : Rebuilt.Statement (.doorbell x0 x1) := ofEvent rfl rfl
theorem Rebuilt.launch (x0) : Rebuilt.Statement (.launch x0) := ofEvent rfl rfl
theorem Rebuilt.jobBind (x0) : Rebuilt.Statement (.jobBind x0) := ofEvent rfl rfl
theorem Rebuilt.config (x0) : Rebuilt.Statement (.config x0) := ofEvent rfl rfl
theorem Rebuilt.coreMove (x0) : Rebuilt.Statement (.coreMove x0) := ofEvent rfl rfl
theorem Rebuilt.tlbinv (x0) : Rebuilt.Statement (.tlbinv x0) := ofEvent rfl rfl
theorem Rebuilt.pageres (x0) : Rebuilt.Statement (.pageres x0) := ofEvent rfl rfl
theorem Rebuilt.genwr (x0) : Rebuilt.Statement (.genwr x0) := ofEvent rfl rfl
theorem Rebuilt.geninv (x0) : Rebuilt.Statement (.geninv x0) := ofEvent rfl rfl
theorem Rebuilt.bias (x0) : Rebuilt.Statement (.bias x0) := ofEvent rfl rfl
theorem Rebuilt.counters (x0) : Rebuilt.Statement (.counters x0) := ofEvent rfl rfl
theorem Rebuilt.rackrd (x0) : Rebuilt.Statement (.rackrd x0) := ofEvent rfl rfl
theorem Rebuilt.retired (x0) : Rebuilt.Statement (.retired x0) := ofEvent rfl rfl
theorem Rebuilt.scrub (x0) : Rebuilt.Statement (.scrub x0) := ofEvent rfl rfl
theorem Rebuilt.settime (x0) : Rebuilt.Statement (.settime x0) := ofEvent rfl rfl
theorem Rebuilt.layertest (x0) : Rebuilt.Statement (.layertest x0) := ofEvent rfl rfl
theorem Rebuilt.power (x0) : Rebuilt.Statement (.power x0) := ofEvent rfl rfl
theorem Rebuilt.attest (x0) : Rebuilt.Statement (.attest x0) := ofEvent rfl rfl
theorem Rebuilt.q0hdr (x0) : Rebuilt.Statement (.q0hdr x0) := ofEvent rfl rfl
theorem Rebuilt.reset (x0) : Rebuilt.Statement (.reset x0) := ofEvent rfl rfl
theorem Rebuilt.registerWriteIgnored (x0 x1) : Rebuilt.Statement (.registerWriteIgnored x0 x1) := ofEvent rfl rfl
theorem Rebuilt.helper (x0 x1) : Rebuilt.Statement (.helper x0 x1) := ofEvent rfl rfl
theorem Rebuilt.hwselHelperPart (x0) : Rebuilt.Statement (.hwselHelperPart x0) := ofEvent rfl rfl
theorem Rebuilt.hwselRepairEntry (x0) : Rebuilt.Statement (.hwselRepairEntry x0) := ofEvent rfl rfl
theorem Rebuilt.hwselHelperComplete (x0) : Rebuilt.Statement (.hwselHelperComplete x0) := ofEvent rfl rfl
theorem Rebuilt.hwselEnrol (x0) : Rebuilt.Statement (.hwselEnrol x0) := ofEvent rfl rfl
theorem Rebuilt.i3cDynamicAddress (x0) : Rebuilt.Statement (.i3cDynamicAddress x0) := ofEvent rfl rfl
theorem Rebuilt.railsStable : Rebuilt.Statement (.railsStable) := ofEvent rfl rfl
theorem Rebuilt.train (x0) : Rebuilt.Statement (.train x0) := ofEvent rfl rfl
theorem Rebuilt.march (x0) : Rebuilt.Statement (.march x0) := ofEvent rfl rfl
theorem Rebuilt.hostMemRead (x0 x1) : Rebuilt.Statement (.hostMemRead x0 x1) := ofEvent rfl rfl
theorem Rebuilt.hostMemWrite (x0 x1) : Rebuilt.Statement (.hostMemWrite x0 x1) := ofEvent rfl rfl
theorem Rebuilt.hbmCorrected (x0) : Rebuilt.Statement (.hbmCorrected x0) := ofEvent rfl rfl
theorem Rebuilt.hbmUncorrectable (x0) : Rebuilt.Statement (.hbmUncorrectable x0) := ofEvent rfl rfl
theorem Rebuilt.llcCorrected (x0 x1 x2) : Rebuilt.Statement (.llcCorrected x0 x1 x2) := ofEvent rfl rfl
theorem Rebuilt.llcUeClean (x0 x1 x2) : Rebuilt.Statement (.llcUeClean x0 x1 x2) := ofEvent rfl rfl
theorem Rebuilt.llcUeDirty (x0 x1 x2) : Rebuilt.Statement (.llcUeDirty x0 x1 x2) := ofEvent rfl rfl
theorem Rebuilt.sramUncorrectable (x0 x1) : Rebuilt.Statement (.sramUncorrectable x0 x1) := ofEvent rfl rfl
theorem Rebuilt.powerLoopEval (x0 x1 x2) : Rebuilt.Statement (.powerLoopEval x0 x1 x2) := ofEvent rfl rfl
theorem Rebuilt.thermalThrottle (x0) : Rebuilt.Statement (.thermalThrottle x0) := ofEvent rfl rfl
theorem Rebuilt.thermalTrip : Rebuilt.Statement (.thermalTrip) := ofEvent rfl rfl
theorem Rebuilt.dieFallsBelow100c : Rebuilt.Statement (.dieFallsBelow100c) := ofEvent rfl rfl
theorem Rebuilt.channelRefresh (x0) : Rebuilt.Statement (.channelRefresh x0) := ofEvent rfl rfl

end Sys2Proof.Laws
end

