-- ==== Sys2Proof/Laws/Warp.lean ====
section
/-! SUPPORT. What the shared steps of an issue do to the registers of a warp, and what a register reads after a destination is written. -/

namespace Sys2Proof.Machine

/-- The registers of a warp and the words it keeps are the same, but for `%conv` and `%mpred`. -/
structure RegsKept (w w' : Warp) : Prop where
  v      : w'.v = w.v
  s      : w'.s = w.s
  m      : w'.m = w.m
  x      : w'.x = w.x
  fpf    : w'.fpf = w.fpf
  mmrep  : w'.mmrep = w.mmrep
  fault  : w'.fault = w.fault
  secs   : w'.secs = w.secs
  pmark  : w'.pmark = w.pmark

namespace RegsKept

theorem refl (w : Warp) : RegsKept w w := by constructor <;> rfl

theorem trans {a b c : Warp} (h : RegsKept a b) (k : RegsKept b c) : RegsKept a c := by
  constructor
  · exact k.v.trans h.v
  · exact k.s.trans h.s
  · exact k.m.trans h.m
  · exact k.x.trans h.x
  · exact k.fpf.trans h.fpf
  · exact k.mmrep.trans h.mmrep
  · exact k.fault.trans h.fault
  · exact k.secs.trans h.secs
  · exact k.pmark.trans h.pmark

theorem replaceSplit (w : Warp) (l : Nat) (n : List Split) : RegsKept w (w.replaceSplit l n) := by constructor <;> rfl
theorem mapSplits (w : Warp) (f : Split → Split) : RegsKept w (w.mapSplits f) := by constructor <;> rfl
theorem dropLanes (w : Warp) (l : List Nat) : RegsKept w (w.dropLanes l) := by constructor <;> rfl
theorem pop (w : Warp) (l : List Nat) : RegsKept w (w.pop l) := by constructor <;> rfl
theorem uncur (w : Warp) (ls keep : List Nat) : RegsKept w (w.uncur ls keep) := by
  unfold Warp.uncur
  repeat' split
  all_goals first
    | exact refl w
    | constructor <;> rfl

theorem foldl {α : Type} {f : Warp → α → Warp} (hf : ∀ w a, RegsKept w (f w a)) : ∀ (l : List α) (w : Warp), RegsKept w (l.foldl f w)
  | [], w => refl w
  | a :: r, w => (hf w a).trans (foldl hf r (f w a))

theorem withSplits (w : Warp) (l : List Split) : RegsKept w { w with splits := l } := by constructor <;> rfl

theorem ite {w a b : Warp} {p : Prop} [Decidable p] (ha : RegsKept w a) (hb : RegsKept w b) : RegsKept w (if p then a else b) := by
  split
  · exact ha
  · exact hb

theorem hold1 (w : Warp) : RegsKept w w.hold1 := by
  refine RegsKept.trans (foldl (f := fun u sp => if (w.arrived sp).isEmpty then u else
    u.uncur sp.lanes (lanesWithout sp.lanes (w.arrived sp))) (fun u sp => ?_) w.splits w) (withSplits ..)
  exact ite (refl u) (uncur ..)
theorem regang (w : Warp) : RegsKept w w.regang := by constructor <;> rfl
theorem releaseAt (w : Warp) (pc : Addr) : RegsKept w (w.releaseAt pc) := by constructor <;> rfl
theorem advance (c : Ctx) (w : Warp) : RegsKept w (c.advance w) := by constructor <;> rfl
theorem countDivergent (w : Warp) (n : Nat) : RegsKept w (w.countDivergent n) := by constructor <;> rfl

theorem nextHold (w : Warp) (h : Option (Nat × Nat)) : RegsKept w (w.nextHold h) := by
  unfold Warp.nextHold
  cases h <;> constructor <;> rfl

theorem issuing (w : Warp) (sp : Split) (h : Option (Nat × Nat)) : RegsKept w (w.issuing sp h) :=
  (nextHold w h).trans (by constructor <;> rfl)

theorem account (c : Ctx) (w : Warp) : RegsKept w (c.account w) := ite (refl w) (issuing ..)

theorem stop (c : Ctx) (w : Warp) : RegsKept w (c.stop w) := by
  unfold Ctx.stop
  dsimp only
  split
  · refine RegsKept.trans (foldl (f := fun u (sp : Split) =>
      if (decide (sp.st = .run) && sp.lanes.any fun l => c.sp.lanes.any fun m => decide (m = l)) &&
        !w.returned (c.stopOps w sp.lanes) sp.lanes then u.uncur sp.lanes [] else u) (fun u sp => ?_) w.splits w) (withSplits ..)
    exact ite (uncur ..) (refl u)
  · exact refl w

theorem wakeSeal (w : Warp) : RegsKept w w.wakeSeal := by constructor <;> rfl
theorem dropOp (w : Warp) (op : Nat) : RegsKept w (w.dropOp op) := by constructor <;> rfl

theorem sealDests (c : Ctx) (late : List LaneFault) (extra : List (RegKind × Nat × Nat)) (w : Warp) :
    RegsKept w (c.sealDests late extra w) := by
  unfold Ctx.sealDests
  dsimp only
  split
  · exact ite (dropOp ..) (refl w)
  · constructor <;> rfl

theorem sealParked (c : Ctx) (w : Warp) : RegsKept w (c.sealParked w) := by
  unfold Ctx.sealParked
  exact ite (refl w) (by constructor <;> rfl)

theorem branch (c : Ctx) (t : List (Nat × Addr)) (n : Nat) (w : Warp) : RegsKept w (c.branch t n w) := by
  unfold Ctx.branch
  dsimp only
  repeat' split
  all_goals first
    | exact replaceSplit ..
    | exact ((uncur ..).trans (countDivergent ..)).trans (replaceSplit ..)

theorem settle (strict : Bool) : ∀ (f : Nat) (w : Warp), RegsKept w (Warp.settle strict f w)
  | 0, w => refl w
  | f + 1, w => by
    unfold Warp.settle
    dsimp only
    have h := (hold1 w).trans (regang w.hold1)
    split
    · exact (h.trans (releaseAt ..)).trans (settle strict f _)
    · split
      · exact h
      · split
        · exact h.trans (by constructor <;> rfl)
        · exact (h.trans (by constructor <;> rfl)).trans (settle strict f _)

/-- Control transferred other than by the end of lanes or of a handler. -/
theorem move (c : Ctx) {ctl : Ctl} (n : Nat) (w : Warp) (h : ctl ≠ .exit) (ht : ∀ t, ctl ≠ .tret t) : RegsKept w (c.move ctl n w) := by
  cases ctl with
  | next => exact advance ..
  | goto t => exact branch ..
  | exit => exact absurd rfl h
  | tret t => exact absurd rfl (ht t)
  | yield => exact (advance c w).trans (by constructor <;> rfl)

end RegsKept

/-! ### Destinations -/

/-- A register read after `n` registers from `d` up have been written in a lane. -/
theorem Warp.vreg_setVval : ∀ (n : Nat) (w : Warp) (d l x r j : Nat), d + n ≤ 512 → r < 512 →
    (w.setVval d n l x).vreg r j = if j = l ∧ d ≤ r ∧ r < d + n then BitVec.ofNat 32 (x / 2 ^ (32 * (r - d))) else w.vreg r j
  | 0, w, d, l, x, r, j, _, _ => by simp [Warp.setVval]
  | n + 1, w, d, l, x, r, j, hd, hr => by
    rw [Warp.setVval, Warp.vreg_setVval n _ (d + 1) l _ r j (by omega) hr, Warp.vreg_setV _ _ _ _ (by omega) hr]
    by_cases hj : j = l
    · subst hj
      by_cases h1 : d + 1 ≤ r ∧ r < d + 1 + n
      · rw [if_pos ⟨rfl, h1⟩, if_pos ⟨rfl, by omega, by omega⟩, Nat.div_div_eq_div_mul, ← Nat.pow_add,
          show 32 + 32 * (r - (d + 1)) = 32 * (r - d) by omega]
      · rw [if_neg (by omega)]
        by_cases h : d = r
        · subst h
          simp
        · rw [if_neg (by omega), if_neg (by omega)]
    · rw [if_neg (by omega), if_neg (by omega), if_neg (by omega)]

/-- A scalar read after `n` scalars from `d` up have been written. -/
theorem Warp.sreg_setSval : ∀ (n : Nat) (w : Warp) (d x r : Nat),
    (w.setSval d n x).sreg r = if d ≤ r ∧ r < d + n then BitVec.ofNat 32 (x / 2 ^ (32 * (r - d))) else w.sreg r
  | 0, w, d, x, r => by simp [Warp.setSval]
  | n + 1, w, d, x, r => by
    rw [Warp.setSval, Warp.sreg_setSval n _ (d + 1) _ r, Warp.sreg_setS]
    by_cases h1 : d + 1 ≤ r ∧ r < d + 1 + n
    · rw [if_pos h1, if_pos (by omega), Nat.div_div_eq_div_mul, ← Nat.pow_add, show 32 + 32 * (r - (d + 1)) = 32 * (r - d) by omega]
    · rw [if_neg h1]
      by_cases h : d = r
      · subst h
        simp
      · rw [if_neg h, if_neg (by omega)]

/-- A predicate read after it has been written in lanes of a list. -/
theorem pred_foldl : ∀ (ls : List Nat) (f : Nat → Bool) (w : Warp) (k r j : Nat), k < 512 → r < 512 →
    (ls.foldl (fun w l => w.setPred k l (f l)) w).pred r j = if r = 7 then true else if r = k ∧ j ∈ ls then f j else w.pred r j
  | [], f, w, k, r, j, _, _ => by by_cases h : r = 7 <;> simp [h]
  | l :: t, f, w, k, r, j, hk, hr => by
    rw [List.foldl_cons, pred_foldl t f _ k r j hk hr, Warp.pred_setPred _ _ _ _ hk hr]
    by_cases h7 : r = 7
    · simp [h7]
    · simp only [h7, if_false, List.mem_cons]
      by_cases hr' : r = k
      · subst hr'
        by_cases hj : j ∈ t
        · simp [hj]
        · by_cases hl : j = l
          · subst hl; simp [hj]
          · simp [hj, hl, Ne.symm hl]
      · simp [hr', Ne.symm hr']

theorem Ctx.pred_putPred (c : Ctx) (k : Nat) (f : Nat → Bool) (w : Warp) (r j : Nat) (hk : k < 512) (hr : r < 512) :
    (c.putPred k f w).pred r j = if r = 7 then true else if r = k ∧ j ∈ c.mask then f j else w.pred r j :=
  pred_foldl c.mask f w k r j hk hr

/-- Writing a predicate leaves lane registers and scalars as they were. -/
theorem putPred_regs (c : Ctx) (k : Nat) (f : Nat → Bool) (w : Warp) :
    (c.putPred k f w).v = w.v ∧ (c.putPred k f w).s = w.s ∧ (c.putPred k f w).x = w.x ∧ (c.putPred k f w).fpf = w.fpf := by
  unfold Ctx.putPred
  induction c.mask generalizing w with
  | nil => exact ⟨rfl, rfl, rfl, rfl⟩
  | cons l t ih =>
    obtain ⟨h1, h2, h3, h4⟩ := ih (w.setPred k l (f l))
    exact ⟨by simp [h1], by simp [h2], by simp [h3], by simp [h4]⟩

theorem vreg_foldl : ∀ (ls : List Nat) (f : Nat → Nat) (w : Warp) (d n r j : Nat), d + n ≤ 512 → r < 512 →
    (ls.foldl (fun w l => w.setVval d n l (f l)) w).vreg r j =
      if j ∈ ls ∧ d ≤ r ∧ r < d + n then BitVec.ofNat 32 (f j / 2 ^ (32 * (r - d))) else w.vreg r j
  | [], f, w, d, n, r, j, _, _ => by simp
  | l :: t, f, w, d, n, r, j, hd, hr => by
    rw [List.foldl_cons, vreg_foldl t f _ d n r j hd hr, Warp.vreg_setVval n _ d l _ r j hd hr]
    by_cases hj : j ∈ t
    · by_cases hr' : d ≤ r ∧ r < d + n
      · simp [hj, hr']
      · simp [hr']
    · by_cases hl : j = l
      · subst hl; simp [hj]
      · simp [hj, hl]

/-- A lane register read after a destination of lane registers has been written: the value of a lane of `Mask()`, else as before (07 R80). -/
theorem Ctx.vreg_put (c : Ctx) {d : BitVec 8} (hd : c.x.d = .v d) (n : Nat) (f : Nat → Nat) (w : Warp) (r j : Nat) (hn : n ≤ 256)
    (hr : r < 512) : (c.put n f w).vreg r j =
      if j ∈ c.mask ∧ d.toNat ≤ r ∧ r < d.toNat + n then BitVec.ofNat 32 (f j / 2 ^ (32 * (r - d.toNat))) else w.vreg r j := by
  have := d.isLt
  simp only [Ctx.put, hd]
  exact vreg_foldl c.mask f w d.toNat n r j (by omega) hr

end Sys2Proof.Machine
end

