-- ==== Sys2Proof/Tests/Slice0.lean ====
section
/-! SUPPORT. The package's own tests: the checks of `WellFormed`, words that the specification encodes, results that it works out, and for
every statement with hypotheses concrete states and operands that meet them. -/

namespace Sys2Proof.Tests

open Sys2Proof Sys2Proof.Machine Sys2Proof.Claims

/-! ### Small terms and states -/

/-- Words 0 and 1 with no guard. -/
def hd (d : Dst) (a b c : Src) (sub : BitVec 7) : Head := ⟨false, 0, 7, false, d, sub, a, b, c, none⟩

/-- The same guarded by m2. -/
def hd2 (d : Dst) (a b c : Src) (sub : BitVec 7) : Head := ⟨false, 0, 2, false, d, sub, a, b, c, none⟩

/-- A W-C word 2 with nothing but its `TYPE` and `IMM12`. -/
def wc (t : Ty) (imm : BitVec 12) : WC := ⟨t, .ne, false, false, 0, 0, 0, 7, imm⟩

/-- A W-C word 2 with `PD` and `SAT`. -/
def wp (t : Ty) (pd : BitVec 3) (sat : Bool) : WC := ⟨t, .ne, sat, false, 0, 0, 0, pd, 0⟩

/-- A W-M word 2: space, size, scope, order and offset. -/
def wm (space size scope : BitVec 3) (order : BitVec 2) (off : BitVec 16) : WM := ⟨space, size, false, scope, order, 0, off⟩

/-- A compact form: D, A, B. -/
def b32 (d a b : BitVec 6) : B32 := ⟨false, false, false, 7, d, a, b, none⟩

/-- No register as a destination. -/
def no : Dst := .none 0

/-- Lanes 0 and 5 of a warp that has just started, in core 0, slot 0, warp 0, picked to issue; its page is mapped. -/
def two : State := (State.reset.withFetchWord 96 0).setWarp 0 0 0 { splits := [{ lanes := [0, 5], pc := 0x100000#64, st := .run }] }

/-- `s` with its warp changed. -/
def inWarp (s : State) (f : Warp → Warp) : State :=
  match s.crew 0 0 with
  | some cr => s.setWarp 0 0 0 (f (cr.warp 0))
  | none => s

/-- `s` with its crew changed. -/
def inCrew (s : State) (f : Crew → Crew) : State :=
  match s.crew 0 0 with
  | some cr => s.setCrew 0 0 (f cr)
  | none => s

/-- Lane registers written: number, lane, value. -/
def vs (s : State) (l : List (Nat × Nat × Nat)) : State :=
  inWarp s fun w => l.foldl (fun w e => w.setV e.1 e.2.1 (BitVec.ofNat 32 e.2.2)) w

/-- Scalars written: number, value. -/
def ss (s : State) (l : List (Nat × Nat)) : State := inWarp s fun w => l.foldl (fun w e => w.setS e.1 (BitVec.ofNat 32 e.2)) w

/-- Predicates set: number, lane. -/
def ms (s : State) (l : List (Nat × Nat)) : State := inWarp s fun w => l.foldl (fun w e => w.setPred e.1 e.2 true) w

/-- The warp after an answer. -/
def warpOf (o : Host.Outcome State Fault Refusal) : Warp :=
  match o with
  | .next t => ((t.crew 0 0).map fun cr => cr.warp 0).getD {}
  | _ => {}

/-- The state after an answer. -/
def stateOf (o : Host.Outcome State Fault Refusal) : State :=
  match o with
  | .next t => t
  | _ => State.reset

/-- A lane register, a pair, a scalar and a predicate after an instruction. -/
def vAfter (i : Instr) (s : State) (r l : Nat) : Nat := ((warpOf (exec i s)).vreg r l).toNat
def vvAfter (i : Instr) (s : State) (r l : Nat) : Nat := (warpOf (exec i s)).vval r 2 l
def sAfter (i : Instr) (s : State) (r : Nat) : Nat := ((warpOf (exec i s)).sreg r).toNat
def mAfter (i : Instr) (s : State) (k l : Nat) : Bool := (warpOf (exec i s)).pred k l
def flagsAfter (i : Instr) (s : State) : Nat := (warpOf (exec i s)).fpf.toNat

/-- `i` is at issue in `s`. -/
def issues? (i : Instr) (s : State) : Bool :=
  match s.ctx? i with
  | some c => encOk i && dstOk c.form.d c.x.d && c.preFaults.isEmpty
  | none => false

theorem issues_of {i : Instr} {s : State} (h : issues? i s = true) : ∃ c, Issues i s c := by
  unfold issues? at h
  split at h
  · rename_i c hc
    simp only [Bool.and_eq_true, List.isEmpty_iff] at h
    exact ⟨c, hc, h.1.1, h.1.2, h.2⟩
  · simp at h

/-- The instruction at issue, where it is. -/
def ctxOf (i : Instr) (s : State) (h : (s.ctx? i).isSome = true) : Ctx := (s.ctx? i).get h

theorem issues_ctx {i : Instr} {s : State} (h : (s.ctx? i).isSome = true) (g : issues? i s = true) : Issues i s (ctxOf i s h) := by
  obtain ⟨c, hc⟩ := issues_of g
  have e : ctxOf i s h = c := by simp [ctxOf, hc.1]
  rw [e]; exact hc

/-! ### WellFormed: an ill-formed term for each check -/

theorem test_wf_add : Instr.wf (.add (hd (.v 8) (.v 1) (.v 2) (.v 0) 0) (wc .n32 0)) = true := by decide

/-- A type that the row does not list, an odd pair, a field of word 2 that is not read, an unread source, a predicate as the destination of a
register, a register where there is no destination. -/
theorem test_wf_refuses_fields : (([.add (hd (.v 8) (.v 1) (.v 2) (.v 0) 0) (wc .f32 0), .add (hd (.v 9) (.v 2) (.v 4) (.v 0) 0) (wc .s64 0),
    .add (hd (.v 8) (.v 1) (.v 2) (.v 0) 0) { wc .n32 0 with cond := 1 }, .add (hd (.v 8) (.v 1) (.v 2) (.v 3) 0) (wc .n32 0),
    .add (hd (.none 1) (.v 1) (.v 2) (.v 0) 0) (wc .n32 0), .bra (hd (.v 0) (.v 0) (.v 0) (.v 0) 0) ⟨0, 0⟩] : List Instr).all
      fun i => !Instr.wf i) = true := by decide

/-- Two sources of class 11, an immediate field that nothing reads, a literal with a high half, a literal that no source takes, a block
register where it may not stand, an `OP` with a wrong `SUB`, `GN` with m7. -/
theorem test_wf_refuses_sources : (([.add (hd (.v 8) .imm .imm (.v 0) 0) (wc .n32 0), .add (hd (.v 8) (.v 1) (.v 2) (.v 0) 0) (wc .n32 5),
    .add { hd (.v 8) (.v 1) .imm (.v 0) 0 with lit := some 0x100000000 } (wc .n32 0),
    .add { hd (.v 8) (.v 1) (.v 2) (.v 0) 0 with lit := some 1 } (wc .n32 0),
    .add (hd (.b 8) (.v 1) (.v 2) (.v 0) 0) (wc .n32 0), .add (hd (.v 8) (.v 1) (.v 2) (.v 0) 1) (wc .n32 0),
    .add { hd (.v 8) (.v 1) (.v 2) (.v 0) 0 with gn := true } (wc .n32 0)] : List Instr).all fun i => !Instr.wf i) = true := by decide

/-- The rules of the compact forms (R76): an immediate where there is none, an immediate with a literal, a B field beside a literal, an A
field that `mov` does not read, a `nop` with a destination. -/
theorem test_wf_refuses_compact : (([.b32Mov { b32 4 0 2 with a := 1 }, .b32Nop { b32 0 0 0 with d := 1 },
    .b32AddS32 { b32 4 1 2 with lit := some 7 }, .b32AddS32 { b32 4 1 0 with imm := true, lit := some 7 },
    .b32FaddF16x2 { b32 4 1 2 with imm := true }] : List Instr).all fun i => !Instr.wf i) = true := by decide

/-- Memory, control and operation words: a space, a size and an order that the row does not allow; a hint of `meet`; a special register
that is not there; a reserved bit. -/
theorem test_wf_refuses_words : (([.st (hd no (.v 2) (.v 4) (.v 0) 0) (wm 2 2 0 0 0), .ld (hd (.v 8) (.v 2) (.v 0) (.v 0) 0) (wm 0 5 0 0 0),
    .ld (hd (.v 8) (.v 2) (.v 0) (.v 0) 0) (wm 0 2 0 1 0), .meet (hd no (.v 0) (.v 0) (.v 0) 0) ⟨1, 0⟩,
    .mfsr (hd (.v 8) (.v 0) (.v 0) (.v 0) 0) 16, .mtsr (hd no (.v 1) (.v 0) (.v 0) 0) 0, .trap (hd no (.v 0) (.v 0) (.v 0) 0) 256]
      : List Instr).all fun i => !Instr.wf i) = true := by decide

/-- Steps that name what is not there: a core, a quarter, a slot, a slice's level, a queue, an entry, a unit, a partition, a job handle, a
helper byte, a set, a layer and a channel. -/
theorem test_wf_refuses_steps : (([.issueArbitration 96 0, .issueArbitration 0 4, .crewSave 0 32, .fillRelease 0 0 4, .copyExecute 0 4,
    .stallBudgetExpiry 0 512, .rasterBatch 8, .launch 8, .jobEnd 0 256, .helper 250 [1, 2, 3, 4, 5, 6, 7], .llcCorrected 0 3072 0,
    .powerLoopEval [(0, 4)] [] [], .channelRefresh 96, .resultReturn 0 0 0 1 [128] false, .lineRequest 0 0 6 false,
    .maskPredictionRepair 0 0 32, .mmaExecute 0 [(0, 4)], .march [(0, 2, 0, 0)], .thermalThrottle 96, .coreMove 96] : List Instr).all
      fun i => !Instr.wf i) = true := by decide

/-! ### Decoding: words that the specification works out bit by bit -/

/-- 08: `max.s16x2 v10, v4, 0x3D` as a B32 with an immediate. -/
theorem test_decode_max16 : (decode (bytesOfWords [0xF442BDA0])).toOption =
    some (.b32MaxS16x2 ⟨false, false, true, 7, 10, 4, 0x3D, none⟩, []) := by decide

/-- 08: `and v1, v1, 0x00FF00FF` as a B32 with a literal. -/
theorem test_decode_and_literal : (decode (bytesOfWords [0x00107851, 0x00FF00FF, 0])).toOption =
    some (.b32And ⟨false, false, false, 7, 1, 1, 0, some 0x00FF00FF⟩, []) := by decide

/-- 14: `acs.s16x2 v8, v6, v7, v13, m4`. -/
theorem test_decode_acs : (decode (bytesOfWords [0x0010E3C2, 0x000D0706, 0x00080005])).toOption =
    some (.acs (hd (.v 8) (.v 6) (.v 7) (.v 13) 0) (wp .s16x2 4 false), []) := by decide

/-- 14: `(m2) vput v0, x0, v40 !`. -/
theorem test_decode_vput : (decode (bytesOfWords [0x00004726, 0x00000028, 0x000E0000])).toOption =
    some (.vput { hd2 (.v 0) (.v 40) (.v 0) (.v 0) 0 with stop := true } (wc .b32 0), []) := by decide

/-- 16: `cvtd.ds8.bf16x2 v12, v10, v9`, `fdot2.bf16x2 v4, v6, v1, v5 !` and `wred.add.f32 s10, v4`. -/
theorem test_decode_cvtd : (decode (bytesOfWords [0x1618EA42, 0x0000090A, 0x000E000A])).toOption =
    some (.cvtd (hd (.v 12) (.v 10) (.v 9) (.v 0) 11) (wc .bf16x2 0), []) := by decide
theorem test_decode_fdot2 : (decode (bytesOfWords [0x0008E9E6, 0x00050106, 0x000E000A])).toOption =
    some (.fdot2 { hd (.v 4) (.v 6) (.v 1) (.v 5) 0 with stop := true } (wc .bf16x2 0), []) := by decide
theorem test_decode_wred : (decode (bytesOfWords [0x0014E6C2, 0x40000004, 0x000E0008])).toOption =
    some (.wred (hd (.s 10) (.v 4) (.v 0) (.v 0) 0) (wc .f32 0), []) := by decide

/-- R85: `ld.glob.acq.dev.b32 v3, [v6+0]`. -/
theorem test_decode_ld : (decode (bytesOfWords [0x0006F002, 0x00000006, 0x00000590])).toOption =
    some (.ld (hd (.v 3) (.v 6) (.v 0) (.v 0) 0) (wm 0 2 3 1 0), []) := by decide

/-- R211: `cpy.copy.q1.bell [s4]`. -/
theorem test_decode_cpy : (decode (bytesOfWords [0x0000F522, 0xC1000004, 0x00000028])).toOption =
    some (.cpy (hd no (.s 4) (.v 0) (.v 0) 0) 0x28, []) := by decide

/-- 17 and 18: `tcfg.m32.n32.k32 m1, s5`, `mma acc3, bin0, bin1, [s4]`, `tdrain.f32 acc0, [s20], s26, [s22]`. -/
theorem test_decode_tcfg : (decode (bytesOfWords [0x0002F602, 0xC1000005, 0x00000015])).toOption =
    some (.tcfg (hd (.none 1) (.s 5) (.v 0) (.v 0) 0) 0x15, []) := by decide
theorem test_decode_mma : (decode (bytesOfWords [0x1000F682, 0xC1000004, 3])).toOption =
    some (.mma (hd no (.s 4) (.v 0) (.v 0) 8) 3, []) := by decide
theorem test_decode_tdrain : (decode (bytesOfWords [0x0000F6A2, 0xD5161A14, 0])).toOption =
    some (.tdrain (hd no (.s 20) (.s 26) (.s 22) 0) 0, []) := by decide

/-- 18: `(m6) fon [s10], s12`. -/
theorem test_decode_fon : (decode (bytesOfWords [0x0000D482, 0xC5000C0A, 0])).toOption =
    some (.fon ⟨false, 0, 6, false, .none 0, 0, .s 10, .s 12, .v 0, none⟩ 0, []) := by decide

/-- 21: `senter s4, s3`, `sleave s4`, `sskip s4, v9`, `stake v6, s4 !` and `rast.ord [s8]`. -/
theorem test_decode_senter : (decode (bytesOfWords [0x0000F822, 0xC5000304, 0])).toOption =
    some (.senter (hd no (.s 4) (.s 3) (.v 0) 0) 0, []) := by decide
theorem test_decode_sleave : (decode (bytesOfWords [0x0000F842, 0xC1000004, 0])).toOption =
    some (.sleave (hd no (.s 4) (.v 0) (.v 0) 0) 0, []) := by decide
theorem test_decode_sskip : (decode (bytesOfWords [0x0000F862, 0xC1000904, 0])).toOption =
    some (.sskip (hd no (.s 4) (.v 9) (.v 0) 0) 0, []) := by decide
theorem test_decode_stake : (decode (bytesOfWords [0x000CF886, 0x01000004, 0])).toOption =
    some (.stake { hd (.v 6) (.s 4) (.v 0) (.v 0) 0 with stop := true } 0, []) := by decide
theorem test_decode_rast : (decode (bytesOfWords [0x0000F8A2, 0xC1000008, 1])).toOption =
    some (.rast (hd no (.s 8) (.v 0) (.v 0) 0) 1, []) := by decide

/-- R74, R78, R79, R87: `bra` four words back, from its fields: `LEN` 10, `OP` 0x60, `G` 7; `DC` 11; `OFF24` −4. -/
theorem test_decode_bra : (decode (bytesOfWords [0x0000EC02, 0xC0000000, 0xFFFFFC00])).toOption =
    some (.bra (hd no (.v 0) (.v 0) (.v 0) 0) ⟨0, -4⟩, []) := by decide

/-- R82: an `OP` that the table does not list, `LEN` 00 with an `OP` past the compact ones, and words that end too soon. -/
theorem test_decode_refuses : (decode (bytesOfWords [0x0000FFE2, 0xC0000000, 0])).toOption = none ∧
    (decode (bytesOfWords [0x00003BF0])).toOption = none ∧ (decode (bytesOfWords [0x0000E042])).toOption = none := by decide

/-- Encoding gives the words back. -/
theorem test_encode_mma : encode (.mma (hd no (.s 4) (.v 0) (.v 0) 8) 3) = bytesOfWords [0x1000F682, 0xC1000004, 3] := by decide

/-! ### Results: integer rows (10, "Limits of the integer types"; 09 R110-R115) -/

def ab (a b : Nat) : State := vs two [(0, 0, a), (1, 0, b)]
def abc (a b c : Nat) : State := vs two [(0, 0, a), (1, 0, b), (2, 0, c)]
def d8 (n : BitVec 8) : Head := hd (.v n) (.v 0) (.v 1) (.v 0) 0

theorem test_add_wraps : vAfter (.add (d8 2) (wp .s32 3 false)) (ab 0x7FFFFFFF 1) 2 0 = 0x80000000 ∧
    mAfter (.add (d8 2) (wp .s32 3 false)) (ab 0x7FFFFFFF 1) 3 0 = true := by decide
theorem test_add_saturates : vAfter (.add (d8 2) (wp .s32 3 true)) (ab 0x7FFFFFFF 1) 2 0 = 0x7FFFFFFF ∧
    mAfter (.add (d8 2) (wp .s32 3 true)) (ab 0x7FFFFFFF 1) 3 0 = true := by decide
theorem test_abs_of_least : vAfter (.abs (hd (.v 2) (.v 0) (.v 0) (.v 0) 0) (wp .s32 3 false)) (ab 0x80000000 0) 2 0 = 0x80000000 ∧
    vAfter (.abs (hd (.v 2) (.v 0) (.v 0) (.v 0) 0) (wp .s32 3 true)) (ab 0x80000000 0) 2 0 = 0x7FFFFFFF := by decide
theorem test_sub_packed_saturates : vAfter (.sub (d8 2) (wp .n16x2 3 true)) (ab 0x00050000 0x00010001) 2 0 = 0x00040000 ∧
    mAfter (.sub (d8 2) (wp .n16x2 3 true)) (ab 0x00050000 0x00010001) 3 0 = true := by decide
theorem test_add_other_lane_and_flags : vAfter (.add (d8 2) (wc .n32 0)) (vs two [(0, 5, 3), (1, 5, 4)]) 2 5 = 7 ∧
    flagsAfter (.add (d8 2) (wp .s32 3 true)) (ab 0x7FFFFFFF 1) = 0 := by decide
/-- A source that is also the destination is read before it is written. -/
theorem test_mul_in_place : vAfter (.mul (hd (.v 0) (.v 0) (.v 0) (.v 0) 0) (wc .n32 0)) (ab 0x10001 0) 0 0 = 0x20001 := by decide
theorem test_mulhi_signed : vAfter (.mulhi (d8 2) (wc .s32 0)) (ab 0xFFFFFFFF 2) 2 0 = 0xFFFFFFFF := by decide
theorem test_mad : vAfter (.mad (hd (.v 3) (.v 0) (.v 1) (.v 2) 0) (wc .s32 0)) (abc 3 5 0xFFFFFFFF) 3 0 = 14 := by decide
theorem test_madw : vvAfter (.madw (hd (.v 4) (.v 0) (.v 1) (.v 2) 0) (wc .n32 0)) (abc 0xFFFFFFFF 0xFFFFFFFF 1) 4 0 =
    0xFFFFFFFE00000002 := by decide
theorem test_lea : vvAfter (.lea (hd (.v 4) (.v 0) (.v 2) (.v 0) 3) (wc .s32 0)) (vs two [(1, 0, 1), (2, 0, 0xFFFFFFFF)]) 4 0 =
    0xFFFFFFF8 := by decide
theorem test_add3 : vAfter (.add3 (hd (.v 3) (.v 0) (.v 1) (.v 2) 0) (wc .n32 0)) (abc 1 2 4) 3 0 = 7 := by decide
theorem test_min_max_signed : vAfter (.min (d8 2) (wc .s32 0)) (ab 0xFFFFFFFF 1) 2 0 = 0xFFFFFFFF ∧
    vAfter (.max (d8 2) (wc .n32 0)) (ab 0xFFFFFFFF 1) 2 0 = 0xFFFFFFFF := by decide
theorem test_neg : vAfter (.neg (hd (.v 2) (.v 0) (.v 0) (.v 0) 0) (wc .s32 0)) (ab 5 0) 2 0 = 0xFFFFFFFB := by decide
theorem test_bitf_majority : vAfter (.bitf (hd (.v 3) (.v 0) (.v 1) (.v 2) 0) (wc .b32 0xE8)) (abc 0xC 0xA 0x9) 3 0 = 8 := by decide
theorem test_and_or_xor_not : vAfter (.and (d8 2) (wc .b32 0)) (ab 0xC 0xA) 2 0 = 8 ∧ vAfter (.or (d8 2) (wc .b32 0)) (ab 0xC 0xA) 2 0 = 14 ∧
    vAfter (.xor (d8 2) (wc .b32 0)) (ab 0xC 0xA) 2 0 = 6 ∧
    vAfter (.not (hd (.v 2) (.v 0) (.v 0) (.v 0) 0) (wc .b32 0)) (ab 0xC 0) 2 0 = 0xFFFFFFF3 := by decide
theorem test_shifts_past_the_width : vAfter (.shl (d8 2) (wc .b32 0)) (ab 1 32) 2 0 = 0 ∧
    vAfter (.shr (d8 2) (wc .b32 0)) (ab 0x80000000 31) 2 0 = 1 ∧
    vAfter (.sar (d8 2) (wc .s32 0)) (ab 0x80000000 99) 2 0 = 0xFFFFFFFF := by decide
/-- R112's own example. -/
theorem test_dsh : vAfter (.dsh (hd (.v 3) (.v 0) (.v 1) (.v 2) 0) (wc .b32 0)) (abc 0x12345678 0x9ABCDEF0 40) 3 0 = 0x009ABCDE ∧
    vAfter (.dsh (hd (.v 3) (.v 0) (.v 1) (.v 2) 1) (wc .b32 0)) (abc 0x12345678 0x9ABCDEF0 40) 3 0 = 0x34567800 := by decide
theorem test_dsh_by_64 : vAfter (.dsh (hd (.v 3) (.v 0) (.v 1) (.v 2) 0) (wc .b32 0)) (abc 0xFFFFFFFF 0xFFFFFFFF 64) 3 0 = 0 ∧
    vAfter (.dsh (hd (.v 3) (.v 0) (.v 1) (.v 2) 2) (wc .b32 0)) (abc 0x12345678 0x9ABCDEF0 64) 3 0 = 0x12345678 := by decide
theorem test_fext_signed : vAfter (.fext (d8 2) (wc .s32 0)) (ab 0x00000F00 0x0408) 2 0 = 0xFFFFFFFF ∧
    vAfter (.fext (d8 2) (wc .n32 0)) (ab 0xFFFFFFFF 0x2018) 2 0 = 0xFF := by decide
theorem test_fins : vAfter (.fins (hd (.v 3) (.v 0) (.v 1) (.v 2) 0) (wc .b32 0)) (abc 0xAB 0xFFFFFFFF 0x0808) 3 0 = 0xFFFFABFF := by decide
theorem test_counts : vAfter (.clz (hd (.v 2) (.v 0) (.v 0) (.v 0) 0) (wc .b32 0)) (ab 0 0) 2 0 = 32 ∧
    vAfter (.popc (hd (.v 2) (.v 0) (.v 0) (.v 0) 0) (wc .b32 0)) (ab 0xF0F 0) 2 0 = 8 ∧
    vAfter (.brev (hd (.v 2) (.v 0) (.v 0) (.v 0) 0) (wc .b32 0)) (ab 3 0) 2 0 = 0xC0000000 := by decide
theorem test_cmp : mAfter (.cmp (hd (.none 1) (.v 0) (.v 1) (.v 0) 0) { wp .s32 2 false with cond := 2 }) (ab 0xFFFFFFFF 0) 1 0 = true ∧
    mAfter (.cmp (hd (.none 1) (.v 0) (.v 1) (.v 0) 0) { wp .s32 2 false with cond := 2 }) (ab 0xFFFFFFFF 0) 2 0 = false := by decide
theorem test_cmp_elements : vAfter (.cmp (hd (.v 2) (.v 0) (.v 1) (.v 0) 0) { wc .s16x2 0 with cond := 0 }) (ab 0x00010002 0x00010003) 2 0 =
    0xFFFF0000 := by decide
theorem test_sel : vAfter (.sel (hd (.v 2) (.v 0) (.v 1) (.v 0) 7) (wc .b32 0)) (ab 11 22) 2 0 = 11 ∧
    vAfter (.sel (hd (.v 2) (.v 0) (.v 1) (.v 0) 15) (wc .b32 0)) (ab 11 22) 2 0 = 22 := by decide
/-- 10, "acs when the candidates tie". -/
theorem test_acs : vAfter (.acs (hd (.v 6) (.v 0) (.v 1) (.v 2) 0) (wp .s16x2 4 false)) (abc 0x00640032 0x003C0046 0xFFF6000A) 6 0 =
    0x0046003C ∧ mAfter (.acs (hd (.v 6) (.v 0) (.v 1) (.v 2) 0) (wp .s16x2 4 false)) (abc 0x00640032 0x003C0046 0xFFF6000A) 4 0 = false ∧
    mAfter (.acs (hd (.v 6) (.v 0) (.v 1) (.v 2) 0) (wp .s16x2 4 false)) (abc 0x00640032 0x003C0046 0xFFF6000A) 5 0 = true := by decide
theorem test_sad : vAfter (.sad (hd (.v 3) (.v 0) (.v 1) (.v 2) 1) (wc .s8x4 0)) (abc 0x00FF0102 0x0100FF02 10) 3 0 = 520 := by decide
/-- R115's own example. -/
theorem test_bsel : vAfter (.bsel (hd (.v 3) (.v 0) (.v 1) (.v 2) 0) (wc .b32 0)) (abc 0x88442211 0x88442211 0x0B1A0100) 3 0 =
    0xFF002211 := by decide
theorem test_mov_and_nop : vAfter (.mov (hd (.v 2) (.v 0) .imm (.v 0) 0) (wc .b32 0xFFF)) two 2 5 = 0xFFFFFFFF ∧
    vAfter (.nop (hd (.v 0) (.v 0) (.v 0) (.v 0) 0) ⟨.b32, .ne, false, false, 0, 0, 0, 0, 0⟩) (ab 9 0) 0 0 = 9 := by decide
theorem test_b32_add_sub_mul : vAfter (.b32AddS32 { b32 5 3 9 with imm := true }) (vs two [(3, 0, 1)]) 5 0 = 10 ∧
    vAfter (.b32SubS32 (b32 5 3 4)) (vs two [(3, 0, 1), (4, 0, 2)]) 5 0 = 0xFFFFFFFF ∧
    vAfter (.b32MulS32 (b32 5 3 4)) (vs two [(3, 0, 7), (4, 0, 6)]) 5 0 = 42 := by decide
theorem test_b32_packed_and_shifts : vAfter (.b32AddS16x2 (b32 5 3 4)) (vs two [(3, 0, 0x0001FFFF), (4, 0, 0x00010001)]) 5 0 = 0x00020000 ∧
    vAfter (.b32Shr { b32 5 3 4 with imm := true }) (vs two [(3, 0, 0x80000000)]) 5 0 = 0x08000000 ∧
    vAfter (.b32Sar { b32 5 3 4 with imm := true }) (vs two [(3, 0, 0x80000000)]) 5 0 = 0xF8000000 := by decide

/-! ### Results: floating point (05 R57-R70, 06, 10) -/

/-- 06: `fmul.f32` of 0x3F800001 by 1.5. -/
theorem test_fmul_tie : vAfter (.fmul (d8 2) (wc .f32 0)) (ab 0x3F800001 0x3FC00000) 2 0 = 0x3FC00002 ∧
    flagsAfter (.fmul (d8 2) (wc .f32 0)) (ab 0x3F800001 0x3FC00000) = 0x10 := by decide
/-- R65: an exact zero sum is +0, and −0 in RD. -/
theorem test_fadd_zero : vAfter (.fadd (d8 2) (wc .f32 0)) (ab 0x3F800000 0xBF800000) 2 0 = 0 ∧
    vAfter (.fadd (d8 2) { wc .f32 0 with rnd := .dn }) (ab 0x3F800000 0xBF800000) 2 0 = 0x80000000 := by decide
theorem test_fsub_of_infinities : vAfter (.fsub (d8 2) (wc .f32 0)) (ab 0x7F800000 0x7F800000) 2 0 = 0x7FC00000 ∧
    flagsAfter (.fsub (d8 2) (wc .f32 0)) (ab 0x7F800000 0x7F800000) = 1 := by decide
/-- One rounding: (1 + 2^−23)² − (1 + 2^−22) = 2^−46. -/
theorem test_ffma_once : vAfter (.ffma (hd (.v 3) (.v 0) (.v 1) (.v 2) 0) (wc .f32 0)) (abc 0x3F800001 0x3F800001 0xBF800002) 3 0 =
    0x28800000 := by decide
theorem test_fmin_signed_zero : vAfter (.fmin (d8 2) (wc .f32 0)) (ab 0x00000000 0x80000000) 2 0 = 0x80000000 ∧
    vAfter (.fmax (d8 2) (wc .f32 0)) (ab 0x7FC00000 0x40000000) 2 0 = 0x40000000 := by decide
theorem test_fcmp_unordered : mAfter (.fcmp (hd (.none 1) (.v 0) (.v 1) (.v 0) 0) { wp .f32 2 false with cond := 7 }) (ab 0x7FC00000 0) 1 0 =
    true ∧ mAfter (.fcmp (hd (.none 1) (.v 0) (.v 1) (.v 0) 0) { wp .f32 2 false with cond := 0 }) (ab 0x80000000 0) 1 0 = true := by decide
/-- 10, "rsqrt of the smallest subnormal". -/
theorem test_rsqrt_smallest : vAfter (.rsqrt (hd (.v 4) (.v 0) (.v 0) (.v 0) 0) (wc .f32 0)) (ab 1 0) 4 0 = 0x64B504F3 ∧
    vAfter (.rsqrt (hd (.v 4) (.v 0) (.v 0) (.v 0) 0) { wc .f32 0 with rnd := .up }) (ab 1 0) 4 0 = 0x64B504F4 := by decide
theorem test_rsqrt_flushed : vAfter (.rsqrt (hd (.v 4) (.v 0) (.v 0) (.v 0) 0) { wc .f32 0 with ftz := true }) (ab 1 0) 4 0 = 0x7F800000 ∧
    flagsAfter (.rsqrt (hd (.v 4) (.v 0) (.v 0) (.v 0) 0) { wc .f32 0 with ftz := true }) (ab 1 0) = 0x22 := by decide
theorem test_rcp_and_sqrt : vAfter (.rcp (hd (.v 4) (.v 0) (.v 0) (.v 0) 0) (wc .f32 0)) (ab 0x80000000 0) 4 0 = 0xFF800000 ∧
    vAfter (.sqrt (hd (.v 4) (.v 0) (.v 0) (.v 0) 0) (wc .f32 0)) (ab 0x40800000 0) 4 0 = 0x40000000 := by decide
set_option exponentiation.threshold 512 in
theorem test_exp2_and_log2 : vAfter (.exp2 (hd (.v 4) (.v 0) (.v 0) (.v 0) 0) (wc .f32 0)) (ab 0xC0000000 0) 4 0 = 0x3E800000 ∧
    vAfter (.log2 (hd (.v 4) (.v 0) (.v 0) (.v 0) 0) (wc .f32 0)) (ab 0x3E800000 0) 4 0 = 0xC0000000 := by decide
set_option exponentiation.threshold 512 in
theorem test_sinpi_and_cospi : vAfter (.sinpi (hd (.v 4) (.v 0) (.v 0) (.v 0) 0) (wc .f32 0)) (ab 0xBF800000 0) 4 0 = 0x80000000 ∧
    vAfter (.cospi (hd (.v 4) (.v 0) (.v 0) (.v 0) 0) (wc .f32 0)) (ab 0x3F000000 0) 4 0 = 0 := by decide
theorem test_frnd : vAfter (.frnd (hd (.v 4) (.v 0) (.v 0) (.v 0) 0) (wc .f32 0)) (ab 0x40200000 0) 4 0 = 0x40000000 := by decide
theorem test_fscale_and_fclass : vAfter (.fscale (d8 4) (wc .f32 0)) (ab 0x3F800000 3) 4 0 = 0x41000000 ∧
    vAfter (.fclass (hd (.v 4) (.v 0) (.v 0) (.v 0) 0) (wc .f32 0)) (ab 0x80000000 0) 4 0 = 8 := by decide
/-- 1.0 × 2.0 + 3.0 × 4.0 + 0.5 in BF16 with an FP32 addend. -/
theorem test_fdot2 : vAfter (.fdot2 (hd (.v 3) (.v 0) (.v 1) (.v 2) 0) (wc .bf16x2 0)) (abc 0x40403F80 0x40804000 0x3F000000) 3 0 =
    0x41680000 := by decide
/-- 06: −2.75 in FP16, and an integer from it rounded toward zero. -/
theorem test_cvt : vAfter (.cvt (hd (.v 2) (.v 0) (.v 0) (.v 0) 8) (wc .f16x2 0)) (ab 0xC0300000 0) 2 0 % 65536 = 0xC180 ∧
    vAfter (.cvt (hd (.v 2) (.v 0) (.v 0) (.v 0) 8) { wc .s32 0 with rnd := .tz }) (ab 0xC0300000 0) 2 0 = 0xFFFFFFFE := by decide
/-- 06: DS8 byte 0x01 under the neutral scale is 1.5. -/
theorem test_cvtd : vAfter (.cvtd (hd (.v 2) (.v 0) (.v 1) (.v 0) 11) (wc .bf16x2 0)) (ab 0x01 0x7F) 2 0 % 65536 = 0x3FC0 := by decide
theorem test_pack_unpack : vAfter (.pack (hd (.v 3) (.v 0) (.v 1) (.v 0) 0) (wc .s16x2 0)) (ab 5 0xFFFFFFFF) 3 0 = 0xFFFF0005 ∧
    vAfter (.unpack (hd (.v 2) (.v 0) (.v 0) (.v 0) 1) (wc .s16x2 0)) (ab 0x80001234 0) 2 0 = 0xFFFF8000 := by decide
/-- 06, the first block: 13.0 in lane 3 gives element 0x45 under the scale 0x81. -/
theorem test_quantise_first_block :
    let b := quantise 5 (([0x44FA0000, 0xC0400000, 0x3C000000, 0x41500000, 0x3A800000, 0xC1940000].map fmtF32.decode) ++
      List.replicate 26 (.fin false 0 0))
    b.scale = 0x81 ∧ b.elems.take 6 = [0x7E, 0xB4, 0x01, 0x45, 0x00, 0xC9] ∧ b.nx = true := by decide
theorem test_b32_floats : vAfter (.b32FaddF32 (b32 5 3 4)) (vs two [(3, 0, 0x3F800000), (4, 0, 0x3F800000)]) 5 0 = 0x40000000 ∧
    vAfter (.b32FmulBf16x2 (b32 5 3 4)) (vs two [(3, 0, 0x3F804000), (4, 0, 0x40004000)]) 5 0 = 0x40004080 := by decide

/-! ### Results: predicates and the warp (09 R116-R124) -/

/-- Lanes 0 and 5 with v0 = 10 and 20. -/
def l2 : State := vs two [(0, 0, 10), (0, 5, 20)]

theorem test_pset_function : mAfter (.pset (hd (.none 1) (.v 0) (.v 0) (.v 0) 0x20) (wc .b32 0x1A)) (ms two [(2, 0), (3, 0), (2, 5)]) 1 0 = true ∧
    mAfter (.pset (hd (.none 1) (.v 0) (.v 0) (.v 0) 0x20) (wc .b32 0x1A)) (ms two [(2, 0), (3, 0), (2, 5)]) 1 5 = false := by decide
theorem test_pset_saves_and_loads : vAfter (.pset (hd (.v 2) (.v 0) (.v 0) (.v 0) 2) (wc .b32 0)) (ms two [(2, 0)]) 2 0 = 0x84 ∧
    mAfter (.pset (hd no (.v 0) (.v 0) (.v 0) 3) (wc .b32 0)) l2 3 0 = true := by decide
theorem test_vote_and_mcnt : mAfter (.vote (hd (.none 1) (.v 0) (.v 0) (.v 0) 0) (wc .b32 2)) (ms two [(2, 5)]) 1 0 = false ∧
    vAfter (.mcnt (hd (.v 2) (.v 0) (.v 0) (.v 0) 1) (wc .b32 2)) (ms two [(2, 0)]) 2 5 = 1 := by decide
theorem test_ballot : sAfter (.ballot (hd (.s 8) (.v 0) (.v 0) (.v 0) 0) (wc .b32 2)) (ms two [(2, 5), (2, 7)]) 8 = 0x20 := by decide
/-- 10, "Reading lanes of another split": a lane above the warp is read from itself; one outside `Mask()` gives its register and clears `PD`. -/
theorem test_xlane_above : vAfter (.xlane (hd (.v 3) (.v 0) .imm (.v 0) 3) { wp .b32 2 false with imm := 16 }) (vs l2 [(0, 16, 77)]) 3 0 = 77 ∧
    mAfter (.xlane (hd (.v 3) (.v 0) .imm (.v 0) 3) { wp .b32 2 false with imm := 16 }) (vs l2 [(0, 16, 77)]) 2 0 = false := by decide
theorem test_xlane_swap_and_rot : vAfter (.b32XlaneSwap { b32 3 0 5 with imm := true }) l2 3 0 = 20 ∧
    vAfter (.xlane (hd (.v 3) (.v 0) .imm (.v 0) 4) (wc .b32 27)) l2 3 5 = 10 := by decide
theorem test_bcast : vAfter (.bcast (hd (.v 3) (.v 0) .imm (.v 0) 0) (wc .b32 5)) l2 3 0 = 20 ∧
    vAfter (.b32Bcast { b32 3 0 0 with imm := true }) l2 3 5 = 10 := by decide
theorem test_smov : sAfter (.smov (hd (.s 8) (.v 0) .imm (.v 0) 1) (wc .b32 5)) l2 8 = 20 := by decide
theorem test_wred : vAfter (.wred (hd (.v 3) (.v 0) (.v 0) (.v 0) 0) (wc .n32 0)) l2 3 5 = 30 ∧
    vAfter (.wred (hd (.v 3) (.v 0) (.v 0) (.v 0) 1) (wc .s32 0)) (vs l2 [(0, 5, 0xFFFFFFFF)]) 3 0 = 0xFFFFFFFF := by decide
theorem test_wscan_exclusive : vAfter (.wscan (hd (.v 3) (.v 0) (.v 0) (.v 0) 8) (wc .n32 0)) l2 3 0 = 0 ∧
    vAfter (.wscan (hd (.v 3) (.v 0) (.v 0) (.v 0) 8) (wc .n32 0)) l2 3 5 = 10 := by decide
/-- Index 3 below limit 8 in lanes 0 and 5. -/
def idx : State := inWarp (vs two [(19, 0, 99), (0, 0, 42)]) fun w => (w.setX 0 0 0x0803#16).setX 0 5 0x0803#16
theorem test_vget_and_vput : vAfter (.vget (hd (.v 2) (.v 16) (.v 0) (.v 0) 0) (wc .b32 0)) idx 2 0 = 99 ∧
    vAfter (.vput (hd (.v 16) (.v 0) (.v 0) (.v 0) 0) (wc .b32 0)) idx 19 0 = 42 := by decide
/-- The index is at its limit: fault 0x03 ends the warp, whose crew has no handler. -/
theorem test_vget_past_the_limit : (warpOf (exec (.vget (hd (.v 2) (.v 16) (.v 0) (.v 0) 0) (wc .b32 0))
    (inWarp idx fun w => w.setX 0 5 0x0808#16))).retired = true := by decide
theorem test_xset : ((warpOf (exec (.xset (hd no (.v 0) .imm (.v 0) 1) (wc .b32 40)) l2)).xreg 1 5).toNat = 40 * 256 + 20 := by decide
theorem test_bmov : (((stateOf (exec (.bmov (hd (.b 8) (.v 0) (.v 0) (.v 0) 0) (wc .b32 0)) l2)).crew 0 0).map fun cr =>
    ((cr.breg 8).val, (cr.breg 8).owner)) = some (10#32, 0) := by decide

/-! ### Results: control and faults (03, 09 R105-R108, R137-R143) -/

/-- The crew of `s` with a handler. -/
def handled (s : State) : State := inCrew s fun cr => { cr with shape := { cr.shape with handler := 0x100800#64 } }

/-- R108's example: `trap 0x2A` with every lane of a width-32 warp, and with m2 in lanes 4 and 9 only. -/
def all32 : State := inWarp two fun w => { w with splits := [{ lanes := List.range 32, pc := 0x1200400120#64, st := .run }] }
set_option maxRecDepth 4096 in
theorem test_trap_enters_the_handler :
    let w := warpOf (exec (.trap (hd no (.v 0) (.v 0) (.v 0) 0) 0x2A) (handled all32))
    w.fault = 0x002A8018#32 ∧ w.vreg 240 0 = 0x002A8018#32 ∧ w.vreg 241 31 = 1#32 ∧ w.vval 242 2 0 = 0x120040012C ∧
    w.vval 244 2 0 = 0x1200400120 ∧ w.splits = [{ lanes := List.range 32, pc := 0x100800#64, st := .run }] := by decide
set_option maxRecDepth 4096 in
theorem test_trap_in_two_lanes :
    let w := warpOf (exec (.trap (hd2 no (.v 0) (.v 0) (.v 0) 0) 0x2A) (handled (ms all32 [(2, 4), (2, 9)])))
    w.fault = 0x002A8418#32 ∧ w.vreg 241 9 = 1#32 ∧ w.vreg 241 8 = 0#32 := by decide
theorem test_trap_without_a_handler : (warpOf (exec (.trap (hd no (.v 0) (.v 0) (.v 0) 0) 1) two)).retired = true := by decide
theorem test_brk_in_no_lane : (warpOf (exec (.brk (hd2 no (.v 0) (.v 0) (.v 0) 0) 1) (handled two))).save = none := by decide
theorem test_bra_parts : (warpOf (exec (.bra (hd2 no (.v 0) (.v 0) (.v 0) 0) ⟨0, 8⟩) (ms two [(2, 5)]))).splits.map (fun sp => (sp.lanes, sp.pc.toNat)) =
    [([5], 0x100020), ([0], 0x10000C)] := by decide
theorem test_call_and_ret : vvAfter (.call (hd (.v 8) (.v 0) (.v 0) (.v 0) 0) ⟨0, 8⟩) two 8 5 = 0x10000C ∧
    (warpOf (exec (.ret (hd no (.v 2) (.v 0) (.v 0) 0) 0) (vs two [(2, 0, 0x100100), (2, 5, 0x100100)]))).splits.map
      (fun sp => sp.pc.toNat) = [0x100100] := by decide
theorem test_brx_and_call_r : (warpOf (exec (.brx (hd no (.v 2) (.v 0) (.v 0) 0) ⟨0, 0⟩) (vs two [(2, 0, 0x100100), (2, 5, 0x100200)]))).splits.map
      (fun sp => (sp.lanes, sp.pc.toNat)) = [([0], 0x100100), ([5], 0x100200)] ∧
    vvAfter (.callR (hd (.v 8) (.v 2) (.v 0) (.v 0) 1) ⟨0, 0⟩) (vs two [(2, 0, 0x100100), (2, 5, 0x100100)]) 8 0 = 0x10000C := by decide
/-- A misaligned target is fault 0x06 with `DETAIL` 2. -/
theorem test_ret_misaligned : (warpOf (exec (.ret (hd no (.v 2) (.v 0) (.v 0) 0) 0) (handled (vs two [(2, 0, 0x100102)])))).fault = 0x00020006#32 := by
  decide
theorem test_meet_and_exit : (warpOf (exec (.meet (hd no (.v 0) (.v 0) (.v 0) 0) ⟨0, 8⟩) two)).stack 5 = [0x100020#64] ∧
    (warpOf (exec (.exit (hd2 no (.v 0) (.v 0) (.v 0) 0) 0) (ms two [(2, 0)]))).splits.map (fun sp => sp.lanes) = [[5]] := by decide
theorem test_yield_ends_the_run : (warpOf (exec (.yield (hd no (.v 0) (.v 0) (.v 0) 0) 0) two)).run = 256 := by decide
theorem test_mfsr : vAfter (.mfsr (hd (.v 8) (.v 0) (.v 0) (.v 0) 0) 0) two 8 5 = 5 ∧ sAfter (.mfsr (hd (.s 8) (.v 0) (.v 0) (.v 0) 0) 8) two 8 = 0x21 := by
  decide
theorem test_mtsr : flagsAfter (.mtsr (hd no .imm (.v 0) (.v 0) 0) 10) two = 0 ∧
    flagsAfter (.mtsr { hd no .imm (.v 0) (.v 0) 0 with lit := some 0xFF } 10) two = 0x3F := by decide
/-- A handler's `tret` at the resume address that v242 and v243 hold. -/
def inHandler : State := handled (stateOf (exec (.trap (hd no (.v 0) (.v 0) (.v 0) 0) 1) (handled (vs two [(250, 0, 8)]))))
def repicked (s : State) : State := { s with picked := some { core := 0, slot := 0, warp := 0, lane := 0 } }
theorem test_tret_returns :
    let w := warpOf (exec (.tret (hd no (.v 0) (.v 0) (.v 0) 0) 0) (repicked (vs inHandler [(250, 0, 9), (2, 0, 6)])))
    w.splits.map (fun sp => (sp.lanes, sp.pc.toNat)) = [([0, 5], 0x10000C)] ∧ w.vreg 250 0 = 8#32 ∧ w.vreg 2 0 = 6#32 ∧ w.save = none := by
  decide
theorem test_tret_outside_a_handler : (warpOf (exec (.tret (hd no (.v 0) (.v 0) (.v 0) 0) 0) (handled two))).fault = 1#32 := by decide
/-- 08: a read of a register that a long instruction has sealed is fault 0x04 of every lane, delivered once the register has returned. -/
theorem test_hazard : let s := stateOf (exec (.rsqrt (hd (.v 4) (.v 2) (.v 0) (.v 0) 0) (wc .f32 0)) (handled two))
    (warpOf (exec (.fmul (hd (.v 5) (.v 4) (.v 4) (.v 0) 0) (wc .f32 0)) (repicked s))).splits.map (fun sp => sp.st) =
      [.entryWait [{ lane := 0, code := 0x04, detail := 4 }, { lane := 5, code := 0x04, detail := 4 }]] := by decide

/-! ### Witnesses: every instruction of a warp at issue, in the forms that the statements tell apart -/

def v3 : Head := hd (.v 8) (.v 0) (.v 2) (.v 4) 0
def v2' : Head := hd (.v 8) (.v 0) (.v 2) (.v 0) 0
def v1' : Head := hd (.v 8) (.v 0) (.v 0) (.v 0) 0
def pd1 (x : Head) : Head := { x with d := .none 1 }
def sub (x : Head) (k : BitVec 7) : Head := { x with sub := k }
/-- No destination; A, A and B, A and B and C. -/
def n0 : Head := hd no (.v 0) (.v 0) (.v 0) 0
def n2 : Head := hd no (.v 2) (.v 4) (.v 0) 0
def n3 : Head := hd no (.v 2) (.v 4) (.v 6) 0

def integerForms : List Instr :=
  [.add v2' (wp .n64 1 true), .sub v2' (wc .s8x4 0), .mul v2' (wc .s16x2 0), .mad v3 (wp .n16x2 6 false), .add3 v3 (wc .s64 0),
   .abs v1' (wp .s32 0 true), .neg v1' (wc .s16x2 0), .madw v3 (wc .s32 0), .madw v3 (wc .n32 0), .sad v3 (wc .n32 0), .sad (sub v3 1) (wc .s8x4 0)]
def logicForms : List Instr :=
  [.nop (hd (.v 0) (.v 0) (.v 0) (.v 0) 0) ⟨.b32, .ne, false, false, 0, 0, 0, 0, 0⟩, .mov v2' (wc .b32 0), .mov v2' (wc .b64 0), .and v2' (wc .b64 0), .or v2' (wc .b32 0), .xor v2' (wc .b32 0), .not v1' (wc .b64 0),
   .bitf v3 (wc .b32 0xE8), .min v2' (wc .s64 0), .max v2' (wc .n16x2 0), .mulhi v2' (wc .n64 0), .lea (sub v2' 7) (wc .s32 0)]
def shiftForms : List Instr :=
  [.shl v2' (wc .b64 0), .shr v2' (wc .n16x2 0), .sar v2' (wc .s16x2 0), .dsh v3 (wc .b32 0), .dsh (sub v3 1) (wc .b32 0), .dsh (sub v3 2) (wc .b32 0),
   .dsh (sub v3 3) (wc .b32 0), .fext v2' (wc .s32 0), .fext v2' (wc .n32 0), .fins v3 (wc .b32 0), .clz v1' (wc .b64 0), .popc v1' (wc .b32 0),
   .brev v1' (wc .b64 0)]
def selectForms : List Instr :=
  [.cmp (pd1 v2') { wp .n64 2 false with cond := 5 }, .cmp (sub (pd1 v2') 1) { wp .s8x4 7 false with cond := 0 }, .cmp v2' { wc .s64 0 with cond := 1 },
   .sel (sub v2' 15) (wc .b64 0), .bsel v3 (wc .b32 0), .acs v3 (wp .s32 6 true), .acs v3 (wp .s16x2 5 false)]
def compactForms : List Instr :=
  [.b32Nop (b32 0 0 0), .b32Mov (b32 8 0 2), .b32AddS32 (b32 8 0 2), .b32SubS32 (b32 8 0 2), .b32MulS32 (b32 8 0 2), .b32AddS16x2 (b32 8 0 2),
   .b32SubS16x2 (b32 8 0 2), .b32And (b32 8 0 2), .b32Or (b32 8 0 2), .b32Xor (b32 8 0 2), .b32Shl (b32 8 0 2), .b32Shr (b32 8 0 2),
   .b32Sar { b32 8 0 63 with imm := true }, .b32MinS32 (b32 8 0 2), .b32MaxS32 (b32 8 0 2), .b32MinN32 (b32 8 0 2), .b32MaxN32 (b32 8 0 2),
   .b32MinS16x2 (b32 8 0 2), .b32MaxS16x2 (b32 8 0 2)]
def floatForms : List Instr :=
  [.fadd v2' (wc .f32 0), .fsub v2' { wc .f16x2 0 with ftz := true, neg := 2, abs := 1 }, .fmul v2' (wc .bf16x2 0), .ffma v3 { wc .f32 0 with rnd := .up },
   .fmin v2' (wc .f32 0), .fmax v2' (wc .f16x2 0), .b32FaddF32 (b32 8 0 2), .b32FsubF32 (b32 8 0 2), .b32FmulF32 (b32 8 0 2), .b32FaddF16x2 (b32 8 0 2),
   .b32FmulF16x2 (b32 8 0 2), .b32FaddBf16x2 (b32 8 0 2), .b32FmulBf16x2 (b32 8 0 2), .b32FminF32 (b32 8 0 2), .b32FmaxF32 (b32 8 0 2)]
def functionForms : List Instr :=
  [.fcmp (pd1 v2') { wp .f32 2 false with cond := 7 }, .fcmp (sub (pd1 v2') 1) { wc .f16x2 0 with cond := 2 }, .fcmp v2' { wc .f16x2 0 with cond := 1 },
   .rcp v1' (wc .f32 0), .rsqrt v1' (wc .f16x2 0), .sqrt v1' (wc .f32 0), .exp2 v1' (wc .f32 0), .log2 v1' (wc .f32 0), .sinpi v1' (wc .bf16x2 0),
   .cospi v1' (wc .f32 0), .frnd v1' (wc .f32 0), .fscale v2' (wc .f16x2 0), .fdot2 v3 (wc .bf16x2 0), .fclass (sub v1' 1) (wc .f16x2 0)]
def conversionForms : List Instr :=
  [.cvt (sub v1' 1) (wc .n64 0), .cvt (sub v1' 1) (wc .f32 0), .cvt (sub v1' 8) (wc .s32 0), .cvt (sub v1' 8) (wc .f16x2 0), .cvt (sub v1' 25) (wc .f32 0),
   .pack v2' (wc .f16x2 0), .pack (sub v3 1) (wc .s8x4 0), .unpack (sub v1' 1) (wc .s16x2 0), .unpack v1' (wc .bf16x2 0),
   .cvtd (sub v2' 11) (wc .bf16x2 0), .cvtd (sub v1' 3) (wc .f32 0), .cvtq (sub v1' 5) (wc .f32 0)]
def predicateForms : List Instr :=
  [.pset (sub (pd1 n0) 60) (wc .b32 0x3F), .pset (sub (pd1 n0) 1) (wc .b32 31), .pset (sub v1' 2) (wc .b32 0), .pset (sub n0 3) (wc .b32 0),
   .vote (pd1 n0) (wc .b32 6), .vote (hd (.s 8) (.v 0) (.v 0) (.v 0) 2) (wc .b32 7), .ballot v1' (wc .b32 7), .mcnt (sub v1' 1) (wc .b32 0)]
def laneForms : List Instr :=
  [.xlane v2' (wp .b64 1 false), .xlane (sub v2' 1) (wc .b32 0), .xlane (sub v2' 2) (wc .b32 0), .xlane (sub v2' 3) (wc .b32 0), .xlane (sub v2' 4) (wc .b32 0),
   .bcast v2' (wc .b64 0), .b32XlaneFrom (b32 8 0 2), .b32XlaneSwap (b32 8 0 2), .b32Bcast (b32 8 0 2), .smov (hd (.s 8) (.v 0) (.v 0) (.v 0) 0) (wc .b32 0),
   .smov (hd (.s 8) (.v 0) (.s 2) (.v 0) 1) (wc .b64 0), .wred v1' (wc .n64 0), .wred (sub v1' 5) (wc .b32 0), .wred v1' (wc .f32 0),
   .wscan (sub v1' 8) (wc .s32 0), .wscan (sub v1' 2) (wc .f32 0)]
def indexForms : List Instr :=
  [.vget (sub v1' 3) (wc .b32 0), .vput (sub v1' 0) (wc .b32 0), .xset (sub n2 0) (wc .b32 0), .xset (sub n0 4) (wc .b32 0),
   .bmov (hd (.b 63) (.v 0) (.v 0) (.v 0) 0) (wc .b32 0), .bmov (hd (.b 62) (.v 0) (.v 0) (.v 0) 0) (wc .b64 0), .bpass (hd no (.b 0) (.v 2) (.v 0) 63) (wc .b32 0)]
def controlForms : List Instr :=
  [.bra n0 ⟨3, 0x800000⟩, .brx (hd no (.v 2) (.v 0) (.v 0) 0) ⟨0, 0⟩, .call v1' ⟨0, 1⟩, .callR (sub v1' 1) ⟨0, 0⟩, .ret (hd no (.v 2) (.v 0) (.v 0) 0) 0,
   .exit n0 0, .meet n0 ⟨0, 5⟩, .trap n0 255, .brk n0 0, .yield n0 0, .mfsr v1' 0, .mfsr v1' 8, .mfsr v1' 9, .mfsr v1' 15, .mtsr (hd no (.v 2) (.v 0) (.v 0) 0) 10,
   .mtsr (hd no (.v 2) (.v 0) (.v 0) 0) 11, .mtsr (hd no (.v 2) (.v 0) (.v 0) 0) 12]
def memoryForms : List Instr :=
  [.ld v1' (wm 0 4 0 0 0), .ld v1' (wm 3 0 0 0 0), .ld (hd (.s 8) (.s 4) (.v 0) (.v 0) 0) (wm 0 2 0 0 0), .st n2 (wm 0 3 3 2 0), .st n2 (wm 1 2 0 0 0), .st n2 (wm 3 2 0 0 0),
   .ldg4 v3 (wm 0 0 0 0 0), .atom v2' (wm 0 2 3 3 0), .atom (sub v3 7) (wm 1 3 2 0 0), .red n2 (wm 0 2 3 0 0), .prefetch n0 (wm 0 0 0 0 0), .fence n0 (wm 0 0 3 3 0),
   .waita n2 (wm 0 2 3 0 0), .smap n3 (wm 0 0 0 0 0), .swb n0 (wm 0 0 0 0 0), .cflush n0 (wm 0 0 0 0 0)]
def syncForms : List Instr :=
  [.bellInit n2 0, .bellArr n2 1, .bellArr v2' 0, .bellWait n2 0, .bellWait v2' 0, .fset n2 3, .fon n2 0, .qres v2' 0xE0000, .qres v2' 1, .qcom n3 0, .qtake v2' 0,
   .spawn n2 0, .cpy n0 0x3C, .qfen n0 0x3F, .fdone n0 0, .fpois n0 0]
def engineForms : List Instr :=
  [.tcfg (pd1 n0) 0x15, .bres (hd no (.v 0) (.v 4) (.v 0) 7) 12, .brel n0 0, .tload n2 0, .tload (sub n2 8) 1, .mma n0 15, .tdrain n3 0, .tdrain (sub n3 3) 8, .tzero n0 7, .tquant n3 0x30, .mstat v1' 0,
   .sopen v3 0x20000, .senter n2 0, .sleave n0 0, .sskip n2 0, .stake v1' 0, .rast n0 1]
/-- No lane of `two` is past its limit: x registers of both lanes hold index 0, limit 8. -/
def indexed : State := inWarp two fun w => [0, 1, 2, 3].foldl (fun w k => (w.setX k 0 0x0800#16).setX k 5 0x0800#16) w

theorem test_issue_integer : ((integerForms ++ logicForms).all fun i => issues? i two) = true := by decide
theorem test_issue_shift : ((shiftForms ++ selectForms ++ compactForms).all fun i => issues? i two) = true := by decide
theorem test_issue_float : ((floatForms ++ functionForms ++ conversionForms).all fun i => issues? i two) = true := by decide
theorem test_issue_warp : ((predicateForms ++ laneForms ++ indexForms).all fun i => issues? i indexed) = true := by decide
theorem test_issue_control : (controlForms.all fun i => issues? i two) = true := by decide
theorem test_issue_memory : ((memoryForms ++ syncForms ++ engineForms).all fun i => issues? i two) = true := by decide

/-! ### Witnesses: what the statements suppose besides the issue -/

/-- `i` is at issue in `s`, and `p` holds of it. -/
def at? (i : Instr) (s : State) (p : Ctx → Bool) : Bool :=
  match s.ctx? i with
  | some c => issues? i s && p c
  | none => false

theorem at_of {i : Instr} {s : State} {p : Ctx → Bool} (h : at? i s p = true) : ∃ c, Issues i s c ∧ p c = true := by
  unfold at? at h
  split at h
  · rename_i c hc
    simp only [Bool.and_eq_true] at h
    obtain ⟨d, hd⟩ := issues_of h.1
    have e : c = d := by simpa [hc] using hd.1
    exact ⟨c, e ▸ hd, h.2⟩
  · simp at h

/-- The accesses `ws` land, at places and in a state of which `k` holds. -/
def locs : List (Want × Placed) → Option (List (Want × Loc))
  | [] => some []
  | (q, .loc l) :: r => (locs r).map fun t => (q, l) :: t
  | _ => none
def lands? (c : Ctx) (space : Nat) (m : Mode) (s : State) (ws : List Want) (k : List (Want × Loc) → State → Bool) : Bool :=
  match locs (c.placeAll space m 0 [] s ws).1 with
  | some ls => decide (ls.map (fun p => p.1) = ws) && k ls (c.placeAll space m 0 [] s ws).2
  | none => false

theorem locs_some : ∀ (l : List (Want × Placed)) (ls : List (Want × Loc)), locs l = some ls → l = ls.map fun p => (p.1, .loc p.2)
  | [], ls, h => by simp [locs] at h; simp [← h]
  | (q, .loc p) :: r, ls, h => by
    simp only [locs, Option.map_eq_some_iff] at h
    obtain ⟨t, ht, e⟩ := h
    simp [← e, locs_some r t ht]
  | (_, .page _ _) :: _, ls, h => by simp [locs] at h
  | (_, .flip _) :: _, ls, h => by simp [locs] at h
  | (_, .fault _ _ _) :: _, ls, h => by simp [locs] at h

theorem lands_of {c : Ctx} {space : Nat} {m : Mode} {s : State} {ws : List Want} {k : List (Want × Loc) → State → Bool}
    (h : lands? c space m s ws k = true) : ∃ ls t, Lands c space m s ws ls t ∧ k ls t = true := by
  unfold lands? at h
  split at h
  · rename_i ls hl
    simp only [Bool.and_eq_true, decide_eq_true_eq] at h
    exact ⟨ls, _, ⟨Prod.ext (locs_some _ _ hl) rfl, h.1⟩, h.2⟩
  · simp at h

/-- The release that is due is done, in a state of which `k` holds. -/
def released? (c : Ctx) (need : Bool) (s : State) (k : State → Bool) : Bool :=
  if need then decide ((s.writeBack c.agent false).1 = none) && k (s.writeBack c.agent false).2 else k s

theorem released_of {c : Ctx} {need : Bool} {s : State} {k : State → Bool} (h : released? c need s k = true) :
    ∃ t, Released c need s t ∧ k t = true := by
  cases need with
  | false => exact ⟨s, rfl, h⟩
  | true =>
    simp only [released?, if_true, Bool.and_eq_true, decide_eq_true_eq] at h
    exact ⟨(s.writeBack c.agent false).2, by simp [Released, Prod.ext_iff, h.1], h.2⟩

/-- DecodeOfEncodeIsTheInstruction: a legal instruction with a literal and with every field in use. -/
theorem test_witness_decode : encOk (.ffma ⟨true, 1, 0, true, .v 255, 0, .v 255, .s 63, .imm, some 0xFFFFFFFF⟩
    ⟨.f32, .up, true, true, 7, 7, 0, 7, 0⟩) = false ∧ encOk (.ffma ⟨true, 1, 0, true, .v 255, 0, .v 255, .v 9, .imm, some 0xFFFFFFFF⟩
    ⟨.f32, .up, false, true, 7, 7, 0, 7, 0⟩) = true := by decide

/-- The state in which `withFetchWord` places the words of `add v8, v0, v2`, and one with words that are no instruction. -/
def placed : State := State.reset.withFetchWord 96 (0x10E042 + 2 ^ 32 * 0x200 + 2 ^ 64 * 0xE0002)
def placedBad : State := State.reset.withFetchWord 96 0xFFE2
/-- The pick of a state: its crew and its split run, and the bytes at its program counter are `l`. -/
def fetches (s : State) (k : List Byte → Bool) : Bool :=
  match s.picked with
  | some p => match s.crew p.core p.slot with
    | some cr => match (cr.warp p.warp).splitOf p.lane with
      | some sp => decide (sp.st = .run) && (match s.fetchBytes (cr.agent p.core) sp.served (sp.lanes.headD 0) sp.pc.toNat with
        | .bytes l _ => k l
        | _ => false)
      | none => false
    | none => false
  | none => false
theorem test_witness_step_runs : fetches placed (fun l => decide ((decode l).toOption = some (.add (hd (.v 8) (.v 0) (.v 2) (.v 0) 0) (wc .n32 0), []))) =
    true := by decide
theorem test_witness_step_undecodable : fetches placedBad (fun l => decide ((decode l).toOption = none)) = true := by decide
theorem test_step_runs_the_word : (warpOf (step placed)).splits.map (fun sp => sp.pc.toNat) = [0x10000C] := by decide

/-- StepWithoutPickMakesTheNextMove: a device step and a warp instruction on the agenda, an empty agenda of a ready and of a reset module. -/
def ready : State := { State.reset with mgmt := { State.reset.mgmt with boot := 5 } }
theorem test_witness_agenda : ({ State.reset with agenda := [.railsStable] } : State).picked = none ∧ eventOk .railsStable = true ∧
    eventOk (.issueArbitration 96 0) = false := by decide
theorem test_witness_next_move : two.nextEvent.isSome = true ∧ two.agenda = [] ∧ State.reset.nextEvent = none ∧
    ({ two with picked := none } : State).nextEvent.isSome = true := by decide

/-- FetchChecksInOrder: each of its addresses, and each way a translation ends. -/
def kindOf : Trans × State → Nat
  | (.ok _ _, _) => 0
  | (.page _, _) => 1
  | (.fault _, _) => 2
def agent0 (s : State) : Agent :=
  match s.crew 0 0 with
  | some cr => cr.agent 0
  | none => ⟨0, 0, 0, 0, 0, 0, [], 0, false, none⟩
/-- A page at 0x110000 that may be read and written but not executed. -/
def withData (s : State) : State :=
  s.setCore 0 { s.core 0 with tlb := { part := 0, asn := 1, root := 0x200000, vpage := 0x11, large := false, leaf := 0x1101B3#64, leafPa := 0x200008 } ::
    (s.core 0).tlb }
theorem test_witness_fetch : kindOf (two.translate (agent0 two) 0x100000 .fetch) = 0 ∧ kindOf (two.translate (agent0 two) 0x300000 .fetch) = 1 ∧
    kindOf ((withData two).translate (agent0 two) 0x110000 .fetch) = 2 ∧ inGen 0x100000 = false ∧ 2 ^ 56 - 4 < 2 ^ 56 ∧ (2 ^ 56 - 2) % 4 ≠ 0 := by
  decide

/-- IllegalAndHazardousIssuesHaveNoEffect: an illegal encoding at a picked warp; a legal one that reads a sealed register. -/
def sealed4 : State := inWarp two fun w => { w with
  seals := [{ kind := .v, num := 4, lane := 0, op := 1 }, { kind := .v, num := 4, lane := 7, op := 1 }]
  pends := [{ id := 1, load := false, pc := 0x100000#64, lanes := [0, 7], mask := [0, 7], late := [], regs := [(.v, 4)] }] }
theorem test_witness_illegal : (two.ctx? (.add v1' (wc .f32 0))).isSome = true ∧ encOk (.add v1' (wc .f32 0)) = false := by decide
theorem test_witness_hazard : (match sealed4.ctx? (.add v3 (wc .n32 0)) with
    | some _ => false
    | none => true) = false ∧ (match sealed4.ctx? (.add3 v3 (wc .n32 0)) with
    | some c => encOk (.add3 v3 (wc .n32 0)) && dstOk c.form.d c.x.d && stateRule (.add3 v3 (wc .n32 0)) c && !c.preFaults.isEmpty
    | none => false) = true := by decide

/-- FaultEntersTheHandler and DoubleFaultEndsTheWarp: a crew with a handler outside it, in it, and a crew without one. -/
def crewAs (s : State) (p : Crew → Bool) : Bool :=
  match s.crew 0 0 with
  | some cr => p cr
  | none => false
def handlerAt (s : State) : State := inCrew s fun cr => { cr with shape := { cr.shape with handler := 0x100800#64 } }
def saved0 : Save := { v := [], m := [], x := [], fpf := 0, lanes := [0, 5], splits := [], meets := [], issued := 0 }
def handling : State := inWarp (handlerAt two) fun w => { w with save := some saved0 }
theorem test_witness_fault_enters : crewAs (handlerAt two) (fun cr => decide ((cr.warp 0).save = none) && decide (cr.shape.handler ≠ 0) &&
    ((cr.warp 0).splitOf 5).isSome) = true := by decide
theorem test_witness_double_fault : crewAs handling (fun cr => decide (cr.status = none) && (cr.warp 0).save.isSome) = true ∧
    crewAs two (fun cr => decide (cr.status = none) && decide ((cr.warp 0).save = none) && decide (cr.shape.handler = 0)) = true := by decide

/-- TrapAndBreakRaiseTheirFault: with lanes and without. -/
theorem test_witness_trap : at? (.trap n0 255) two (fun c => decide (c.mask ≠ [])) = true ∧
    at? (.brk (hd2 no (.v 0) (.v 0) (.v 0) 0) 7) two (fun c => decide (c.mask = [])) = true := by decide

/-- OperandsReadByClass: one register and a pair. -/
theorem test_witness_operands : (Use.any 1 .b32).n = 1 ∧ (Use.any 2 .b64).n = 2 := by decide

/-- The integer rows: an element of a packed type; the two widenings; both forms of `sad`. -/
theorem test_witness_elements : 3 < tyElems .s8x4 ∧ 0 < tyElems .n64 ∧ tySigned .s16x2 = true ∧ tySigned .n64 = false ∧ v3.sub = 0 ∧ (sub v3 1).sub = 1 := by
  decide
theorem test_witness_compare : at? (.cmp (pd1 v2') { wp .n64 2 false with cond := 5 }) two (fun c => decide (c.x.d = .none 1)) = true ∧
    at? (.cmp v2' { wc .s64 0 with cond := 1 }) two (fun c => decide (c.x.d = .v 8)) = true := by decide

/-- The rounding statements: finite values, a result that is finite, representable and not, an overflow and a tiny value. -/
theorem test_witness_exact : isFin (.fin false 3 (-1)) = true ∧ isFin (.fin true 0 0) = true := by decide
theorem test_witness_rounding : isFin (fmtF32.decode (fmtF32.round .dn false false (.fin true 0x1000001 0)).1) = true ∧
    isFin (fmtE4m3.decode (fmtE4m3.round .ne false false (.fin false 29 4)).1) = true := by decide
theorem test_witness_representable : 0x7F800000 < 2 ^ (1 + fmtF32.eb + fmtF32.fb) ∧ fmtF32.decode 0x7F800000 ≠ .nan ∧
    fmtE4m3.decode 0x7F = .nan ∧ 0x7F < 2 ^ (1 + fmtE4m3.eb + fmtE4m3.fb) := by decide
theorem test_witness_overflow : (2 : ℚ) ^ (2 ^ fmtF16.eb - 1 - fmtF16.bias : Int) ≤ |rat (.fin true 1 16)| := by
  norm_num [rat, fmtF16]
theorem test_witness_tiny : |rat (.fin false 1 (-30))| < (2 : ℚ) ^ (1 - fmtF16.bias - 1 : Int) := by norm_num [rat, fmtF16]
theorem test_witness_flush : 0x007FFFFF < 2 ^ (1 + fmtF32.eb + fmtF32.fb) ∧ 2 < 3 := by decide
theorem test_witness_functions : (3 : Nat) % 2 = 1 ∧ (999 : Nat) < 1000 ∧ (1 : Nat) ≠ 0 := by decide
theorem test_witness_conversions : tyOf 1 = some .s32 ∧ tyOf 8 = some .f32 ∧ tyFloat .f32 = true ∧ tyFloat .n32 = false := by decide
theorem test_witness_cvtq : at? (.cvtq (sub v1' 5) (wc .f32 0)) two (fun c => decide (c.width ∈ [32, 64, 128])) = true := by decide

/-- PredicatesVotesAndBallots: the four modes; a predicate and a scalar as destination; the width. -/
theorem test_witness_predicates : (sub (pd1 n0) 60).sub.toNat % 4 = 0 ∧ (pd1 n0).d = .none 1 ∧ (sub n0 3).sub.toNat % 4 = 3 ∧
    at? (.ballot v1' (wc .b32 7)) two (fun c => decide (c.width ∈ [32, 64, 128])) = true := by decide

/-- CrossLaneMoves: a read that need not wait, at a lane in `Mask()` and outside; one that must. -/
theorem test_witness_lane_moves : at? (.xlane (sub v2' 4) (wc .b32 0)) (vs two [(2, 0, 31)]) (fun c =>
      c.mask.all fun l => !c.waitsFor c.aReg 1 ((l + c.b l) % c.width)) = true ∧
    at? (.xlane (hd (.v 8) (.v 4) (.v 2) (.v 0) 0) (wc .b32 0)) (vs (inWarp sealed4 fun w => { w with seals := w.seals.drop 1 }) [(2, 0, 7)])
      (fun c => decide (c.waitsFor c.aReg 1 (c.b 0 % c.width) = true)) = true := by decide
theorem test_witness_smov : at? (.smov (hd (.s 8) (.v 4) (.s 2) (.v 0) 1) (wc .b32 0)) (ss (inWarp sealed4 fun w => { w with seals := w.seals.drop 1 })
      [(2, 39)]) (fun c => decide (c.mask ≠ []) && decide (c.waitsFor c.aReg 1 (c.b c.lowMask % c.width) = true)) = true ∧
    at? (.smov (hd (.s 8) (.v 0) (.v 0) (.v 0) 0) (wc .b32 0)) two (fun c => decide (c.mask ≠ []) && !c.waitsFor c.aReg 1 c.lowMask) = true := by decide

/-- IndexedRegisters: indices that may be reached, up to the last below the limit; one past it; a number beyond v255. -/
def reaches? (c : Ctx) (k b : Nat) : Bool := c.mask.all fun l =>
  decide ((c.w.xreg k l).toNat % 256 < (c.w.xreg k l).toNat / 256) && decide (reached c k b l < 256) && c.vOk (reached c k b l) 1 &&
    !c.w.sealed .v (reached c k b l) l
theorem test_witness_index : at? (.vget (hd (.v 8) (.v 248) (.v 0) (.v 0) 0) (wc .b32 0)) (inWarp two fun w => (w.setX 0 0 0x0807#16).setX 0 5 0xFF00#16)
      (fun c => reaches? c 0 248) = true ∧
    at? (.vput (hd (.v 248) (.v 2) (.v 0) (.v 0) 0) (wc .b32 0)) (inWarp two fun w => (w.setX 0 0 0x0807#16).setX 0 5 0xFF00#16)
      (fun c => reaches? c 0 248) = true ∧
    at? (.vget (hd (.v 8) (.v 248) (.v 0) (.v 0) 0) (wc .b32 0)) (inWarp two fun w => (w.setX 0 0 0x0808#16).setX 0 5 0xFF08#16)
      (fun c => decide ((c.w.xreg 0 0).toNat / 256 ≤ (c.w.xreg 0 0).toNat % 256) && decide (256 ≤ reached c 0 248 5)) = true := by decide

/-- BlockRegisters: no lane; not the owner; the owner of the last pair; a receiver that may take and one that may not. -/
def owns (s : State) (l : List Nat) : State := inCrew s fun cr => { cr with b := l.foldl (fun b n => Store.put b n { owner := 3 }) cr.b }
theorem test_witness_bmov : at? (.bmov (hd (.b 62) (.v 0) (.v 0) (.v 0) 0) (wc .b64 0)) two (fun c => decide (c.mask ≠ []) &&
      decide ((c.cr.breg 62).owner = c.wi) && decide ((c.cr.breg 63).owner = c.wi)) = true ∧
    at? (.bmov (hd (.b 62) (.v 0) (.v 0) (.v 0) 0) (wc .b64 0)) (owns two [63]) (fun c => decide (c.mask ≠ []) && decide ((c.cr.breg 63).owner ≠ c.wi)) = true ∧
    at? (.bmov (hd2 (.b 62) (.v 0) (.v 0) (.v 0) 0) (wc .b64 0)) two (fun c => decide (c.mask = [])) = true := by decide
theorem test_witness_bpass : at? (.bpass (hd no (.b 0) (.v 2) (.v 0) 63) (wc .b32 0)) two (fun c => decide (c.mask ≠ []) &&
      (List.range 64).all (fun r => decide ((c.cr.breg r).owner = c.wi)) && decide (c.b c.lowMask < c.cr.shape.warps) &&
      !(c.cr.warp (c.b c.lowMask)).retired) = true ∧
    at? (.bpass (hd no (.b 63) (.v 2) (.v 0) 0) (wc .b32 0)) (vs two [(2, 0, 1)]) (fun c => decide (c.mask ≠ []) &&
      decide (c.cr.shape.warps ≤ c.b c.lowMask)) = true ∧
    at? (.bpass (hd2 no (.b 63) (.v 2) (.v 0) 0) (wc .b32 0)) two (fun c => decide (c.mask = [])) = true := by decide

/-- BranchesGoToTheirTargets: targets at the last legal address; a non-canonical and a misaligned one. -/
def far (lo hi : Nat) : State := vs two [(2, 0, lo), (3, 0, hi), (2, 5, 0x100000)]
theorem test_witness_targets : at? (.ret (hd no (.v 2) (.v 0) (.v 0) 0) 0) (far 0xFFFFFFFC 0xFFFFFF) (fun c => c.mask.all fun l =>
      decide (c.a l < 2 ^ 56) && decide (c.a l % 4 = 0)) = true ∧
    at? (.brx (hd no (.v 2) (.v 0) (.v 0) 0) ⟨0, 0⟩) (far 2 0x1000000) (fun c => decide (2 ^ 56 ≤ c.a 0)) = true ∧
    at? (.callR (sub (hd (.v 8) (.v 2) (.v 0) (.v 0) 0) 1) ⟨0, 0⟩) (far 2 0) (fun c => decide (c.a 0 % 4 ≠ 0)) = true := by decide
theorem test_witness_branch_parts : at? (.bra (hd2 no (.v 0) (.v 0) (.v 0) 0) ⟨0, 8⟩) (ms two [(2, 5)]) (fun c => decide (5 ∈ c.mask) &&
    decide (0 ∈ c.sp.lanes) && decide (0 ∉ c.mask)) = true := by decide
def stacked (n : Nat) : State := inWarp two fun w => { w with meets := [(5, List.replicate n 0x100040#64)] }
theorem test_witness_meet : at? (.meet n0 ⟨0, 5⟩) (stacked 7) (fun c => c.mask.all fun l => decide ((c.w.stack l).length < 8)) = true ∧
    at? (.meet n0 ⟨0, 5⟩) (stacked 8) (fun c => c.mask.any fun l => decide (8 ≤ (c.w.stack l).length)) = true ∧
    ({} : Warp).save = none := by decide

/-- SplitSelectionAndMeeting: a current split below its 256th instruction and at it, none, and a release. -/
def splits2 (cur : Option Nat) (run : Nat) : Warp := { splits := [{ lanes := [0], pc := 0x100#64, st := .run }, { lanes := [1], pc := 0x80#64, st := .run }], cur, run }
theorem test_witness_select : (splits2 (some 0) 255).select = (splits2 (some 0) 255).splitOf 0 ∧
    ((splits2 (some 0) 256).select.map fun sp => sp.lanes) = some [1] ∧ ((splits2 none 0).select.map fun sp => sp.lanes) = some [1] ∧
    ((splits2 (some 1) 256).select.map fun sp => sp.lanes) = some [0] := by decide
def meeting : Warp := { splits := [{ lanes := [0], pc := 0x80#64, st := .held }, { lanes := [1], pc := 0x80#64, st := .held }], meets := [(0, [0x80#64]), (1, [0x80#64])] }
theorem test_witness_release : meeting.releasable = some 0x80#64 := by decide

theorem test_witness_special : at? (.mfsr v1' 8) two (fun c => decide (c.width ∈ [32, 64, 128]) && decide c.sp.lanes.Nodup) = true ∧
    (two.ctx? (.mfsr v1' 16)).isSome = true ∧ (two.ctx? (.mtsr n0 9)).isSome = true ∧
    at? (.mfsr v1' 15) two (fun c => decide (c.cr.fill = none)) = true := by decide

/-- TretResumesAndRestores: every handler lane together; a meeting stack that is not empty; a lane elsewhere. -/
theorem test_witness_tret : at? (.tret n0 0) (vs handling [(242, 0, 0x100010), (242, 5, 0xFFFFFFFC), (243, 5, 0xFFFFFF)]) (fun c => c.inHandler &&
      decide (c.w.splits.length ≤ 1) && c.sp.lanes.all fun l => decide (c.w.stack l = []) && !c.w.sealed .v 242 l && !c.w.sealed .v 243 l &&
        decide (c.w.vval 242 2 l < 2 ^ 56) && decide (c.w.vval 242 2 l % 4 = 0)) = true ∧
    at? (.tret n0 0) (inWarp handling fun w => { w with meets := [(5, [0])] }) (fun c => c.inHandler && decide (c.w.stack 5 ≠ [])) = true ∧
    at? (.tret n0 0) (inWarp handling fun w => { w with splits := w.splits ++ [{ lanes := [9], pc := 0, st := .run }] }) (fun c => c.inHandler &&
      decide (1 < c.w.splits.length)) = true := by decide

/-! ### Witnesses: memory and synchronisation -/

/-- The address `a` in v2 and v3 of lanes 0 and 5, eight bytes apart; a crew with a stash of 4096 bytes. -/
def addrs (a : Nat) : State := vs two [(2, 0, a % 2 ^ 32), (3, 0, a / 2 ^ 32), (2, 5, (a + 8) % 2 ^ 32), (3, 5, a / 2 ^ 32)]
def stashed (s : State) : State := inCrew s fun cr => { cr with shape := { cr.shape with stash := 4096 } }
def unmixed? (c : Ctx) (strong : Bool) (ls : List (Want × Loc)) (s : State) : Bool :=
  !strong || ls.all fun p => match p.2 with
    | .glob _ pa _ => !s.mixed c.cr.part pa p.1.size
    | _ => true
def calm (r : List (Want × Rd)) : Bool := decide (waitsOf r = []) && decide (poisonLanes r = [])

theorem test_witness_ld : at? (.ld (hd (.v 8) (.v 2) (.v 0) (.v 0) 0) (wm 0 2 3 1 4)) (addrs 0x100400) (fun c =>
    lands? c 0 { acc := .read } (issued c (addrs 0x100400)) (c.mask.map fun l => ⟨l, (c.a l + 4) % 2 ^ 64, 4⟩) fun ls t =>
      unmixed? c true ls t && calm (c.readAll 0 t ls).1) = true := by decide
theorem test_witness_ld_stash : at? (.ld (hd (.s 8) (.s 4) (.v 0) (.v 0) 0) (wm 1 4 0 0 0)) (stashed (ss two [(4, 4080)])) (fun c =>
    lands? c 1 { acc := .read } (issued c (stashed (ss two [(4, 4080)]))) ((c.mask.take 1).map fun l => ⟨l, c.a l % 2 ^ 32, 16⟩) fun ls t =>
      calm (c.readAll 0 t ls).1 && decide (ls.map (fun p => p.2) = [.stash 4080])) = true := by decide
def surface : State := vs two [(2, 0, 0x100400), (2, 5, 0x100480), (4, 0, 0xFFFF), (6, 0, 0x33), (6, 5, 0x33)]
/-- A surface of 8 by 8 texels of one byte at 0x100400; B holds its logarithms and modes. -/
theorem test_witness_ldg4 : at? (.ldg4 (hd (.v 8) (.v 2) (.v 4) (.v 6) 0) (wm 0 0 0 0 0)) surface (fun c =>
    decide (c.mask.filterMap (c.texelFault (wm 0 0 0 0 0) 0) = []) &&
    lands? c 0 { acc := .read } (issued c surface) ((c.mask.map (c.texels (wm 0 0 0 0 0) 0)).flatten)
      fun ls t => calm (c.readAll 0 t ls).1) = true := by decide
theorem test_witness_texel : 3 ≤ 3 ∧ (0 : Int) ≤ 7 ∧ (7 : Int) < 2 ^ 3 := by decide
theorem test_witness_memory : 0 < ([0x5A] : List Byte).length ∧ ¬ (0x100 ≤ 0xFF ∧ 0xFF < 0x101) := by decide

theorem test_witness_st : at? (.st n2 (wm 0 3 3 2 0)) (addrs 0x10FFF0) (fun c =>
    lands? c 0 { acc := .write } (issued c (addrs 0x10FFF0)) (c.mask.map fun l => ⟨l, c.addr (wm 0 3 3 2 0) l, 8⟩) fun ls t =>
      unmixed? c true ls t && released? c (c.relDev (wm 0 3 3 2 0) ls t && !c.mask.isEmpty) t fun _ => true) = true := by decide
theorem test_witness_st_stash : at? (.st n2 (wm 1 2 0 0 0)) (stashed (vs two [(2, 0, 4092), (2, 5, 0)])) (fun c =>
    lands? c 1 { acc := .write } (issued c (stashed (vs two [(2, 0, 4092), (2, 5, 0)]))) (c.mask.map fun l => ⟨l, c.addr (wm 1 2 0 0 0) l, 4⟩)
      fun ls t => decide (ls.map (fun p => p.2) = [.stash 4092, .stash 0]) && released? c (c.relDev (wm 1 2 0 0 0) ls t && !c.mask.isEmpty) t fun _ => true) =
    true := by decide
theorem test_witness_st_frame : at? (.st n2 (wm 3 2 0 0 0)) (vs two [(2, 0, 4092), (2, 5, 0)]) (fun c =>
    lands? c 3 { acc := .write } (issued c (vs two [(2, 0, 4092), (2, 5, 0)])) (c.mask.map fun l => ⟨l, c.addr (wm 3 2 0 0 0) l, 4⟩)
      fun ls t => decide (ls.map (fun p => p.2) = [.frame 0 4092, .frame 5 0]) && released? c (c.relDev (wm 3 2 0 0 0) ls t && !c.mask.isEmpty) t fun _ => true) =
    true := by decide
def atomAt (i : Instr) (w : WM) : Bool := at? i (addrs 0x100400) fun c =>
  lands? c 0 { acc := .write, atomic := true } (issued c (addrs 0x100400)) (c.mask.map fun l => ⟨l, c.addr w l, 4⟩) fun ls t =>
    unmixed? c true ls t && released? c (c.relDev w ls t && !c.mask.isEmpty) t fun u =>
      (c.rmwAll w 0 false (c.writeReqs 0 [] u ls) ls).1.all (fun p => p.2.isSome) && !u.poisoned 0x100400
theorem test_witness_atom : atomAt (.atom (hd (.v 8) (.v 2) (.v 4) (.v 0) 0) (wm 0 2 3 3 0)) (wm 0 2 3 3 0) = true ∧
    atomAt (.red n2 (wm 0 2 3 0 0)) (wm 0 2 3 0 0) = true := by decide

/-- OrderingAndWindowInstructions: a fence with and without a value to wait for, a window of the largest length, a line to flush, and values
that meet a condition and do not. -/
theorem test_witness_fence : at? (.fence n0 (wm 0 0 3 3 0)) two (fun c => decide (c.mask ≠ []) && !c.waiting &&
      released? c true (issued c two) fun _ => true) = true ∧
    at? (.fence n0 (wm 0 0 3 1 0)) (inWarp sealed4 fun w => { w with pends := w.pends.map fun p => { p with load := true } }) (fun c => decide (c.mask ≠ []) && c.waiting) = true ∧
    at? (.swb n0 (wm 0 0 0 0 0)) two (fun c => released? c (!c.mask.isEmpty) (issued c two) fun _ => true) = true := by decide
def wide : State := inCrew (vs two [(2, 0, 0x100000), (4, 0, 0), (6, 0, 65536)]) fun cr => { cr with shape := { cr.shape with stash := 65536 } }
theorem test_witness_smap : at? (.smap n3 (wm 0 0 0 0 0)) wide (fun c => let va := c.addr (wm 0 0 0 0 0) c.lowMask
    decide (c.mask ≠ [] ∧ c.cr.windows.length < 8 ∧ 0 < c.c c.lowMask ∧ c.c c.lowMask ≤ 65536 ∧ c.c c.lowMask % 128 = 0 ∧ c.b c.lowMask % 128 = 0 ∧
      va % 128 = 0 ∧ va < 2 ^ 56 ∧ c.b c.lowMask + c.c c.lowMask ≤ c.cr.shape.stash ∧ c.cr.windows = [])) = true := by decide
theorem test_witness_cflush : at? (.cflush (hd no (.v 2) (.v 0) (.v 0) 0) (wm 0 0 0 0 0)) (addrs 0x100481) (fun c =>
    lands? c 0 { acc := .read, align := false } (issued c (addrs 0x100481)) (c.mask.map fun l => ⟨l, c.addr (wm 0 0 0 0 0) l, 1⟩) fun _ _ => true) =
    true := by decide
def waits (i : Instr) (b : Nat) (k : Ctx → List (Want × Rd) → Bool) : Bool := at? i (vs (addrs 0x100400) [(4, 0, b), (4, 5, b)]) fun c =>
  decide (c.w.secs = []) && decide (c.sp.ans = []) &&
  lands? c 0 { acc := .read, watch := true } (issued c (vs (addrs 0x100400) [(4, 0, b), (4, 5, b)])) (c.mask.map fun l => ⟨l, c.addr (wm 0 2 3 0 0) l, 4⟩)
    fun ls t => let r := (c.readAll 0 t ls).1
      calm r && decide (c.lateFaults ls r = []) && k c r
theorem test_witness_waita : waits (.waita n2 (wm 0 2 3 0 0)) 0 (fun c r => c.mask.all fun l => decide (valueOf r l = c.b l)) = true ∧
    waits (.waita n2 (wm 0 2 3 0 0)) 1 (fun c r => c.mask.any fun l => decide (valueOf r l ≠ c.b l)) = true := by decide

/-- BellsCountArrivals: a bell in the stash, fresh, with one arrival to come, and in the phase that is waited for and not. -/
def bell (word b : Nat) : State := inCrew (stashed (vs two [(2, 0, 8), (4, 0, b)])) fun cr => { cr with stash := (bytesLE 8 word).zipIdx.map fun p => (8 + p.2, p.1) }
def bellAt (i : Instr) (word b : Nat) (k : Ctx → Nat → Bool) : Bool := at? i (bell word b) fun c => decide (c.mask ≠ []) &&
  lands? c 1 { acc := .write } (issued c (bell word b)) (lowest c 8) fun ls t => match ls with
    | [(q, l)] => match (c.homeWord t q l).1 with
      | some old => k c old
      | none => false
    | _ => false
theorem test_witness_bells : bellAt (.bellInit n2 0) 0 0xFFFF (fun c _ => decide (c.b c.lowMask % 65536 ≠ 0)) = true ∧
    bellAt (.bellArr n2 0) 0x00010002 1 (fun _ old => decide (bits old 15 0 ≠ 0 ∧ bits old 63 34 = 0)) = true ∧
    bellAt (.bellWait (hd (.v 8) (.v 2) (.v 4) (.v 0) 0) 0) 0x00010002 0 (fun c old => decide (bits old 15 0 ≠ 0 ∧ bits old 63 34 = 0) &&
      decide (bit old 32 = bit (c.b c.lowMask) 0) && decide (c.w.secs = []) && decide (c.sp.ans = [])) = true ∧
    bellAt (.bellWait (hd (.v 8) (.v 2) (.v 4) (.v 0) 0) 0) 0x100000002 0 (fun c old => decide (bit old 32 ≠ bit (c.b c.lowMask) 0)) = true := by decide

/-- FuturesAndFillTasks: pending futures and resolved ones; a crew that is a fill task. -/
def futures (w0 : Nat) : State := (vs (addrs 0x100400) [(4, 0, 0x100500), (4, 5, 0x100540)]).storeAt 0x100400 (bytesLE 8 w0 ++ bytesLE 8 (2 ^ 63))
def futuresAt (i : Instr) (w0 : Nat) (need : Bool) (ws : Ctx → List Want) (k : Ctx → List (Want × Loc) → State → Bool) : Bool := at? i (futures w0) fun c =>
  lands? c 0 { acc := .write } (issued c (futures w0)) (ws c) fun ls t => decide (poisonedWants t ls = []) && released? c need t fun u => k c ls u
theorem test_witness_fset : futuresAt (.fset (hd no (.v 2) (.v 4) (.v 0) 0) 4) (2 ^ 63) true (fun c => c.mask.map fun l => ⟨l, c.a l, 8⟩) (fun c ls u =>
      match c.fsetLoop 3 u ls with
      | .done _ .next [] [] => true
      | _ => false) = true ∧
    futuresAt (.fset (hd no (.v 2) (.v 4) (.v 0) 0) 3) 7 true (fun c => c.mask.map fun l => ⟨l, c.a l, 8⟩) (fun _ _ u => decide (u.natAt 0x100400 8 < 2 ^ 63)) =
      true := by decide
theorem test_witness_fon : futuresAt (.fon n2 0) (2 ^ 63) false (fun c => (c.mask.map fun l => [⟨l, c.a l, 8⟩, ⟨l, c.b l, 32⟩]).flatten) (fun _ ls t =>
      !ls.any fun p => decide (p.1.size = 8) && (match p.2 with
        | .glob _ pa _ => decide (t.natAt pa 8 < 2 ^ 63)
        | _ => false)) = true := by decide
def fillInfo : FillInfo := { home := 5, block := 0x440000000080, size := 128, gen := 5, level := 3, chain := [], done := false, dirty := false }
def filling : State := inCrew two fun cr => { cr with fill := some fillInfo }
theorem test_witness_fill : at? (.fdone n0 0) filling (fun c => decide (c.mask ≠ []) && !c.waiting && decide (c.cr.fill = some fillInfo)) = true ∧
    at? (.fpois n0 0) two (fun c => decide (c.cr.fill = none)) = true ∧ fillInfo.done = false ∧
    at? (.mfsr v1' 15) filling (fun c => decide (c.cr.fill = some fillInfo)) = true ∧ fillInfo.level < 4 := by decide

/-! ### Witnesses: queues, engines and sections -/

/-- A queue of 16 slots of 16 bytes at 0x100400, its state bytes at 0x100480, with `free` slots free, the first index `next`, the head `head`. -/
def queueAt (s : State) (entry free next head : Nat) : State :=
  s.storeAt 0x100400 (bytesLE 8 0x100500 ++ bytesLE 8 0x100480 ++ bytesLE 8 entry ++ bytesLE 4 16 ++ bytesLE 1 4 ++ bytesLE 1 0 ++ bytesLE 2 0 ++
    bytesLE 4 free ++ bytesLE 4 next ++ bytesLE 4 head)
def asked (n m : Nat) : State := vs two [(2, 0, 0x100400), (4, 0, n), (6, 0, m)]
def headerAt? (c : Ctx) (s : State) (k : Nat → State → Bool) : Bool := lands? c 0 { acc := .write } s (lowest c 64) fun ls t =>
  match ls with
  | [(_, .glob va pa leaf)] => !t.poisoned pa && (let u := t.writeReq c.agent leaf va pa 0
      (u.qhdr pa).ok && k pa u)
  | _ => false
def slotsAt? (c : Ctx) (h : QHdr) (first n : Nat) (s : State) (k : State → Bool) : Bool :=
  lands? c 0 { acc := .write } s ((h.slots first n).map fun a => ⟨c.lowMask, a.1, 1⟩) fun ls t => decide (poisonedWants t ls = []) && k t
def queue? (i : Instr) (s : State) (k : Ctx → Nat → State → Bool) : Bool :=
  at? i s fun c => decide (c.mask ≠ []) && headerAt? c (issued c s) (k c)

theorem test_witness_qres : queue? (.qres (hd (.v 8) (.v 2) (.v 4) (.v 0) 0) 0xE0000) (queueAt (asked 16 0) 0 16 0 0) (fun c pa t => decide (c.w.secs = []) && decide (c.b c.lowMask ≤ (t.qhdr pa).free) &&
      decide (t.firstWaiter pa = none) && decide ((c.crewIn t).qres.length < 16) && slotsAt? c (t.qhdr pa) (t.qhdr pa).next 16 t fun _ => true) = true := by
  decide
theorem test_witness_qres_full : queue? (.qres (hd (.v 8) (.v 2) (.v 4) (.v 0) 0) 0x20001) (queueAt (asked 2 0) 0 1 0 0) (fun c pa t => decide ((t.qhdr pa).free < c.b c.lowMask)) = true ∧
    queue? (.qres (hd (.v 8) (.v 2) (.v 4) (.v 0) 0) 0x20001) (queueAt (asked 17 0) 0 1 0 0) (fun c pa t => decide ((t.qhdr pa).cap < c.b c.lowMask)) = true := by decide
theorem test_witness_qcom : at? (.qcom n3 0) (inCrew (queueAt (asked 5 2) 0 8 7 5) fun cr => { cr with qres := [{ hdr := 0x100400, hva := 0x100400, first := 5, count := 2, take := false }] })
    (fun c => decide (c.mask ≠ []) && released? c true (issued c (inCrew (queueAt (asked 5 2) 0 8 7 5) fun cr => { cr with qres := [{ hdr := 0x100400, hva := 0x100400, first := 5, count := 2, take := false }] }))
      fun r => headerAt? c r fun pa t => decide ({ hdr := pa, hva := 0x100400, first := c.b c.lowMask, count := c.c c.lowMask, take := false } ∈ (c.crewIn t).qres) &&
        slotsAt? c (t.qhdr pa) 5 2 t fun _ => true) = true := by decide
theorem test_witness_qtake : queue? (.qtake (hd (.v 8) (.v 2) (.v 4) (.v 0) 0) 0) ((queueAt (asked 4 0) 0 12 4 0).storeAt 0x100480 [3, 2, 2, 1]) (fun c pa t =>
    let h := t.qhdr pa
    let r := c.scan h 3 h.cap h.head [] [] t
    let r' := c.scan h 2 (min 4 h.cap) (h.head + r.2.1.length) [] r.2.2.1 r.2.2.2
    decide (h.entry = 0) && decide ((c.crewIn t).qres = []) && decide (r.1 = none) && decide (r.2.1.length = 1) && decide (r'.1 = none) &&
      decide (r'.2.1.length = 2)) = true := by decide
def spawning (n : Nat) : State :=
  let s := vs two [(2, 0, 0x100040), (4, 0, n)]
  s.setPart 0 { s.part 0 with pool := 0x8000000, poolsz := 0x1000000 }
def spawns (n : Nat) (k : Option State → Bool) : Bool := at? (.spawn n2 0) (spawning n) fun c => decide (c.mask ≠ []) && decide (c.a c.lowMask % 4 = 0) &&
  (match (issued c (spawning n)).job? c.cr.part c.cr.jobKey with
    | some j => k (c.spawnAll j n 0 (issued c (spawning n)))
    | none => false)
theorem test_witness_spawn : spawns 1 (fun o => o.isSome) = true ∧ spawns 28 (fun o => o.isNone) = true := by decide

/-- EngineInstructionsEnterTheirQueues. -/
theorem test_witness_cpy : at? (.cpy (hd no (.v 2) (.v 0) (.v 0) 0) 0x3C) (vs two [(2, 0, 0xFFFFFFC0), (3, 0, 0xFFFFFF)]) (fun c => decide (c.mask ≠ []) &&
      decide (c.a c.lowMask < 2 ^ 56) && decide (c.a c.lowMask % 64 = 0)) = true ∧
    at? (.rast (hd no (.v 2) (.v 0) (.v 0) 0) 1) (addrs 0x100480) (fun c => decide (c.a c.lowMask % 128 = 0) &&
      released? c true (issued c (addrs 0x100480)) fun r => decide ((r.unit (c.core % 8)).batches = [])) = true := by decide
/-- A second crew on the core holds 4096 bytes of the bins. -/
def neighbour (s : State) : State :=
  match s.crew 0 0 with
  | some cr => s.setCrew 0 1 { cr with uid := 9, mat := { bin := 4096 } }
  | none => s
theorem test_witness_tcfg : at? (.tcfg (hd (.none 1) (.v 2) (.v 0) (.v 0) 0) 0x1A) (vs two [(2, 0, 262144)]) (fun c =>
      let u := ((issued c (vs two [(2, 0, 262144)])).core 0).matUsed
      decide (c.a c.lowMask % 4096 = 0) && decide (u.1 - c.cr.mat.accBytes + 32 * 64 * 64 ≤ 131072) && decide (u.2 - c.cr.mat.bin + c.a c.lowMask ≤ 262144)) = true ∧
    at? (.tcfg (hd (.none 1) (.v 2) (.v 0) (.v 0) 0) 0x1A) (neighbour (vs two [(2, 0, 262144)])) (fun c =>
      let u := ((issued c (neighbour (vs two [(2, 0, 262144)]))).core 0).matUsed
      decide (262144 < u.2 - c.cr.mat.bin + c.a c.lowMask) && decide (c.dPred ≠ 7)) = true := by decide
/-- A crew with a configuration of 16 by 16 by 32, FP32 records 0 and 1. -/
def cfg16 : MatCfg := { m := 16, n := 16, k := 32, int := false, sati := false }
def configured (s : State) : State := inCrew s fun cr =>
  { cr with mat := { cfg := some cfg16, bin := 65536, recs := [(0, layoutRec 2 32 0 0), (1, layoutRec 2 32 8192 1)] }, shape := { cr.shape with stash := 4096 } }
theorem test_witness_bres : at? (.bres (hd no (.v 0) (.v 4) (.v 0) 7) 12) (configured (vs two [(4, 0, 16384)])) (fun c => decide (c.mask ≠ []) &&
      decide (c.cr.mat.cfg = some cfg16) && decide (Store.look c.cr.mat.recs 7 = none) && layoutOk c.cr.mat 12 16384 (layoutRec 12 32 16384 0)) = true ∧
    at? (.brel (sub n0 1) 0) (configured two) (fun c => (Store.look c.cr.mat.recs 1).isSome) = true := by decide
theorem test_witness_tload : at? (.tload n2 0) (configured (vs two [(2, 0, 0x100400), (4, 0, 64)])) (fun c => decide (c.mask ≠ []) &&
      (Store.look c.cr.mat.recs 0).isSome && decide (c.a c.lowMask < 2 ^ 56 ∧ c.a c.lowMask % 16 = 0 ∧ c.b c.lowMask % 16 = 0)) = true ∧
    at? (.tload n2 1) (configured (vs two [(2, 0, 2112), (4, 0, 128)])) (fun c =>
      match Store.look c.cr.mat.recs 0 with
      | some r => decide (c.a c.lowMask + (r.rows - 1) * c.b c.lowMask + r.rowLen false = 4096)
      | none => false) = true := by decide
theorem test_witness_mma : at? (.mma (sub (hd no (.v 2) (.v 0) (.v 0) 0) 8) 15) (configured (addrs 0x100400)) (fun c => decide (c.mask ≠ []) &&
      (match Store.look c.cr.mat.recs 0, Store.look c.cr.mat.recs 1 with
        | some ra, some rb => mmaOk cfg16 ra rb
        | _, _ => false) && decide (c.a c.lowMask % 8 = 0) && decide (((issued c (configured (addrs 0x100400))).core 0).layers ≠ [])) = true := by decide
theorem test_witness_drains : at? (.tdrain n3 0) (configured (vs two [(2, 0, 0x100400), (4, 0, 64)])) (fun c => drainOk cfg16 false 0 &&
      decide (c.a c.lowMask % 16 = 0 ∧ c.b c.lowMask % 16 = 0 ∧ c.c c.lowMask % 8 = 0)) = true ∧
    at? (.tdrain (sub n3 1) 0) (configured (vs two [(2, 0, 3072), (4, 0, 64)])) (fun c =>
      decide (drainEnd cfg16 false 0 (c.a c.lowMask) (c.b c.lowMask) = c.cr.shape.stash)) = true ∧
    drainOk { cfg16 with n := 32 } true 0x28 = true ∧ at? (.mstat v1' 0) two (fun c => decide (c.w.mmas = 0) && decide (c.mask ≠ [])) = true := by decide

/-- SectionInstructions: keys 3, 5 and 7 of which 5 is open; sections held; a broken key; tickets taken, all taken, too far and too many. -/
def keyed (y : RackEnt) (s : State) : State := s.setRack (keyHome 5) 2 y
def ent5 : RackEnt := { key := 5, next := 10, stop := 100, ticket := 10, first := 0, part := 0, job := 0 }
def key5 (q : Nat) : State := vs two [(2, 0, 5), (4, 0, q), (6, 0, 8)]
theorem test_witness_sections : at? (.sopen (hd (.v 8) (.v 2) (.v 4) (.v 6) 0) 0x20000) (key5 0) (fun c => decide (c.mask ≠ []) && decide (c.a c.lowMask = 5)) = true ∧
    at? (.senter n2 0) (keyed ent5 (key5 11)) (fun c => decide (c.sp.ans = [] ∧ c.w.secs = []) && !(issued c (keyed ent5 (key5 11))).badSeq (keyHome 5) 2 ent5 c.cr 11 &&
      decide ((issued c (keyed ent5 (key5 11))).rackFind c.cr.part c.cr.jobKey 5 = some (2, ent5))) = true ∧
    at? (.senter n2 0) (keyed ent5 (key5 9)) (fun c => (issued c (keyed ent5 (key5 9))).badSeq (keyHome 5) 2 ent5 c.cr 9) = true ∧
    at? (.senter n2 0) (keyed { ent5 with broken := true } (key5 9)) (fun c => decide (c.w.secs = [])) = true := by decide
def holding (k : Nat) : State := inWarp (key5 10) fun w => { w with secs := [{ key := k, seq := 0, slice := keyHome k, entry := 2 }] }
theorem test_witness_section_order : at? (.senter n2 0) (holding 5) (fun c => c.w.secs.any fun h => decide (c.a c.lowMask ≤ h.key)) = true ∧
    at? (.senter n2 0) (inWarp (holding 4) fun w => { w with splits := w.splits.map fun sp => { sp with ans := [(0, 0)] } }) (fun c => decide (c.sp.ans ≠ [])) = true ∧
    at? (.sleave (hd no (.v 2) (.v 0) (.v 0) 0) 0) (holding 5) (fun c => (c.w.secs.find? fun h => decide (h.key = c.a c.lowMask)).isSome &&
      released? c true (issued c (holding 5)) fun _ => true) = true ∧
    at? (.sleave (hd no (.v 2) (.v 0) (.v 0) 0) 0) (holding 4) (fun c => c.w.secs.all fun h => decide (h.key ≠ c.a c.lowMask)) = true := by decide
theorem test_witness_sskip : at? (.sskip n2 0) (keyed ent5 (key5 73)) (fun c => released? c true (issued c (keyed ent5 (key5 73))) fun r =>
      decide (r.rackFind c.cr.part c.cr.jobKey 5 = some (2, ent5)) && !r.badSeq (keyHome 5) 2 ent5 (c.crewIn r) 73 && decide (ent5.off 73 < 64)) = true ∧
    at? (.sskip n2 0) (keyed ent5 (key5 74)) (fun c => released? c true (issued c (keyed ent5 (key5 74))) fun _ => decide (64 ≤ ent5.off 74)) = true ∧
    at? (.stake (hd (.v 8) (.v 2) (.v 0) (.v 0) 0) 0) (keyed ent5 (key5 0)) (fun c =>
      decide ((issued c (keyed ent5 (key5 0))).rackFind c.cr.part c.cr.jobKey 5 = some (2, ent5))) = true ∧
    at? (.stake (hd (.v 8) (.v 2) (.v 0) (.v 0) 0) 0) (key5 0) (fun c => decide ((issued c (key5 0)).rackFind c.cr.part c.cr.jobKey 5 = none)) = true := by
  decide

/-! ### Witnesses: the moves of the device's agents -/

/-- ArbitrationPicksTheFirstOfTheWindow: a quarter with a warp that can issue, one without, a suspended one. -/
def contends (s : State) (q : Nat) : List Contender :=
  (s.contenders 0 q).filter fun x => (((Store.get (s.core 0).quarters {} q).refill (s.contenders 0 q)).window).any fun y => decide (y = (x.slot, x.warp))
def quartered (f : Quarter → Quarter) (s : State) : State :=
  s.setCore 0 { s.core 0 with quarters := Store.put (s.core 0).quarters 0 (f (Store.get (s.core 0).quarters {} 0)) }
theorem test_witness_arbitration : (contends two 0).length = 1 ∧ contends two 1 = [] ∧ two.mgmt.boot = 5 ∧
    (Store.get (two.core 0).quarters {} 0).suspended = 0 ∧ (Store.get (two.core 0).quarters {} 0).free = 0 ∧
    0 < (Store.get ((quartered (fun q => { q with suspended := 1, window := [(0, 0), (0, 1), (0, 2), (0, 3)] }) two).core 0).quarters {} 0).suspended := by decide

/-- ReturnsRepairsAndStalls: a stop whose results have returned; a branch to resolve; no `mma`; a key whose budget has run out. -/
def stopped : Warp := { splits := [{ lanes := [0, 5], pc := 0x100000#64, st := .stopWait [1] }], seals := [{ kind := .v, num := 4, lane := 0, op := 1 }]
                        pends := [{ id := 1, load := false, pc := 0x100000#64, lanes := [], mask := [0], late := [], regs := [(.v, 4)] }], unres := 1 }
theorem test_witness_returns : stopped.returned [1] [0, 5] = true ∧ stopped.lateOf [1] [0, 5] = none ∧ stopped.unres ≠ 0 ∧ stopped.mmas = 0 ∧
    (two.crew 0 0).isSome = true := by decide
def stalling : RackEnt := { ent5 with waiters := 1, stallcnt := 2 ^ 24 }
theorem test_witness_stalls : (keyed stalling two).rackEnt (keyHome 5) 2 = some stalling ∧ stalling.stalls = true ∧ 2 ^ (16 + stalling.stallB) ≤ stalling.stallcnt := by
  decide

/-- MemorySideMoves: a resident and a missing line; a record that is free, queued and placing; a continuation first at its queue. -/
def line (n : Nat) : LLine :=
  { line := n, dirty := false, keep := false, tag := 0, writer := none, larder := none, pins := [], leave := false }
def homed (s : State) (f : Slice → Slice) (h : Nat) : State := s.setSlice h (f (s.slice h))
def resident : State := homed two (fun t => { t with sets := [(setOf 0x100480, { ways := [(14, line (lineOf 0x100480))] })] }) (homeOf 0x100480)
theorem test_witness_lines : (resident.wayOf 0x100480).isSome = true ∧ (resident.lineAt 0x100480).isSome = true ∧ two.wayOf 0x100480 = none ∧
    (two.victim (homeOf 0x100480) (setOf 0x100480) 0).isSome = true ∧ inHbm 0x100480 = true ∧ (two.core 0).part = some 0 := by decide
def gen0 : GenDesc := { bytes := List.replicate 64 0, root := 0x200000 }
def rec0 (st : FillSt) : FillRec := { level := 0, block := 0x440000000080, size := 128, gen := 5, desc := gen0, part := 0, cls := 2, chain := [], order := 0, st }
def genTwo (f : Slice → Slice) : State := (homed two f 7).setPart 0 { two.part 0 with gens := [(5, gen0)], ways := 0xC000 }
theorem test_witness_fills : (((genTwo fun t => { t with fwaits := [{ level := 0, block := 0x440000000080, size := 128, gen := 5, desc := gen0, part := 0, cls := 2, chain := [] }] }).slice 7).fwaits.find?
      fun w => decide (w.level = 0)).isSome = true ∧ (two.part 0).geninv = false ∧
    ((genTwo fun t => { t with fills := [rec0 .queued] }).fillCore 7 0 0).isSome = true ∧
    ((genTwo fun t => { t with fills := [rec0 .queued] }).slice 7).fills = [rec0 .queued] := by decide
theorem test_witness_placing : let s := genTwo fun t => { t with fills := [rec0 (.placing (some (List.replicate 128 7)))] }
    ((s.slice 7).fills.find? fun r => decide (r.level = 0 ∧ r.block = 0x440000000080)) = some (rec0 (.placing (some (List.replicate 128 7)))) ∧
    s.wayOf 0x440000000080 = none ∧ (s.victim (homeOf 0x440000000080) (setOf 0x440000000080) 0).isSome = true := by decide
def cont0 : Cont := { id := 4, part := 0, job := 0, asn := 1, root := 0x200000, fut := none, node := 0x100600, hdr := some 0x100400, order := 9, page := none }
/-- The tables of the page at 0x100000. -/
def paged (s : State) : State :=
  (((s.storeAt 0x200000 (bytesLE 8 0x202001)).storeAt 0x202000 (bytesLE 8 0x204001)).storeAt 0x204000 (bytesLE 8 0x206001)).storeAt 0x206080
    (bytesLE 8 0x1001B7)
def committing : State := paged { queueAt two 0 16 0 0 with conts := [cont0] }
set_option maxRecDepth 4096 in
theorem test_witness_continuation : let h := committing.qhdr 0x100400
    h.free ≠ 0 ∧ committing.firstWaiter 0x100400 = some (9, none) ∧ h.ok = true ∧
    (match (committing.devAll cont0.agent [(h.recordVa h.next, 2 ^ h.rsz), (h.stateVa h.next, 1)] []).1 with
      | .inr l => decide (l = [0x100500, 0x100480])
      | .inl _ => false) = true := by decide

/-- CopiesArePerformedAndComplete: copies at the head of a queue, with a good and a bad descriptor, performed and lost. -/
def copyOp (st : OpSt) : CopyOp := { uid := 0, seq := 0, addr := 0x100400, mode := 0, bell := false, desc := none, done := 0, quant := none, st, served := [] }
def copyBytes (dst count aux : Nat) : List Byte :=
  bytesLE 8 0x100800 ++ bytesLE 8 dst ++ bytesLE 8 aux ++ bytesLE 8 0 ++ bytesLE 4 count ++ List.replicate 28 0
def copying (op : CopyOp) (l : List Byte) : State :=
  let s := two.storeAt 0x100400 l
  s.setCore 0 { s.core 0 with copyQ := [(1, [op])] }
def loaded (r : (Halt ⊕ List Byte) × State) (k : List Byte → State → Bool) : Bool :=
  match r.1 with
  | .inr l => k l r.2
  | _ => false
def spotted (r : (Halt ⊕ Spot) × State) (a : Nat) : Bool :=
  match r.1 with
  | .inr (.glob va pa _) => decide (va = a) && decide (pa = a)
  | _ => false
def crew0 (s : State) (k : Crew → Bool) : Bool :=
  match s.crew 0 0 with
  | some cr => k cr
  | none => false
/-- The copy at the head reads its descriptor, of which and of whose run `k` holds. -/
def runs (s : State) (k : CopyDesc → Option Halt → Nat → Bool) : Bool := crew0 s fun cr =>
  decide (s.mgmt.boot = 5) && decide (s.crewOf 0 = some cr) && (s.core 0).canBegin 1 0 &&
    loaded (s.engLoad (cr.acting 0 0) [] false 0x100400 64) fun l u =>
      let d := copyDesc l
      let run := ({ u with freeCtr := u.freeCtr + 1 }).copyRun (cr.acting 0 0) d 0 [] (u.sources (cr.acting 0 0) d 0) u.freeCtr d.count 0 none
      k d run.1 run.2.1
set_option maxRecDepth 16384 in
theorem test_witness_copies : runs (copying (copyOp .queued) (copyBytes 0x100900 4 0)) (fun d h j => d.ok 0 && decide (h = none) && decide (j = 4)) = true ∧
    runs (copying (copyOp .queued) (copyBytes 0x10FFFE 4 0)) (fun d h _ => d.ok 0 && decide (h ≠ none)) = true ∧
    runs (copying (copyOp .queued) (copyBytes (2 ^ 56) 4 0)) (fun d h j => d.ok 0 && decide (h = some (.fault 0x1E)) && decide (j = 0)) = true ∧
    runs (copying (copyOp .queued) (copyBytes 0x100900 4 1)) (fun d _ _ => !d.ok 0) = true := by decide
theorem test_witness_copy_ends : let s := copying (copyOp (.performed 0 false)) []
    Store.get (s.core 0).copyQ [] 1 = [copyOp (.performed 0 false)] ∧ (crew0 s fun cr => match s.engFuture (cr.acting 0 0) (copyDesc []).fut 0 with
      | (.done, _) => true
      | _ => false) = true := by decide
def gather : CopyDesc := copyDesc (bytesLE 8 0x100800 ++ bytesLE 8 0x100900 ++ bytesLE 8 0x100A00 ++ bytesLE 8 0 ++ bytesLE 4 4 ++
  [0, 0, 0x40, 0] ++ List.replicate 8 0 ++ List.replicate 16 7)
theorem test_witness_copy_units : crew0 two (fun cr => let ag := cr.acting 0 0
    loaded (two.engLoad ag [] gather.sst (gather.saddr + 3) 1) (fun bs u => decide (bs.length = 1) && spotted (u.engSpot ag gather.dst (gather.daddr + 3) 1 .write) 0x100903) &&
      spotted (two.engSpot ag gather.dst (gather.daddr + 3) 1 .write) 0x100903 && decide (gather.esz = 2) &&
      loaded (two.engLoad ag [] false (gather.aux + 12) 4) fun ib u' =>
        loaded (u'.engLoad ag [] gather.sst (gather.saddr + natOf ib * 4) 4) fun bs u =>
          decide (bs.length = 4) && spotted (u.engSpot ag gather.dst (gather.daddr + 12) 4 .write) 0x10090C) = true := by decide

/-- MatrixOperationsArePerformed: a `tload` with one row left, from a mapped page and from outside the address space; a barrier in both queues; an `mma` whose
areas loaded well and badly; a drain with one element left. -/
def area0 : BinRec := layoutRec 2 32 0 0
def areaB : BinRec := layoutRec 2 32 8192 1
def hod0 (base : Nat) : HodOp :=
  { uid := 0, seq := 0, barrier := false, num := 0, area := area0, scales := false, fromSrc := 0, base, stride := 64, row := 15, st := .queued, served := [] }
def engines (f : Core → Core) : State := let s := configured (addrs 0x100400); s.setCore 0 (f (s.core 0))
def rows (base : Nat) (k : Option Halt → Nat → Bool) : Bool := let s := engines fun c => { c with hodQ := [hod0 base] }
  crew0 s fun cr => decide (s.crewOf 0 = some cr) && (s.core 0).canBegin 5 0 && (s.core 0).matClear 0 0 (area0.area false) &&
    (let r := s.hodRows (cr.acting 0 0) (hod0 base) 1 15 []
     k r.1 r.2.1)
theorem test_witness_tload_runs : rows 0x100400 (fun h i => decide (h = none) && decide (i = 16)) = true ∧
    rows (2 ^ 56) (fun h i => decide (h = some (.fault 0x1E)) && decide (i = 15)) = true := by decide
def mat0 (kind : MatKind) (done : Nat) (st : OpSt) : MatOp := { uid := 0, warp := 0, seq := 0, cfg := cfg16, kind, done, quant := none, st }
def mats (op : MatOp) : State := engines fun c => { c with matQ := [op] }
def atHead (s : State) (k : MatOp → Crew → Bool) : Bool :=
  match s.matHead 0 with
  | some (op, cr) => k op cr
  | none => false
def mma0 : MatKind := .mma 0 1 area0 areaB 0 false 0
theorem test_witness_barrier : let s := engines fun c => { c with matQ := [mat0 .barrier 0 .queued], hodQ := [{ hod0 0 with barrier := true }] }
    atHead s (fun op _ => decide (op.kind = .barrier)) = true ∧ (s.core 0).canBegin 5 0 = true := by decide
theorem test_witness_mma_runs : atHead (mats (mat0 mma0 0 .queued)) (fun op cr => decide (op.kind = mma0) && decide (cr.mat.failure 0 1 area0 areaB = none)) = true ∧
    ((mats (mat0 mma0 0 .queued)).core 0).layers = [0, 1, 2, 3] ∧
    atHead (inCrew (mats (mat0 mma0 0 .queued)) fun cr => { cr with mat := { cr.mat with fails := [(failKey areaB false, { code := 7, row := 3 })] } })
      (fun _ cr => decide (cr.mat.failure 0 1 area0 areaB = some (1, { code := 7, row := 3 }))) = true ∧
    atHead (mats (mat0 mma0 0 (.performed 0 false))) (fun op cr => ((mats (mat0 mma0 0 (.performed 0 false))).matFuture 0 op cr 0 0 false).1) = true := by decide
def drain0 (base done : Nat) : MatOp := mat0 (.tdrain 0 0 .ne false false false base 64 0) done .queued
set_option maxRecDepth 8192 in
theorem test_witness_drain_runs : atHead (mats (drain0 0x100400 255)) (fun op cr =>
      let r := (mats (drain0 0x100400 255)).putPieces (cr.acting 0 0) false ((cr.mat.drainPieces op.cfg 0 0 .ne false 0x100400 64).drop 255) 255
      decide (r.1 = none) && ((r.2.2.setMatOp 0 { op with done := r.2.1, st := .performed 0 false }).matHead 0).any fun p =>
        decide (p.1 = { op with done := 256, st := .performed 0 false, begun := true })) = true := by decide
set_option maxRecDepth 8192 in
theorem test_witness_drain_waits : atHead (mats (drain0 0x200400 255)) (fun op cr =>
      match ((mats (drain0 0x200400 255)).putPieces (cr.acting 0 0) false ((cr.mat.drainPieces op.cfg 0 0 .ne false 0x200400 64).drop 255) 255).1 with
      | some (.wait (.page _), p) => decide (p.index = 255)
      | _ => false) = true ∧
    atHead (mats (mat0 (.tquant 0 5 false 0x100400 64 0) 0 (.performed 0 false))) (fun op cr =>
      ((mats (mat0 (.tquant 0 5 false 0x100400 64 0) 0 (.performed 0 false))).matFuture 0 op cr 0 0 false).1) = true ∧
    atHead (mats (mat0 (.tdrain 0 0 .ne false false true 0x100400 64 0) 0 (.performed 0 false))) (fun op cr =>
      ((mats (mat0 (.tdrain 0 0 .ne false false true 0x100400 64 0) 0 (.performed 0 false))).matFuture 0 op cr 0 0 false).1) = true ∧
    atHead (mats (mat0 (.tzero 7) 0 .queued)) (fun op _ => decide (op.kind = .tzero 7)) = true := by decide
theorem test_witness_piece : crew0 two (fun cr => spotted (two.engSpot (cr.agent 0) false 0x100402 2 .write) 0x100402) = true ∧
    -2 ^ 31 ≤ (2 ^ 31 - 1 : Int) := by decide

/-- RasterBatchesAreDrawn: a batch of one primitive whose corners are one vertex, with a vertex out of the address space, and with no primitive; a
tile whose key is to be opened; a performed batch. -/
def rastBytes (vaddr nprim entry : Nat) : List Byte :=
  bytesLE 8 vaddr ++ bytesLE 8 0x100900 ++ bytesLE 8 0 ++ bytesLE 8 0 ++ bytesLE 8 entry ++ bytesLE 8 0 ++ bytesLE 4 nprim ++ bytesLE 4 9 ++
    bytesLE 4 1 ++ bytesLE 2 8 ++ bytesLE 2 8 ++ bytesLE 4 64 ++ bytesLE 2 5 ++ [0, 0] ++ bytesLE 2 4 ++ [8, 0] ++ List.replicate 52 0
def batch0 (ord : Bool) (st : OpSt) (desc : Option (List Byte)) (work : Option (List TileWork)) : Batch :=
  { uid := 0, core := 0, part := 0, job := 0, addr := 0x100400, ord, desc, prim := 0, drop := 0, work, tiles := [], live := 0, st, err := none, served := [] }
def drawing (b : Batch) (l : List Byte) : State := (two.storeAt 0x100400 l).setUnit 3 { (two.unit 3) with batches := [b] }
def draws (l : List Byte) (k : RastDesc → Option Halt → Nat → Nat → Bool) : Bool :=
  let s := drawing (batch0 false .queued none none) l
  match s.batchAgent 3 (batch0 false .queued none none) with
  | some ag => loaded ({ s with ledger := s.ledger.acquire (.unit 3) {} }.engLoad ag [] false 0x100400 128) fun l u =>
      let d := rastDesc l
      let r := u.rastRun ag [] d d.nprim 0 0
      k d r.1 r.2.1 r.2.2.1
  | none => false
set_option maxRecDepth 8192 in
theorem test_witness_batches : draws (rastBytes 0x100A00 1 0) (fun d h p n => d.ok false && decide (h = none) && decide (p = 1) && decide (n = 1)) = true ∧
    draws (rastBytes (2 ^ 56) 1 0) (fun d h p _ => d.ok false && decide (h = some (.fault 0x1E)) && decide (p = 0)) = true ∧
    draws (rastBytes 0x100A00 0 0) (fun d _ _ _ => !d.ok false) = true := by decide
def tile0 : TileWork := { tx := 0, ty := 0, px := [(0, 5)] }
set_option maxRecDepth 8192 in
theorem test_witness_tiles : let l := rastBytes 0x100A00 1 0x100000
    let b := batch0 true .queued (some l) (some [tile0])
    let d := rastDesc l
    let s := drawing b []
    (s.unit 3).batches = [b] ∧ (s.batchAgent 3 b).isSome = true ∧ b.tile 0 0 = none ∧ s.rackFind 0 0 (tileKey d 0 0) = none ∧
      (s.openKey 0 0 (tileKey d 0 0) (d.id 0) d.stop true).1.isSome = true := by decide
theorem test_witness_batch_ends : let b := batch0 false (.performed 0 false) none none
    let s := drawing b []
    (match s.batchAgent 3 b with
      | some ag => match s.engFuture ag (rastDesc []).fut 0 with
        | (.done, _) => true
        | _ => false
      | none => false) = true ∧ crew0 s (fun cr => spotted (s.engSpot (cr.agent 0) false 0x100408 8 .write) 0x100408) = true ∧
    ((0 : Int) ≠ 1 ∨ (0 : Int) ≠ 0) := by decide

/-! ### Witnesses: crews, jobs and commands -/

/-- A pool for partition 0, and core 0 changed. -/
def pooled (f : Core → Core) : State :=
  let s := two.setPart 0 { two.part 0 with pool := 0x8000000, poolsz := 0x1000000 }
  s.setCore 0 (f (s.core 0))
def another (cls stash : Nat) : List Crew :=
  match two.crew 0 0 with
  | some cr => [{ cr with uid := 9, cls, shape := { cr.shape with stash } }]
  | none => []
/-- The first candidate of core 0 and what it needs are so that `k` holds. -/
def candidate (s : State) (k : State → Core → Cand → Need → Bool) : Bool :=
  let u := s.discardDoomed 0
  let c := u.live 0
  match c.firstCand with
  | some x => decide (c.part = some 0) && decide (c.moving = none) && !u.corPending 0 && (match u.candNeed 0 x with
    | some n => k u c x n
    | none => false)
  | none => false
def bind0 : Bind := { cls := 2, cor := false, job := 0, stride := 4, lseq := 0, next := 0, last := 8, descpa := 0 }
theorem test_witness_dispatch : candidate (pooled fun c => { c with binds := [bind0] }) (fun u c x n => decide (x = .bind bind0) && (c.fits n).isSome &&
      u.poolHas 0 n.pool && (u.job? 0 0).isSome) = true ∧
    candidate (pooled fun c => { c with created := another 1 0 }) (fun u c x n => (another 1 0).any (fun cr => decide (x = .created cr)) && (c.fits n).isSome &&
      u.poolHas 0 n.pool) = true ∧
    candidate (pooled fun c => { c with saved := another 1 0 }) (fun u c x n => (another 1 0).any (fun cr => decide (x = .saved cr)) && (c.fits n).isSome &&
      u.poolHas 0 n.pool) = true := by decide
def crowded (parked : Bool) : State := pooled fun c => { c with
  clk := 4096, created := another 0 196608
  crews := Store.mapV c.crews fun _ cr => { cr.mapWarps (fun w => if parked then w.mapSplits fun sp => { sp with st := .parked (.page []) } else w) with
    shape := { cr.shape with stash := 256 }, parked := if parked then some 0 else none } }
theorem test_witness_victims : candidate (crowded false) (fun u c x n => decide (c.fits n = none) && decide (c.withoutSaving.fits n = none) &&
      c.crews.any fun e => u.mayGo e.1 e.2 && decide (x.cls < e.2.cls)) = true ∧
    candidate (crowded true) (fun u c _ n => decide (c.withoutSaving.fits n = none) &&
      c.crews.any fun e => u.mayGo e.1 e.2 && c.longParked e.2 && c.waitsFor e.2.cls) = true := by decide
def savedArea (n : Nat) : Save := { v := [], m := [], x := [], fpf := 0, lanes := [0, 5], splits := [], meets := [], issued := n }
def goes (f : Warp → Warp) : State := pooled fun c => { c with crews := Store.mapV c.crews fun _ cr => { cr.mapWarps f with saving := true } }
def leaves (s : State) (k : Crew → Bool) : Bool := crew0 s fun cr => cr.saving && !(s.core 0).busyWith cr && !(cr.warps.all fun w => w.2.retired) &&
  (let r := s.lastWriteBack 0 cr
   r.1 && crew0 r.2 fun x => (r.2.takeSave x).isSome) && k cr
theorem test_witness_saves : leaves (goes id) (fun cr => !cr.inHandler) = true ∧
    leaves (goes fun w => { w with save := some (savedArea 4096) }) (fun cr => cr.inHandler && cr.handlersDone) = true := by decide
theorem test_witness_retires : let s := pooled fun c => { c with crews := Store.mapV c.crews fun _ cr => cr.mapWarps fun w => { w with retired := true } }
    crew0 s (fun cr => (cr.warps.all fun w => w.2.retired) && decide (cr.engines = 0) && s.ticketsReady cr && decide (cr.fill = none) && (s.lastWriteBack 0 cr).1) =
      true ∧ ((pooled fun c => { c with moving := some 8 }).core 0).moving = some 8 ∧ ((pooled fun c => { c with crews := [], moving := some 3 }).core 0).crews = [] ∧
    ((pooled fun c => { c with moving := some 8 }).core 0).crews ≠ [] := by decide

/-- JobsBindEndAndReport: a launch of five crews, a `COR` launch, jobs that end well, by a fault and terminated, records with and without a ring. -/
def launch0 (cor : Bool) : Launch :=
  { desc := { bootDesc with shape := { bootDesc.shape with cor }, dimx := 5 }, cseq := 3, asn := 1, root := 0x200000 }
def launching (cor : Bool) : State := let s := pooled id
  s.setPart 0 { s.part 0 with pending := some (launch0 cor) }
theorem test_witness_binds : let s := launching false
    (s.part 0).pending = some (launch0 false) ∧ s.freeHandle 0 = some 1 ∧ (s.bindCores 0).length = 4 ∧
      ((s.shares 0 (s.part 0).launches (launch0 false).desc).all fun e => decide ((s.core e.1).binds.length < 16)) = true ∧
      s.shares 0 (s.part 0).launches (launch0 false).desc = [(0, 0, 4), (24, 1, 1), (48, 2, 2), (72, 3, 3)] := by decide
theorem test_witness_cor : let s := launching true
    ((s.accept 0 1 (launch0 true)).startAll 0 1 4 ((launch0 true).job 0 s.ledger.count) (s.shares 0 0 (launch0 true).desc)).isSome = true ∧ (s.part 0).launches = 0 := by decide
def ended (fault : Option JobFault) (term : Option Nat) : State :=
  let s := two.setCore 0 { two.core 0 with crews := [] }
  let f (x : Job) : Job := { x with crews := 0, fault, term }
  s.setPart 0 { s.part 0 with jobs := Store.mapV (s.part 0).jobs fun _ x => f x }
def isOver (s : State) : Bool :=
  match s.job? 0 0 with
  | some x => !s.jobBusy 0 0 x && decide (x.desc.done = 0) && ((s.discardHeld 0).doneLook 0 x).1.isSome
  | none => false
theorem test_witness_job_ends : isOver (ended none none) = true ∧ isOver (ended (some { code := 6, info1 := 2, info2 := 0x606 }) none) = true ∧
    isOver (ended none (some 0x1A)) = true := by decide
def record0 : Record := { cseq := 3, kind := 0, code := 0, flags := 0, tag := 7, info1 := 0, info2 := 0, info3 := 0 }
def ring0 : CmdQueue := { hdr := 0x300000, cqbase := 0x310000, rqbase := 0x320000, cqsize := 16, rqsize := 16 }
def reporting (q : Option CmdQueue) : State := two.setPart 0 { two.part 0 with records := [record0], queue := q }
theorem test_witness_records : ((reporting none).part 0).records = [record0] ∧ record0.done = none ∧ (reporting (some ring0)).ringRoom ring0 = true := by decide

/-- CommandsTakeTheirEffect: a command of each opcode with good operands, those of a system command from partition 1, and what is refused. -/
def cmd (opc flags : Nat) (fields : List (Nat × Nat × Nat)) : Cmd :=
  { index := 0, bytes := fields.foldl (fun l f => l.take f.1 ++ bytesLE f.2.1 f.2.2 ++ l.drop (f.1 + f.2.1))
      (bytesLE 1 opc ++ bytesLE 1 flags ++ [0, 0] ++ bytesLE 4 77 ++ List.replicate 56 0) }
/-- The command is given to a partition, and `k` holds of it and of the state in which it has been read. -/
def given? (s : State) (p opc : Nat) (c : Cmd) (k : State → Bool) : Bool :=
  let s := s.setPart p { s.part p with cmd := some c }
  match s.takeCmd p with
  | some (d, t) => decide (s.mgmt.boot = 5) && (t.part p).records.isEmpty && decide (d = c) && decide (c.opc = opc) && (match payload opc with
      | some l => c.clean l
      | none => false) && (bit (c.field 1 1) 0 == false || (t.part p).jobs.isEmpty || c.begun) && k t
  | none => false
def pay? (c : Cmd) (o n : Nat) : Bool := payRange (c.field o 8) n
def launchCmd : Cmd := cmd 1 0 [(8, 8, 0x100400), (0x10, 8, 0x200000), (0x18, 2, 1)]
/-- A descriptor of one crew of one warp of width 32 at 0x100400. -/
def launchable : State := paged (two.storeAt 0x100400 (bytesLE 8 0x100000 ++ bytesLE 8 0 ++ bytesLE 8 0 ++ bytesLE 4 1 ++ bytesLE 4 1 ++ bytesLE 4 1 ++
  bytesLE 4 0 ++ bytesLE 2 8 ++ [8, 1, 0, 2] ++ bytesLE 2 0 ++ List.replicate 80 0))
set_option maxRecDepth 16384 in
theorem test_witness_launch : given? launchable 0 1 launchCmd (fun t => match t.readDesc 0 1 0x200000 0x100400 with
    | (some l, u) => decide (descCode (jobDesc l).1 (jobDesc l).2 = none) && decide (u.roomCode 0 (jobDesc l).1 = none)
    | _ => false) = true := by decide
set_option exponentiation.threshold 512 in
theorem test_witness_config : given? two 0 2 (cmd 2 0 [(8, 1, 1), (9, 1, 2), (0xC, 2, 0x3F), (0x10, 8, 2), (0x28, 8, 0x8000000), (0x30, 8, 0x10000)]) (fun t =>
    let g := (cmd 2 0 [(8, 1, 1), (9, 1, 2), (0xC, 2, 0x3F), (0x10, 8, 2), (0x28, 8, 0x8000000), (0x30, 8, 0x10000)]).cfg
    !t.cfgBad g && !t.cfgBusy g && !t.cfgUnread g && !t.cfgNoQueue g) = true := by decide
set_option exponentiation.threshold 512 in
theorem test_witness_commands : given? two 0 3 (cmd 3 0 [(8, 2, 1)]) (fun _ => true) = true ∧ given? two 0 4 (cmd 4 0 [(8, 2, 1), (0xB, 1, 1)]) (fun _ => true) = true ∧
    (let c := cmd 5 0 [(8, 2, 5), (0x10, 8, 0x100400), (0x18, 8, 0x200000)]
     given? two 0 5 c (fun t => pay? c 0x10 64 && !t.anyPoison 0x100400 64) = true) ∧
    given? two 0 6 (cmd 6 0 []) (fun t => !t.filling 0) = true ∧ given? (genTwo fun t => { t with fills := [rec0 .queued] }) 0 6 (cmd 6 0 []) (fun t => t.filling 0) = true ∧
    given? two 0 6 (cmd 6 1 []) (fun _ => true) = false ∧ (two.part 0).jobs ≠ [] ∧ (cmd 6 1 []).clean [] = true ∧
    given? two 1 0xB (cmd 0xB 0 []) (fun _ => true) = true := by decide
theorem test_witness_bias : let c := cmd 7 0 [(8, 1, 1), (0x10, 8, 0x10000), (0x18, 4, 2)]
    given? two 0 7 c (fun t => decide (t.flipping = none) && inHbm (0x10000 + 65536 * 2 - 1)) = true ∧
    given? { two with flipping := some 1 } 0 7 c (fun t => decide (t.flipping = some 1)) = true ∧
    given? { two with flipping := some 2 } 0 7 c (fun t => decide (t.flipping = some 2)) = true := by decide
theorem test_witness_reads : (let c := cmd 8 0 [(9, 1, 24), (0xA, 1, 0xFF), (0xB, 1, 64), (0x10, 8, 0x100400)]
     given? two 0 8 c (fun _ => pay? c 0x10 256) = true) ∧
    (let c := cmd 9 0 [(8, 2, 95), (0xA, 2, 511), (0xC, 2, 1), (0x10, 8, 0x100400)]
     given? two 0 9 c (fun _ => pay? c 0x10 64) = true) ∧
    (let c := cmd 0xA 0 [(8, 1, 0), (0x10, 8, 0x100400), (0x18, 8, 4)]
     given? (two.setPart 0 { two.part 0 with retired := [0x30000, 0x10000] }) 0 0xA c (fun t => pay? c 0x10 16 && decide ((t.part 0).retired.length = 2)) = true) ∧
    given? two 0 0xB (cmd 0xB 0 [(0x10, 8, 0x100000)]) (fun _ => true) = true ∧
    (let c := cmd 0xC 0 [(8, 8, 99), (0x10, 8, 0x100400)]
     given? two 0 0xC c (fun t => pay? c 0x10 64 && decide (t.coresOf 0 = [0, 24, 48, 72])) = true) ∧
    given? two 0 0xD (cmd 0xD 0 [(8, 1, 95)]) (fun _ => true) = true ∧ given? two 0 0xE (cmd 0xE 0 [(8, 2, 120)]) (fun _ => true) = true ∧
    (let c := cmd 0xF 0 [(8, 8, 0x100400), (0x10, 8, 0x100800)]
     given? two 0 0xF c (fun t => pay? c 8 32 && pay? c 0x10 1536 && !t.anyPoison 0x100400 32) = true) := by decide
set_option maxRecDepth 16384 in
set_option exponentiation.threshold 512 in
theorem test_witness_refusals : payload 0x10 = none ∧ (cmd 1 0 [(0x1A, 1, 1)]).clean ((payload 1).getD []) = false ∧
    (let s := two.setPart 1 { two.part 1 with cmd := some (cmd 0x10 0 []) }
     s.takeCmd 1 = some (cmd 0x10 0 [], s)) := by decide

/-! ### Witnesses: the host, the board, errors and heat -/

/-- A ring of 16 commands whose header is good, at 0x300000. -/
def headed : State := (two.storeAt 0x300000 (bytesLE 8 0x310000 ++ bytesLE 8 0x320000 ++ bytesLE 4 16 ++ bytesLE 4 16)).setPart 0
  { two.part 0 with queue := some ring0 }
theorem test_witness_doorbell : (headed.part 0).queue = some ring0 ∧ seqSub 16 (headed.cqHead ring0) = ring0.cqsize ∧
    ring0.cqsize < seqSub 17 (headed.cqHead ring0) ∧ headed.readHeader 0x300000 = some ring0 ∧ headed.mgmt.q0used = false ∧ headed.mgmt.boot = 5 ∧
    State.reset.mgmt.boot ≠ 5 := by decide
def booting (n : Nat) (hwsel : BitVec 64) : State := { two with mgmt := { two.mgmt with boot := n, hwsel } }
theorem test_witness_board : (booting 2 15).mgmt.boot = 2 ∧ bits (booting 2 15).mgmt.hwsel.toNat 63 62 = 0 ∧ bits (booting 2 15).mgmt.hwsel.toNat 15 0 < 16 ∧
    bits (2 ^ 62) 61 16 = 0 ∧ bits (2 ^ 62) 63 62 = 1 ∧
    bits (2 ^ 63) 63 62 = 2 ∧ bits (2 ^ 63 + 2 ^ 62) 63 62 = 3 ∧ bits 15 63 62 = 0 := by decide
theorem test_witness_helper : 0 + (List.replicate 256 (0 : Byte)).length ≤ 256 ∧ (booting 2 15).mgmt.helper.length = 4096 :=
  ⟨by rw [List.length_replicate], List.length_replicate⟩
theorem test_witness_march : coreDead [(0, 0, 3, 1), (0, 0, 3, 2), (0, 0, 3, 3), (0, 0, 3, 4), (0, 0, 3, 5)] 0 = true ∧
    coreDead [(0, 0, 3, 1)] 0 = false ∧ coreDead [(0, 0, 3, 1)] 24 = false := by decide
theorem test_witness_host : hbmRange 0x4FFFFFFF80 128 = inHbm 0x4FFFFFFF80 ∧ hbmRange 0x100 4 = true ∧ two.flipping = none ∧ hbmRange 0x80 128 = true := by decide
theorem test_witness_errors : inHbm 0x100480 = true ∧ (resident.llcLine (homeOf 0x100480) (setOf 0x100480) 14).isSome = true ∧
    Store.get (Slice.corr { (two.slice 3) with corr := [(2, 15)] }) 0 2 + 1 = 16 ∧
    crew0 two (fun cr => decide (cr.fill = none) && (two.job? cr.part cr.job).isSome) = true ∧ two.mgmt.boot = 5 := by decide

/-! ### Witnesses: what stays unchanged -/

theorem test_witness_memory_kept : (two.ctx? (.add (hd (.v 8) (.v 2) (.v 4) (.v 0) 0) (wc .s32 0))).isSome = true ∧ stores (.add (hd (.v 8) (.v 2) (.v 4) (.v 0) 0) (wc .s32 0)) = false ∧
    stores (.ld (hd (.v 8) (.v 2) (.v 0) (.v 0) 0) (wm 0 2 3 1 4)) = false ∧ loads (.ld (hd (.v 8) (.v 2) (.v 0) (.v 0) 0) (wm 0 2 3 1 4)) = true := by decide
theorem parts_plain {s : State} (h : ∀ e ∈ s.parts, e.2.lnl = 0) (p : Nat) : (s.part p).lnl = 0 := by
  unfold State.part Store.get
  cases e : Store.look s.parts p with
  | none => rfl
  | some x => exact h _ (Store.look_mem e)
theorem test_witness_none_generated : NoneGenerated two := ⟨by decide, parts_plain (by decide)⟩
theorem test_witness_registers_kept : crew0 two (fun cr => let w := cr.warp 0
    !w.retired && !w.save.isSome) = true ∧ warpOf (exec (.add (hd (.v 8) (.v 2) (.v 4) (.v 0) 0) (wc .s32 0)) two) ≠ {} ∧ (warpOf (exec (.add (hd (.v 8) (.v 2) (.v 4) (.v 0) 0) (wc .s32 0)) two)).retired = false := by decide
theorem test_witness_canonical : Memory.wf two.mem ∧ step two = .next (stateOf (step two)) := ⟨by decide, rfl⟩

/-! ### Witnesses: fetches, translations and issues that stop -/

/-- `s` with the split of lanes 0 and 5 changed. -/
def inSplit (s : State) (f : Split → Split) : State := inWarp s fun w => { w with splits := w.splits.map f }
/-- The split goes on with `i` after a wait. -/
def mid (i : Instr) (s : State) : State := inSplit s fun sp => { sp with again := some { instr := i, s := [(4, 7)], b := [(4, { val := 9 })], op := 0 } }
/-- How a fetch at `pc` ends: with bytes, with a fault, or in a wait. -/
def fetchEnds (s : State) (pc : Nat) : Nat :=
  match s.fetchBytes (agent0 s) [] 0 pc with
  | .bytes _ _ => 0
  | .fault _ _ _ => 1
  | .park _ _ => 2
/-- PickedSplitRunsItsInstruction: a split in the middle of an instruction, and the ends of a fetch. -/
theorem test_witness_step_goes_on : crewAs (mid (.nop n0 (wc .b32 0)) two) (fun cr => ((cr.warp 0).splitOf 0).any fun sp =>
      decide (sp.st = .run) && sp.again.isSome) = true ∧ fetchEnds two 0x100000 = 0 ∧ fetchEnds (withData two) 0x110000 = 1 ∧ fetchEnds two 0x300000 = 2 := by
  decide

/-- A page at 0x120000 of HBM in host bias. -/
def withHost (s : State) : State :=
  s.setCore 0 { s.core 0 with tlb := { part := 0, asn := 1, root := 0x200000, vpage := 0x12, large := false, leaf := 0x1201F7#64, leafPa := 0x200008 } ::
    (s.core 0).tlb }
def walked (s : State) (k : Walk → Bool) : Bool := k (s.walk 0 0x200000 0x100000).1
/-- FetchChecksInOrder: a page whose bias is changing; a walk that ends at a leaf, at an entry that is absent, malformed and poisoned, of the first
table and of the last; a translation by the walk. -/
theorem test_witness_flip : (match (withHost two).translate (agent0 two) 0x120000 .fetch with
    | (.ok pa leaf, s') => leaf.getLsbD 6 && decide ({ s' with flipping := some 0x12 }.flipping = some (pa / 65536))
    | _ => false) = true := by decide
set_option maxRecDepth 4096 in
theorem test_witness_walk : walked (paged two) (fun w => decide (w = .leaf 0x1001B7 0x206080 false)) = true ∧ walked two (fun w => decide (w = .absent false)) = true ∧
    walked (two.storeAt 0x200000 (bytesLE 8 0x202003)) (fun w => decide (w = .fault 7)) = true ∧
    walked { two with poison := [lineOf 0x200000] } (fun w => decide (w = .fault 9)) = true ∧
    walked ((paged two).storeAt 0x206080 [0]) (fun w => decide (w = .absent false)) = true ∧
    walked ((paged two).storeAt 0x206081 [0x04]) (fun w => decide (w = .fault 7)) = true ∧
    walked { paged two with poison := [lineOf 0x206080] } (fun w => decide (w = .fault 9)) = true := by decide
theorem test_witness_tables_plain : NoneGenerated (paged two) := ⟨by decide, parts_plain (by decide)⟩

/-- IllegalAndHazardousIssuesHaveNoEffect: a destination that is misaligned for a warp of 64 lanes, `tret` outside a handler, a job bell in a crew that
is not co-resident, a sealed guard. -/
def stops (i : Instr) (s : State) (p : Ctx → Bool) : Bool :=
  match s.ctx? i with
  | some c => p c
  | none => false
def wide64 (s : State) : State := inCrew s fun cr => { cr with shape := { cr.shape with width := 64 } }
theorem test_witness_stops : stops (.ballot (hd (.s 9) (.v 0) (.v 0) (.v 0) 0) (wc .b32 7)) (wide64 two) (fun c => !dstOk c.form.d c.x.d) = true ∧
    stops (.tret n0 0) two (fun c => !stateRule (.tret n0 0) c) = true ∧ stops (.bellInit n2 1) two (fun c => !stateRule (.bellInit n2 1) c) = true ∧
    stops (.add (hd2 (.v 8) (.v 0) (.v 2) (.v 0) 0) (wc .n32 0)) (inWarp two fun w => { w with seals := [{ kind := .m, num := 2, lane := 5, op := 1 }] })
      (fun c => decide (5 ∈ c.sp.lanes) && decide (c.sp.again = none) && decide (c.x.g ≠ 7) && c.w.sealed .m c.x.g.toNat 5) = true := by decide
/-- OperandsReadByClass: an instruction that goes on after a wait. -/
theorem test_witness_operands_again : stops (.add v2' (wc .n32 0)) (mid (.add v2' (wc .n32 0)) two) (fun c => c.sp.again.isSome) = true := by decide

/-- ExitYieldAndMeet: the last lanes of a handler, some of them, and the last lanes of a warp that holds a section. -/
theorem test_witness_exit : at? (.exit n0 0) handling (fun c => decide (c.w.save = some saved0) && (c.sp.lanes.all fun l => decide (l ∈ c.mask)) &&
      c.w.splits.all fun sp => sp.lanes.all fun l => decide (l ∈ c.mask)) = true ∧
    at? (.exit (hd2 no (.v 0) (.v 0) (.v 0) 0) 0) (ms handling [(2, 5)]) (fun c => c.w.save.isSome && decide (0 ∈ c.sp.lanes) && decide (0 ∉ c.mask)) = true ∧
    at? (.exit n0 0) (holding 5) (fun c => decide (c.w.secs ≠ []) && released? c true (issued c (holding 5)) fun _ => true) = true := by decide

/-- SplitSelectionAndMeeting: a split in the middle of an instruction is not selected; splits to merge; a cycle of held splits. -/
def busy : Warp := { splits := [{ lanes := [0], pc := 0x80#64, st := .run, again := some { instr := .nop n0 (wc .b32 0), s := [], b := [], op := 0 } },
                                { lanes := [1], pc := 0x100#64, st := .run }], cur := some 0, run := 3 }
def abreast : Warp := { splits := [{ lanes := [0], pc := 0x80#64, st := .run }, { lanes := [1], pc := 0x80#64, st := .run }], meets := [(0, [0x90]), (1, [0x90])] }
def crossed : Warp := { splits := [{ lanes := [0], pc := 0x80#64, st := .held }, { lanes := [1], pc := 0x90#64, st := .held }]
                        meets := [(0, [0x80, 0x90]), (1, [0x90, 0x80])] }
theorem test_witness_splits : (busy.select.map fun sp => sp.lanes) = some [1] ∧ (abreast.regang.splits.map fun sp => sp.lanes) = [[0, 1]] ∧
    crossed.releasable = none ∧ (crossed.cycle.map fun sp => sp.lanes) = some [0] ∧ crossed.hold1.regang.cycle.isSome = true ∧
    (abreast.hold1.splits.map fun sp => sp.st) = [.run, .run] ∧ meeting.hold1.regang.releasable = some 0x80#64 ∧ abreast.hold1.regang.cycle = none := by decide

/-! ### Witnesses: accesses that fail or wait, and the other ends of the synchronising instructions -/

/-- A generator of one block of 4096 bytes at 0x400000000000, and a page at 0x130000 that is generated by it. -/
def genDesc0 : GenDesc :=
  { bytes := bytesLE 8 0x100000 ++ bytesLE 8 0 ++ bytesLE 8 0 ++ bytesLE 8 0x130000 ++ bytesLE 8 0x400000000000 ++ bytesLE 4 1 ++ bytesLE 4 0 ++
      bytesLE 2 1 ++ bytesLE 2 8 ++ [8, 1, 0, 1] ++ bytesLE 4 0 ++ bytesLE 4 0, root := 0x200000 }
def withGen (s : State) : State :=
  let s := s.setPart 0 { s.part 0 with gens := [(5, genDesc0)], ways := 0xC000 }
  s.setCore 0 { s.core 0 with tlb := { part := 0, asn := 1, root := 0x200000, vpage := 0x13, large := false, leaf := 0x0005400000000199#64, leafPa := 0x200010 } ::
    (s.core 0).tlb }
def ldG : Instr := .ld (hd (.v 8) (.v 2) (.v 0) (.v 0) 0) (wm 0 2 0 0 0)
/-- How the checks of the accesses of a load end. -/
def placesLd (s : State) (k : List (Want × Placed) × State → Bool) : Bool := at? ldG s fun c =>
  k (c.placeAll 0 { acc := .read } 0 [] (issued c s) (c.mask.map fun l => ⟨l, c.addr (wm 0 2 0 0 0) l, 4⟩))
/-- LoadsReadTheirLocations: addresses that fail, that are absent, and whose lines are being filled. -/
theorem test_witness_ld_fails : placesLd (addrs (2 ^ 56)) (fun r => decide ((placedFaults r.1).map (fun f => f.code) = [0x1E, 0x1E])) = true ∧
    placesLd (addrs 0x100401) (fun r => decide ((placedFaults r.1).map (fun f => f.detail) = [2, 2])) = true ∧
    placesLd (addrs 0x300000) (fun r => decide (placedFaults r.1 = []) && decide (placedPages r.1 ≠ [])) = true := by decide
set_option maxRecDepth 4096 in
theorem test_witness_ld_fills : at? ldG (withGen (addrs 0x130000)) (fun c => lands? c 0 { acc := .read } (issued c (withGen (addrs 0x130000)))
      (c.mask.map fun l => ⟨l, c.addr (wm 0 2 0 0 0) l, 4⟩) fun ls t =>
        unmixed? c false ls t && decide (waitsOf (c.readAll 0 t ls).1 ≠ [])) = true := by decide
theorem test_witness_ld_poisoned : at? ldG { addrs 0x100400 with poison := [lineOf 0x100400] } (fun c =>
    lands? c 0 { acc := .read } (issued c { addrs 0x100400 with poison := [lineOf 0x100400] }) (c.mask.map fun l => ⟨l, c.addr (wm 0 2 0 0 0) l, 4⟩) fun ls t =>
      decide (poisonLanes (c.readAll 0 t ls).1 ≠ []) && decide (c.lateFaults ls (c.readAll 0 t ls).1 ≠ []) && decide (c.cr.fill = none)) = true := by decide
/-- The checks of one access in the stash of a crew and in a frame, at their ends. -/
theorem test_witness_place : stops ldG (stashed two) (fun c => decide ((c.placeOne 1 { acc := .read } (stashed two) [] ⟨0, 4092, 4⟩).1 = .loc (.stash 4092)) &&
    decide ((c.placeOne 1 { acc := .read } (stashed two) [] ⟨0, 4096, 4⟩).1 = .fault 0x08 0 0) &&
    decide ((c.placeOne 3 { acc := .read } (stashed two) [] ⟨5, 4092, 4⟩).1 = .loc (.frame 5 4092)) &&
    decide ((c.placeOne 3 { acc := .read } (stashed two) [] ⟨5, 4094, 4⟩).1 = .fault 0x06 2 0)) = true := by decide

/-- OrderingAndWindowInstructions: a fence of no lane; windows with a dirty line that cannot be written back; a window to take away, one misaligned,
one that does not fit and one beyond the address space; a pinned line; and what `waita` stops on. -/
def windowed (va : Nat) (s : State) : State := inCrew s fun cr => { cr with
  shape := { cr.shape with stash := 65536 }, windows := [{ va, off := 1024, len := 256, lines := [(1, { valid := true, dirty := [3] })] }] }
theorem test_witness_fence_nothing : at? (.fence (hd2 no (.v 0) (.v 0) (.v 0) 0) (wm 0 0 3 3 0)) two (fun c => decide (c.mask = [])) = true ∧
    at? (.swb n0 (wm 0 0 0 0 0)) (windowed (2 ^ 56) two) (fun c => decide (c.mask ≠ []) && (match ((issued c (windowed (2 ^ 56) two)).writeBack c.agent false).1 with
      | some (_, .fault _ _) => true
      | _ => false)) = true ∧
    at? (.swb n0 (wm 0 0 0 0 0)) (windowed 0x300000 two) (fun c => decide (c.mask ≠ []) && (match ((issued c (windowed 0x300000 two)).writeBack c.agent false).1 with
      | some (_, .page _) => true
      | _ => false)) = true := by decide
def mapping (va off len : Nat) : State := windowed 0x100400 (vs two [(2, 0, va % 2 ^ 32), (3, 0, va / 2 ^ 32), (4, 0, off), (6, 0, len)])
theorem test_witness_smap_ends : at? (.smap n3 (wm 0 0 0 0 0)) (mapping 0 1024 0) (fun c => decide (c.mask ≠ []) && decide (c.c c.lowMask = 0) &&
      decide (c.cr.windows.findIdx? (fun y => decide (y.off = c.b c.lowMask)) = some 0) &&
      decide (((issued c (mapping 0 1024 0)).writeBackLines c.agent false (c.cr.dirtyLines.filter fun l => decide (l.1 = 0))).1 = none)) = true ∧
    at? (.smap n3 (wm 0 0 0 0 0)) (mapping 64 2048 128) (fun c => decide (c.addr (wm 0 0 0 0 0) c.lowMask % 128 ≠ 0)) = true ∧
    at? (.smap n3 (wm 0 0 0 0 0)) (mapping 0 1152 128) (fun c => c.cr.windows.any fun y => decide (c.b c.lowMask < y.off + y.len) &&
      decide (y.off < c.b c.lowMask + c.c c.lowMask)) = true ∧
    at? (.smap n3 (wm 0 0 0 0 0)) (mapping (2 ^ 56) 2048 128) (fun c => decide (2 ^ 56 ≤ c.addr (wm 0 0 0 0 0) c.lowMask) &&
      decide (c.addr (wm 0 0 0 0 0) c.lowMask % 128 = 0) && decide (c.cr.windows.length < 8)) = true := by decide
theorem test_witness_flush_lines : (resident.wayOf 0x100480).isSome = true ∧ ((resident.lineAt 0x100480).map fun l => l.pins) = some [] ∧ two.lineAt 0x100480 = none ∧
    ((homed two (fun t => { t with sets := [(setOf 0x100480, { ways := [(14, { line (lineOf 0x100480) with pins := [(0, 0, false)] })] })] })
      (homeOf 0x100480)).lineAt 0x100480).isSome = true := by decide
def waitaI : Instr := .waita n2 (wm 0 2 3 0 0)
theorem test_witness_waita_stops : at? waitaI (holding 5) (fun c => decide (c.sp.again = none) && decide (c.w.secs ≠ []) && decide (c.mask ≠ [])) = true ∧
    at? waitaI { addrs 0x100400 with poison := [lineOf 0x100400] } (fun c => decide (c.sp.ans = []) && lands? c 0 { acc := .read, watch := true }
      (issued c { addrs 0x100400 with poison := [lineOf 0x100400] }) (c.mask.map fun l => ⟨l, c.addr (wm 0 2 3 0 0) l, 4⟩) fun ls t =>
        decide (c.lateFaults ls (c.readAll 0 t ls).1 ≠ [])) = true := by decide
set_option maxRecDepth 4096 in
theorem test_witness_waita_fills : at? waitaI (withGen (addrs 0x130000)) (fun c => lands? c 0 { acc := .read, watch := true } (issued c (withGen (addrs 0x130000)))
      (c.mask.map fun l => ⟨l, c.addr (wm 0 2 3 0 0) l, 4⟩) fun ls t => let r := (c.readAll 0 t ls).1
        decide (c.lateFaults ls r = []) && decide (poisonLanes r = []) && decide (waitsOf r ≠ [])) = true := by decide

/-- FuturesAndFillTasks: a loop of `fset` that faults, on a resolved and on a poisoned future; futures to resolve with a node linked; `fon` on a future
that is pending, resolved and poisoned; a fill task whose results are out, that is done, and that may end; its window's bytes and its record. -/
def fsetFaults (s : State) (code : Nat) : Bool := at? (.fset (hd no (.v 2) (.v 4) (.v 0) 0) 3) s fun c =>
  lands? c 0 { acc := .write } (issued c s) (c.mask.map fun l => ⟨l, c.a l, 8⟩) fun ls t => released? c (firstPending t ls) t fun u =>
    match c.fsetLoop 3 u ls with
    | .fault _ fs => decide (fs.map (fun f => f.code) = [code])
    | _ => false
theorem test_witness_fset_faults : fsetFaults (futures 7) 0x11 = true ∧ fsetFaults { futures (2 ^ 63) with poison := [lineOf 0x100400] } 0x09 = true ∧
    ((futures 7).natAt 0x100400 8 < 2 ^ 63) ∧ 2 ^ 63 ≤ (futures 7).natAt 0x100408 8 := by decide
def fonAt (s : State) (k : Ctx → List (Want × Loc) → State → Bool) : Bool := at? (.fon n2 0) s fun c =>
  lands? c 0 { acc := .write } (issued c s) (c.mask.map fun l => [⟨l, c.b l, 32⟩, ⟨l, c.a l, 8⟩]).flatten (k c)
def resolvedAt (t : State) (ls : List (Want × Loc)) : Bool := ls.any fun p => decide (p.1.size = 8) && (match p.2 with
  | .glob _ pa _ => decide (t.natAt pa 8 < 2 ^ 63)
  | _ => false)
theorem test_witness_fon_ends : fonAt (futures (2 ^ 63)) (fun c ls t => decide (poisonedWants t ls = []) && !resolvedAt t ls && released? c false t fun _ => true) = true ∧
    fonAt (futures 7) (fun c ls t => decide (poisonedWants t ls = []) && resolvedAt t ls && released? c true t fun _ => true) = true ∧
    fonAt { futures 7 with poison := [lineOf 0x100500] } (fun _ ls t => decide (poisonedWants t ls ≠ [])) = true := by decide
def fillInfo' : FillInfo := { fillInfo with size := 4096 }
theorem test_witness_end_fill : { rec0 (.running 3) with size := 4096 } ∈ ((genTwo fun t => { t with fills := [{ rec0 (.running 3) with size := 4096 }] }).slice 7).fills := by
  decide
def fillTask (f : FillInfo) (s : State) : State := inCrew s fun cr => { cr with fill := some f, uid := 3 }
theorem test_witness_fdone : at? (.fdone n0 0) (fillTask fillInfo' (inWarp sealed4 fun w => { w with seals := [], pends := w.pends.map fun p => { p with load := true } }))
      (fun c => decide (c.mask ≠ []) && decide (fillInfo'.done = false) && c.waiting) = true ∧
    at? (.fdone n0 0) (fillTask fillInfo' two) (fun c => decide (c.mask ≠ []) && !c.waiting && released? c true ((issued c (fillTask fillInfo' two)).setCrew c.core c.slot
      { c.cr with fill := some { fillInfo' with done := true } }) (fun _ => true)) = true ∧
    at? (.fpois n0 0) (fillTask { fillInfo' with done := true } two) (fun c => decide (c.mask ≠ []) && decide (c.sp.ans = [])) = true ∧
    at? (.fdone (hd2 no (.v 0) (.v 0) (.v 0) 0) 0) (fillTask fillInfo' two) (fun c => decide (c.mask = [])) = true := by decide
/-- Windows' bytes that another warp has stored to, and that an engine has written. -/
def winLedger : Ledger :=
  ((({} : Ledger).store 3 1 0 0 (stashKey 3 0) 4 fun _ => 1).write (.op 0 7) (stashKey 3 8) 4 [] fun _ => 9).store 3 0 5 0 (stashKey 3 16) 4 fun _ => 2
theorem test_witness_window : (Store.look winLedger.hist (stashKey 3 0)).isSome = true ∧ ((winLedger.head (stashKey 3 8)).map fun e => e.old) = some 9 ∧
    winLedger.races (.lane 3 0 0) (stashKey 3 0) 1 (stashKey 3 0) = true ∧ winLedger.races (.lane 3 1 0) (stashKey 3 0) 1 (stashKey 3 0) = false ∧
    winLedger.head (stashKey 3 24) = none ∧ 1 < fillInfo'.size := by decide

/-! ### Witnesses: queues, sections and the moves of memory -/

/-- WorkQueuesAndSpawn: a `qres` in a section, with sixteen outstanding; a commit of no reservation; a take of nothing, at a bound queue, and with an
earlier take; a spawn of too many; a void slot at `HEAD`, and one that is not committed. -/
def full16 (s : State) : State := inCrew s fun cr => { cr with qres := List.replicate 16 { hdr := 0x100400, hva := 0x100400, first := 9, count := 1, take := false } }
def qresI (w : WS) : Instr := .qres (hd (.v 8) (.v 2) (.v 4) (.v 0) 0) w
def qtakeI : Instr := .qtake (hd (.v 8) (.v 2) (.v 4) (.v 0) 0) 0
theorem test_witness_qres_stops : at? (qresI 0xE0000) (inWarp (queueAt (asked 2 0) 0 16 0 0) fun w => { w with secs := [{ key := 5, seq := 0, slice := 0, entry := 2 }] })
      (fun c => decide (c.mask ≠ []) && decide (c.w.secs ≠ []) && decide (c.sp.again = none)) = true ∧
    queue? (qresI 0x20001) (full16 (queueAt (asked 2 0) 0 16 0 0)) (fun c pa t => decide (16 ≤ (c.crewIn t).qres.length) && (t.qhdr pa).ok &&
      decide (t.qwaits.any c.isMine = false)) = true ∧
    queue? (qresI 0xE0000) (queueAt (asked 2 0) 0 1 0 0) (fun c pa t => decide ((t.qhdr pa).free < c.b c.lowMask) && decide (c.b c.lowMask ≤ (t.qhdr pa).cap) &&
      decide (t.qwaits.any c.isMine = false) && decide ((c.crewIn t).qres.length < 16) && decide (c.w.secs = [])) = true := by decide
theorem test_witness_qcom_refused : at? (.qcom n3 0) (queueAt (asked 5 2) 0 8 7 5) (fun c => decide (c.mask ≠ []) &&
      released? c true (issued c (queueAt (asked 5 2) 0 8 7 5)) fun r => headerAt? c r fun pa t => (t.qhdr pa).ok && decide ((c.crewIn t).qres = [])) = true := by decide
theorem test_witness_qtake_ends : queue? qtakeI (queueAt (asked 0 0) 0 16 0 0) (fun c _ _ => decide (c.b c.lowMask = 0)) = true ∧
    queue? qtakeI ((queueAt (asked 4 0) 0x100040 16 0 0).storeAt 0x10041E [1]) (fun _ pa t => decide ((t.qhdr pa).entry ≠ 0)) = true ∧
    queue? qtakeI (inCrew (queueAt (asked 4 0) 0 12 4 0) fun cr => { cr with qres := [{ hdr := 0x100400, hva := 0x100400, first := 2, count := 3, take := true }] })
      (fun c pa t => (t.qhdr pa).ok && (match (c.crewIn t).qres.find? fun q => decide (q.hdr = pa ∧ q.take = true) with
        | some q => slotsAt? c (t.qhdr pa) q.first q.count t fun u =>
            decide ((c.scan (t.qhdr pa) 3 16 0 [] [] u).1 = none) && decide ((c.scan (t.qhdr pa) 2 4 0 [] [] u).1 = none)
        | none => false)) = true := by decide
theorem test_witness_spawn_ends : at? (.spawn n2 0) (spawning 0) (fun c => decide (c.a c.lowMask % 4 = 0) && decide (c.b c.lowMask = 0)) = true ∧
    at? (.spawn n2 0) (spawning 29) (fun c => decide (28 < c.b c.lowMask)) = true := by decide
/-- A queue whose slot at `HEAD` has this state, and the addresses of its header and of that slot. -/
def delivering (st : Byte) : State := paged ((queueAt two 0 16 0 0).storeAt 0x100480 [st])
def delivers (st : Byte) (k : State → Nat → Bool) : Bool := crew0 two fun cr => let s := delivering st
  match s.devAll cr.qagent [(0x100400, 64), ((s.qhdr 0x100400).stateVa 0, 1)] [] with
  | (.inr [_, q], v) => decide (s.qstopped = []) && k v q
  | _ => false
set_option maxRecDepth 4096 in
theorem test_witness_delivery : delivers 3 (fun v q => decide (v.byteAt q = 3)) = true ∧ delivers 0 (fun v q => decide (v.byteAt q = 0)) = true ∧
    (delivering 2).natAt 0x10041E 2 = 0 := by decide

/-- SectionInstructions: each status of `sopen` and of `stake`; a `sleave` that goes on after a wait; the cases of `Advance`. -/
def sopenI : Instr := .sopen (hd (.v 8) (.v 2) (.v 4) (.v 6) 0) 0x20000
def key5n (n : Nat) : State := vs two [(2, 0, 5), (4, 0, 0), (6, 0, n)]
def fullRack (s : State) : State := s.setSlice (keyHome 5) { s.slice (keyHome 5) with rack := (List.range 512).map fun k => (k, { ent5 with key := 6 }) }
theorem test_witness_sopen : at? sopenI (key5n 0) (fun c => decide (c.c c.lowMask = 0)) = true ∧
    at? sopenI (keyed ent5 (key5n 8)) (fun c => ((issued c (keyed ent5 (key5n 8))).rackFind c.cr.part c.cr.jobKey 5).isSome) = true ∧
    at? sopenI (key5n 0x80000000) (fun c => decide (c.c c.lowMask ≤ 0x80000000) && ((issued c (key5n 0x80000000)).rackFree (keyHome 5) c.cr.part).isSome) = true := by decide
set_option maxRecDepth 16384 in
theorem test_witness_sopen_full : (fullRack two).rackFree (keyHome 5) 0 = none ∧ (fullRack two).rackFind 0 0 5 = none := by decide
theorem test_witness_leaving : at? (.sleave (hd no (.v 2) (.v 0) (.v 0) 0) 0) (inSplit (key5 10) fun sp => { sp with ans := [(0, keyHome 5), (1, 2)] })
      (fun c => decide (leavingOf c.sp.ans = some (keyHome 5, 2)) && released? c true (issued c (key5 10)) fun _ => true) = true ∧
    at? (.stake (hd (.v 8) (.v 2) (.v 0) (.v 0) 0) 0) (keyed { ent5 with ticket := 100 } (key5 0)) (fun _ => decide (({ ent5 with ticket := 100 } : RackEnt).ticket = 100)) = true ∧
    ({ ent5 with ticket := 74 } : RackEnt).off 74 = 64 := by decide
theorem test_witness_advance : ({ ent5 with next := 100 } : RackEnt).remaining = 0 ∧ ({ ent5 with held := true } : RackEnt).held = true ∧ ent5.remaining ≠ 0 ∧
    ({ ent5 with skip := 1 } : RackEnt).skip.getLsbD 0 = true ∧ seqSub 10 5 < seqSub 20 5 ∧ ¬ seqSub ent5.next ent5.rlo < seqSub ent5.rhi ent5.rlo ∧
    (keyed ent5 two).awaited (keyHome 5) 2 10 = false ∧
    (inSplit (keyed ent5 two) fun sp => { sp with st := .parked (.grant (keyHome 5) 2 10 0 false) }).awaited (keyHome 5) 2 10 = true ∧
    (keyed ent5 two).rackEnt (keyHome 5) 2 = some ent5 ∧ two.rackEnt (keyHome 5) 2 = none ∧
    ((keyed ent5 two).advanceLoop 140 (keyHome 5) 2).rackEnt (keyHome 5) 2 = some ent5 := by decide

/-- MemorySideMoves: an access whose descriptor covers its block, and one whose does not; a placed block of 32 lines that finds its ways; a line that
is resident, one without a way and one with; a continuation at a full queue; a channel with requests, its round at their end and not. -/
def wait0 (block : Nat) : FillWait := { level := 0, block, size := 4096, gen := 5, desc := genDesc0, part := 0, cls := 2, chain := [] }
theorem test_witness_descriptors : (withGen two).descNow (wait0 0x400000000000) = some genDesc0 ∧ (withGen two).descNow (wait0 0x400000001000) = none := by decide
def wayless (s : State) : State := s.setPart 0 { s.part 0 with ways := 0 }
theorem test_witness_commit_line : (resident.wayOf 0x100480).isSome = true ∧ (wayless two).wayOf 0x100480 = none ∧
    (wayless two).victim (homeOf 0x100480) (setOf 0x100480) 0 = none ∧ (two.victim (homeOf 0x400000000000) (setOf 0x400000000000) 0).isSome = true := by decide
set_option maxRecDepth 4096 in
theorem test_witness_full_queue : (paged { queueAt two 0 0 0 0 with conts := [cont0] }).natAt 0x100420 4 = 0 ∧
    (paged { queueAt two 0 0 0 0 with conts := [cont0] }).firstWaiter 0x100400 = some (9, none) ∧ cont0.fut = none ∧ cont0.page = none ∧
    cont0.hdr = some 0x100400 ∧ two.poisoned cont0.node = false := by decide
def channel0 (used : Nat) : Channel := { part := 0, used, queues := [(0, [3]), (2, [5])] }
theorem test_witness_channels : ((channel0 0).turn fun _ => 1).served = 0 ∧ ((channel0 1).turn fun _ => 1).served = 2 ∧ inHbm 0x100480 = true ∧
    (({} : Channel).turn fun _ => 1) = {} := by decide

/-! ### Witnesses: the other ends of engines, crews, jobs and commands -/

/-- ReturnsRepairsAndStalls: the stop of a split that is in the middle of no instruction. -/
theorem test_witness_stop_ends : (stopped.splits.any fun sp => decide (sp.st = .stopWait [1] ∧ sp.again = none ∧ sp.lanes ≠ [])) = true := by decide

/-- CopiesArePerformedAndComplete: a copy with its bell, at a stash of the crew and past its end. -/
def ringing : State := (stashed two).setCore 0 { (stashed two).core 0 with copyQ := [(1, [{ copyOp (.performed 0 false) with bell := true }])] }
theorem test_witness_bell : crew0 ringing (fun cr => (match ringing.engFuture (cr.agent 0) (copyDesc []).fut 0 with
      | (.done, u) => (u.crewOf 0).any fun x => decide ((u.engineBell (x.acting 0 0) (copyDesc []).bell false).1 = .done)
      | _ => false) && decide ((ringing.engSpot (cr.acting 0 0) true 8 8 .write).1 = .inr (.stash 8)) &&
      (List.range 8).all (fun k => !ringing.ledger.written (ringing.spotKey (cr.acting 0 0) (.stash 8) + k)) && decide (ringing.crewOf cr.uid = some cr)) = true ∧
    crew0 (windowed 0x300000 (stashed two)) (fun cr => match ((windowed 0x300000 (stashed two)).engineBell (cr.acting 0 0) 1024 false).1 with
      | .wait _ => true
      | _ => false) = true := by decide

/-- MatrixOperationsArePerformed: a row that waits; pieces of each width; the three arithmetics; sums with a NaN, with infinities of both signs and of one. -/
theorem test_witness_tload_waits : rows 0x300000 (fun h i => (match h with
    | some (.wait _) => true
    | _ => false) && decide (i = 15)) = true := by decide
theorem test_witness_arithmetics : pairArith 12 12 = some .integer ∧ pairArith 2 2 = some .layered ∧ pairArith 5 9 = some .exact ∧ 255 < cfg16.m * cfg16.n ∧
    hasScale 5 = true ∧ 31 < area0.k := by decide
theorem test_witness_sums : FVal.nan ∈ [FVal.nan, .inf true] ∧ FVal.inf true ∈ [FVal.inf true, .fin false 1 0] ∧ FVal.nan ∉ [FVal.inf true, .fin false 1 0] ∧
    FVal.inf false ∉ [FVal.inf true, .fin false 1 0] ∧ ([FVal.fin false 1 0, .fin true 1 0].all isFin) = true := by decide

/-- RasterBatchesAreDrawn: a primitive whose tile is broken, open, and whose crew is to be launched. -/
def key0 : Nat := tileKey (rastDesc (rastBytes 0x100A00 1 0x100000)) 0 0
def tent (broken : Bool) : RackEnt := { key := key0, next := 0, stop := 9, ticket := 0, first := 0, part := 0, job := 0, raster := true, broken }
def tiled (going : Bool) : Batch :=
  { batch0 true .queued (some (rastBytes 0x100A00 1 0x100000)) (some [tile0]) with going, tiles := [{ tx := 0, ty := 0, slice := keyHome key0, entry := 4, life := 0, next := 9 }] }
def racked (broken : Bool) : State := (drawing (tiled false) []).setRack (keyHome key0) 4 (tent broken)
set_option maxRecDepth 8192 in
theorem test_witness_launches : let d := rastDesc (rastBytes 0x100A00 1 0x100000)
    (racked true).tileBroken (tiled false) d [tile0] = true ∧ (racked false).tileBroken (tiled false) d [tile0] = false ∧
    (racked false).tilesOpen (tiled false) d [tile0] = true ∧ (tiled true).tile 0 0 = some { tx := 0, ty := 0, slice := keyHome key0, entry := 4, life := 0, next := 9 } ∧
    ((tiled true).tile 0 0).any (fun t => decide (t.next = d.id 0) && ((racked false).tileEnt (tiled true) d t).isSome) = true ∧
    ((racked false).unit 3).launches < 256 ∧ (racked false).ticketsOf 0 0 key0 < 64 := by decide

/-- CrewsAreDispatchedSavedAndRetired: a crew parked for 4,096 clocks; a pool with room for a save and without; a core that moves with a crew of a `COR` job, with
one that may go, and to no partition. -/
def sleeping (s : State) : Crew → Crew := fun cr => { cr.mapWarps (fun w => w.mapSplits fun sp => { sp with st := .parked (.bell false 8) }) with parked := some (s.core 0).clk }
theorem test_witness_parked : crew0 (inCrew two (sleeping two)) (fun cr => cr.isParked && ({ two.core 0 with clk := 4096 } : Core).longParked cr) = true ∧
    crew0 (pooled id) (fun cr => ((pooled id).giveArea cr.part cr.uid 1001).poolHas cr.part cr.saveBytes) = true ∧
    crew0 two (fun cr => !(two.giveArea cr.part cr.uid 1001).poolHas cr.part cr.saveBytes) = true ∧
    crew0 (inCrew two fun cr => { cr with shape := { cr.shape with cor := true } }) (fun cr => cr.shape.cor) = true ∧
    ({ two.core 0 with moving := some 8 } : Core).moving = some 8 ∧ ((two.core 0).crews.all fun e => decide (e.1 < 28) && !e.2.shape.cor) = true := by decide

/-- JobsBindEndAndReport: futures of a job that ends, pending and resolved; a record with a future to resolve. -/
def ending (w : Nat) : State := paged (((ended none none).storeAt 0x100800 (bytesLE 8 w)).setPart 0
  { (ended none none).part 0 with jobs := Store.mapV ((ended none none).part 0).jobs fun _ x => { x with desc := { x.desc with done := 0x100800 } } })
set_option maxRecDepth 4096 in
theorem test_witness_done : (((ending (2 ^ 63)).job? 0 0).any fun x => decide (((ending (2 ^ 63)).doneLook 0 x).1 = some (0, some (0x100800, 0)))) = true ∧
    (((ending 5).job? 0 0).any fun x => decide (((ending 5).doneLook 0 x).1 = some (2, some (0x100800, 0)))) = true ∧
    ({ record0 with done := some (0x100800, 0) } : Record).done = some (0x100800, 0) ∧ ((launching false).part 0).records = [] := by decide

set_option exponentiation.threshold 512 in
/-- CommandsTakeTheirEffect: for each command with operands that can be bad, one that is; an operand on a poisoned line; a `CONFIG` of a busy partition, of a
header that cannot be read and one that goes on; a descriptor that cannot be read and one that is refused; a command that waits for jobs. -/
theorem test_witness_bad_operands : given? two 0 2 (cmd 2 0 [(8, 1, 8)]) (fun t => t.cfgBad (cmd 2 0 [(8, 1, 8)]).cfg) = true ∧
    given? two 0 4 (cmd 4 0 [(0xA, 1, 3)]) (fun _ => true) = true ∧ given? two 0 5 (cmd 5 0 [(0x18, 8, 1)]) (fun _ => true) = true ∧
    given? two 0 7 (cmd 7 0 [(8, 1, 2)]) (fun _ => true) = true ∧ given? two 0 8 (cmd 8 0 [(9, 1, 96)]) (fun _ => true) = true ∧
    given? two 0 9 (cmd 9 0 [(8, 2, 96)]) (fun _ => true) = true ∧ given? two 0 0xA (cmd 0xA 0 [(8, 1, 8)]) (fun _ => true) = true ∧
    given? two 0 0xB (cmd 0xB 0 [(0x10, 8, 1)]) (fun _ => true) = true ∧ given? two 0 0xD (cmd 0xD 0 [(8, 1, 96)]) (fun _ => true) = true ∧
    given? two 0 0xE (cmd 0xE 0 [(8, 2, 119)]) (fun _ => true) = true := by decide
set_option maxRecDepth 16384 in
set_option exponentiation.threshold 512 in
theorem test_witness_unread : given? { two with poison := [lineOf 0x100400] } 0 5 (cmd 5 0 [(8, 2, 5), (0x10, 8, 0x100400), (0x18, 8, 0x200000)])
      (fun t => t.anyPoison 0x100400 64) = true ∧
    given? two 0 0xC (cmd 0xC 0 [(0x10, 8, 2 ^ 46)]) (fun _ => !pay? (cmd 0xC 0 [(0x10, 8, 2 ^ 46)]) 0x10 64) = true ∧
    given? two 0 0xF (cmd 0xF 0 [(8, 8, 2 ^ 46)]) (fun _ => !pay? (cmd 0xF 0 [(8, 8, 2 ^ 46)]) 8 32) = true ∧
    given? two 1 8 (cmd 8 0 [(8, 1, 1), (0xB, 1, 1), (0x10, 8, 0x100400)]) (fun _ => true) = true := by decide
def cfgOf (qhdr : Nat) : Cmd := cmd 2 0 [(8, 1, 1), (9, 1, 2), (0xC, 2, 0x3F), (0x10, 8, 2), (0x20, 8, qhdr), (0x28, 8, 0x8000000), (0x30, 8, 0x10000)]
set_option exponentiation.threshold 512 in
theorem test_witness_config_ends : given? { two with poison := [lineOf 0x100400] } 0 2 (cfgOf 0x100400) (fun t => !t.cfgBad (cfgOf 0x100400).cfg &&
      t.cfgUnread (cfgOf 0x100400).cfg) = true ∧
    given? two 0 2 (cfgOf 0x100400) (fun t => !t.cfgBad (cfgOf 0x100400).cfg && !t.cfgUnread (cfgOf 0x100400).cfg && t.cfgNoQueue (cfgOf 0x100400).cfg) = true ∧
    given? (two.setPart 1 { two.part 1 with jobs := (two.part 0).jobs }) 0 2 (cfgOf 0) (fun t => !t.cfgBad (cfgOf 0).cfg && !t.cfgUnread (cfgOf 0).cfg &&
      !t.cfgNoQueue (cfgOf 0).cfg && t.cfgBusy (cfgOf 0).cfg) = true ∧
    given? two 0 2 { cfgOf 0 with begun := true } (fun t => t.stillCores) = true ∧
    given? (two.setCore 5 { two.core 5 with moving := some 1 }) 0 2 { cfgOf 0 with begun := true } (fun t => !t.stillCores) = true := by decide
set_option maxRecDepth 16384 in
theorem test_witness_launch_ends : given? two 0 1 launchCmd (fun t => !t.descFlips 0 1 0x200000 0x100400 && decide ((t.readDesc 0 1 0x200000 0x100400).1 = none)) = true ∧
    given? (paged (two.storeAt 0x100400 [1])) 0 1 launchCmd (fun t => match t.readDesc 0 1 0x200000 0x100400 with
      | (some l, _) => (descCode (jobDesc l).1 (jobDesc l).2).isSome
      | _ => false) = true ∧
    given? two 0 1 (cmd 1 0 [(8, 8, 0x100401), (0x10, 8, 0x200000)]) (fun _ => true) = true ∧
    (let s := two.setPart 0 { two.part 0 with cmd := some (cmd 6 1 []) }
     s.takeCmd 0 = some (cmd 6 1 [], s) ∧ (s.part 0).jobs ≠ [] ∧ (cmd 6 1 []).begun = false ∧ (cmd 6 1 []).clean [] = true ∧ bit ((cmd 6 1 []).field 1 1) 0 = true) := by decide

/-- HostAndBoardRegisters and ErrorsAndHeatAreHandled: an address at and below the base of the host's window; a byte in a pool; `ROM`; a core within an
operation of its matrix queue and between two. -/
theorem test_witness_window_base : ({ two with mgmt := { two.mgmt with base := 0x1000 } } : State).fromHost 0x1000 = some 0 ∧
    ({ two with mgmt := { two.mgmt with base := 0x1000 } } : State).fromHost 0xFFF = none ∧ two.inPool 0x100400 = false ∧ two.hostStale 0x100400 = false ∧
    (booting 1 0).mgmt.boot = 1 ∧ State.reset.mgmt.i3c = none := by decide
theorem test_witness_in_op : ((mats { mat0 mma0 0 (.performed 0 false) with begun := true }).core 0).inOp = true ∧ ((mats (mat0 mma0 0 .queued)).core 0).inOp = false ∧
    (two.core 0).inOp = false := by decide

/-! ### Witnesses: numbers -/

/-- RepresentableOverflowingAndTinyResults: the NaN of a format, and overflows of E4M3, exactly at the limit and nearer to it than to the largest value. -/
theorem test_witness_e4m3 : (480 : ℚ) ≤ |rat (.fin false 15 5)| ∧ (464 : ℚ) < |rat (.fin true 465 0)| ∧ |rat (.fin true 465 0)| < 480 ∧ fmtF32.decode 0x7FC00000 = .nan := by
  refine ⟨by norm_num [rat], by norm_num [rat], by norm_num [rat], by decide⟩
/-- FunctionsAtTheirSpecialValues: values of 24 bits, and one of which the logarithm is not negative. -/
theorem test_witness_arguments : (0xFFFFFF : Nat) ≠ 0 ∧ 0xFFFFFF < 2 ^ 24 ∧ (0 : Int) ≤ (Nat.log2 3 : Int) + (-1) := by decide
/-- ConversionsGiveTheirResults: a tie, above the range and within it; a block of finite values with the power of its greatest, and one with a NaN. -/
theorem test_witness_tie : IsRounded .ne (rat (.fin false 5 (-1))) 2 ∧ IsRounded .up (rat (.fin false 5 (-1))) 3 ∧ IsRounded .tz (rat (.fin true 1 40)) (-2 ^ 40) := by
  refine ⟨⟨fun z => ?_, by norm_num [rat]⟩, by norm_num [IsRounded, rat], by norm_num [IsRounded, rat]⟩
  rcases (by omega : z ≤ 2 ∨ 3 ≤ z) with g | g
  · have g' : (z : ℚ) ≤ 2 := by exact_mod_cast g
    norm_num [rat]
    rw [abs_of_nonpos (by linarith)]; linarith
  · have g' : (3 : ℚ) ≤ z := by exact_mod_cast g
    norm_num [rat]
    rw [abs_of_nonneg (by linarith)]; linarith
theorem test_witness_block : (2 : ℚ) ^ (3 : Int) ≤ |rat (.fin false 13 0)| ∧ (∀ v ∈ [FVal.fin false 13 0, .fin true 1 0], |rat v| < (2 : ℚ) ^ (3 + 1 : Int)) ∧
    isFin .nan = false ∧ isFin (.fin false 13 0) = true := by
  refine ⟨by norm_num [rat], ?_, rfl, rfl⟩
  intro v hv
  fin_cases hv <;> norm_num [rat]

/-! ### Witnesses: bytes that race, and what an access was given -/

/-- IllegalAndHazardousIssuesHaveNoEffect: a sealed guard of an instruction that reads something, and of `nop`. -/
theorem test_witness_sealed_guard : stops (.add (hd2 (.v 8) (.v 0) (.v 2) (.v 0) 0) (wc .n32 0))
      (inWarp two fun w => { w with seals := [{ kind := .m, num := 2, lane := 5, op := 1 }] }) (fun c => !readsNothing c.instr && !c.preFaults.isEmpty) = true ∧
    stops (.nop (hd2 no (.v 0) (.v 0) (.v 0) 0) (wc .b32 0))
      (inWarp two fun w => { w with seals := [{ kind := .m, num := 2, lane := 5, op := 1 }] }) (fun c => c.preFaults.isEmpty) = true := by decide

/-- RepresentableOverflowingAndTinyResults: a value below the smallest normal number that is tiny in every mode, one that is not in the nearest and in
the mode away from zero, and one above it. -/
theorem test_witness_tiny_results : fmtF16 ∈ [fmtF32, fmtF16, fmtBf16, fmtE4m3, fmtE5m2] ∧
    |rat (.fin false 1 (-15))| < (2 : ℚ) ^ (1 - fmtF16.bias : Int) * (1 - 2 ^ (-(fmtF16.fb : Int) - 1)) ∧
    |rat (.fin false 0x1FFF (-27))| < (2 : ℚ) ^ (1 - fmtF16.bias : Int) ∧
    (2 : ℚ) ^ (1 - fmtF16.bias : Int) * (1 - 2 ^ (-(fmtF16.fb : Int) - 2)) ≤ |rat (.fin false 0x1FFF (-27))| ∧
    (2 : ℚ) ^ (1 - fmtF16.bias : Int) ≤ |rat (.fin true 1 0)| := by
  refine ⟨by decide, ?_, ?_, ?_, ?_⟩ <;> norm_num [rat, fmtF16]

/-- CrossLaneMoves: a register that the read waited for, written over since, of a lane outside `Mask()` and of one inside; a read that is parked and one that is not. -/
def crossedSplit : Split := { lanes := [0, 5], pc := 0x100000#64, st := .parked .seal, crossed := [(laneKey 4 7, 9)] }
theorem test_witness_crossed : at? (.xlane (hd (.v 8) (.v 4) (.v 2) (.v 0) 0) (wc .b32 0)) (inSplit (vs two [(2, 0, 7), (4, 7, 3)]) fun sp => { sp with crossed := [(laneKey 4 7, 9)] })
      (fun c => !c.waitsFor c.aReg 1 (c.b 0 % c.width) && decide (7 ∉ c.mask) && decide (0 ∈ c.mask)) = true ∧
    crossedSplit.st = .parked .seal ∧ Store.look crossedSplit.crossed (laneKey 4 7) = some 9 ∧ Store.look crossedSplit.crossed (laneKey 4 8) = none ∧
    [({ kind := .v, num := 4, lane := 8, op := 1 } : Seal)].all (fun y => decide (y.num < 512)) = true := by decide

/-- IndexedRegisters: `xset` and `xset.add` as they are encoded and read. -/
theorem test_witness_xset : encOk (.xset (hd no (.v 0) .imm (.v 0) 3) (wc .b32 40)) = true ∧ encOk (.xset (hd no (.v 0) (.v 0) (.v 0) 7) (wc .b32 0)) = true ∧
    stops (.xset (hd no (.v 0) (.v 0) (.v 0) 7) (wc .b32 0)) two (fun c => c.x.sub.getLsbD 2) = true := by decide

/-- MemoryReadsBackWhatWasStored: a page in device bias of which the host holds a line; scopes that hold both lanes. -/
theorem test_witness_stale : ({ two with hostLines := [0x100400 / 128] } : State).hostStale 0x100408 = true ∧ two.hostStale 0x100408 = false ∧
    scopeHas 2 (some 3) (some 0) (some 3) (some 1) = true ∧ scopeHas 3 (some 3) (some 0) (some 4) (some 1) = true ∧
    scopeHas 1 (some 3) (some 0) (some 3) (some 1) = false := by decide

/-- LoadsReadTheirLocations: two accesses of one line in a pass and one of another; a line that an earlier try was given, with its bytes and poisoned; a
byte that races; a window line that is valid and one that is not; a fill task whose lane reads poison. -/
def given (data : Option (List Byte)) (s : State) : State := inSplit s fun sp => { sp with got := [{ pass := 0, line := 0x100400 / 128, data }] }
theorem test_witness_got : stops ldG (given (some (List.replicate 128 7)) (addrs 0x100400)) (fun c =>
      (c.sp.got.find? fun g => decide (g.pass = 0 ∧ g.line = 0x100400 / 128)).any (fun g => g.data.isSome) &&
      decide (c.sp.got.find? (fun g => decide (g.pass = 0 ∧ g.line = 0x100480 / 128)) = none)) = true ∧
    stops ldG (given none (addrs 0x100400)) (fun c => (c.sp.got.find? fun g => decide (g.pass = 0 ∧ g.line = 0x100400 / 128)).any fun g => g.data.isNone) = true ∧
    stops ldG (addrs 0x100400) (fun c => let seen := (c.readGlobal 0 true [] (addrs 0x100400) ⟨0, 0x100400, 4⟩ 0x100400 0x1001B7#64).2.1
      (seen.find? fun g => decide (g.pass = 0 ∧ g.line = 0x100400 / 128)).isSome && decide (seen.find? (fun g => decide (g.pass = 0 ∧ g.line = 0x100480 / 128)) = none)) = true ∧
    inGen 0x100400 = false ∧ 0x100400 % 128 + 4 ≤ 128 := by decide
def racing : State := { addrs 0x100400 with ledger := ({} : Ledger).store 3 1 0 0 0x100400 8 fun _ => 1 }
theorem test_witness_racing : stops ldG racing (fun c => (List.range 4).all (fun k => c.undefinedByte racing 0 0x100400 4 (0x100400 + k)) &&
      !c.undefinedByte racing 5 0x100408 4 0x100408 && decide (c.evKey racing (.glob 0x100400 0x100400 0x1001B7#64) = some 0x100400) &&
      decide (c.evKey racing (.frame 0 8) = none) && (c.readGlobal 0 true [] racing ⟨0, 0x100400, 4⟩ 0x100400 0x1001B7#64).1.isBytes) = true := by decide
set_option maxRecDepth 4096 in
theorem test_witness_window_lines : stops ldG (windowed 0x100400 two) (fun c => match (c.crewIn (windowed 0x100400 two)).windowAt 1152, (c.crewIn (windowed 0x100400 two)).windowAt 1024 with
      | some (i, y), some (j, z) => decide (i = 0) && (y.line ((1152 - y.off) / 128)).valid && decide (j = 0) && !(z.line ((1024 - z.off) / 128)).valid &&
        (c.lineOnce 0 false [] (windowed 0x100400 two) 0 0x100400 0x1001B7#64).1.isBytes
      | _, _ => false) = true ∧
    stops ldG { windowed 0x100400 two with poison := [lineOf 0x100400] } (fun c =>
      !(c.lineOnce 0 false [] { windowed 0x100400 two with poison := [lineOf 0x100400] } 0 0x100400 0x1001B7#64).1.isBytes) = true ∧
    (List.replicate 128 (7 : Byte)).length = 128 := by decide
set_option maxRecDepth 4096 in
theorem test_witness_poison_mark : at? ldG { fillTask fillInfo' (addrs 0x100400) with poison := [lineOf 0x100400] } (fun c =>
    lands? c 0 { acc := .read } (issued c { fillTask fillInfo' (addrs 0x100400) with poison := [lineOf 0x100400] }) (c.mask.map fun l => ⟨l, c.addr (wm 0 2 0 0 0) l, 4⟩) fun ls t =>
      decide (c.cr.fill ≠ none) && decide (poisonLanes (c.readAll 0 t ls).1 = [0, 5])) = true := by decide

/-- StoresWriteTheirLocations: stores through a window, to a line that is valid. -/
def winStores : State := windowed 0x100400 (vs two [(2, 0, 1152), (2, 5, 1156), (4, 0, 7), (4, 5, 9)])
theorem test_witness_st_window : at? (.st n2 (wm 1 2 0 0 0)) winStores (fun c =>
    lands? c 1 { acc := .write } (issued c winStores) (c.mask.map fun l => ⟨l, c.addr (wm 1 2 0 0 0) l, 4⟩) fun ls t =>
      (ls.all fun p => match p.2 with
        | .win off _ _ _ => decide (off = 1152 + 4 * (p.1.lane / 5)) && (((c.crewIn (c.touchWindows 0 (c.writeReqs 0 [] (c.countPol 0 (c.asking t ls) t) ls) ls)).windowAt off).isSome)
        | _ => false) && released? c (c.relDev (wm 1 2 0 0 0) ls t && !c.mask.isEmpty) t fun _ => true) = true := by decide

/-- AtomicsUpdateTheirLocations: a poisoned place and one that is not, an operation that gives a result and one that gives none, undefined bytes; the
same in the stash. -/
theorem test_witness_rmw : stops (.atom (hd (.v 8) (.v 2) (.v 4) (.v 0) 0) (wm 0 2 3 3 0)) (vs (stashed racing) [(4, 0, 3)]) (fun c =>
      let s := vs (stashed racing) [(4, 0, 3)]
      !s.poisoned 0x100400 && c.undefinedByte s 0 0x100400 4 0x100400 && !c.undefinedByte s 0 0x100410 4 0x100410 &&
        decide (atomNew 7 false 32 5 (c.b 0) (c.c 0) = none) && (atomNew 7 false 32 3 (c.b 0) (c.c 0)).isSome && (s.crew c.core c.slot).any fun cr => decide (cr.uid = c.cr.uid) &&
        !c.undefinedByte s 0 (s.stashEv c.agent cr 8) 4 (s.stashEv c.agent cr 8)) = true ∧
    ({ two with poison := [lineOf 0x100400] } : State).poisoned 0x100400 = true := by decide
theorem test_witness_atom_poisoned : at? (.atom (hd (.v 8) (.v 2) (.v 4) (.v 0) 0) (wm 0 2 3 0 0)) { addrs 0x100400 with poison := [lineOf 0x100400] } (fun c =>
    lands? c 0 { acc := .write, atomic := true } (issued c { addrs 0x100400 with poison := [lineOf 0x100400] }) (c.mask.map fun l => ⟨l, c.addr (wm 0 2 3 0 0) l, 4⟩) fun ls t =>
      unmixed? c true ls t && released? c (c.relDev (wm 0 2 3 0 0) ls t && !c.mask.isEmpty) t fun u =>
        (c.rmwAll (wm 0 2 3 0 0) 0 false (c.writeReqs 0 [] u ls) ls).1.any fun p => p.2.isNone) = true := by decide

/-- OrderingAndWindowInstructions: a value that a future's completion gives, which is met and not. -/
theorem test_witness_waita_future : let s := { vs (addrs 0x100400) [(4, 0, 0), (4, 5, 1)] with resolved := [(0x100400, true)] }
    at? waitaI s (fun c => decide (c.w.secs = []) && decide (c.sp.ans = []) &&
      lands? c 0 { acc := .read, watch := true } (issued c s) (c.mask.map fun l => ⟨l, c.addr (wm 0 2 3 0 0) l, 4⟩) fun ls t =>
        let r := c.readAll 0 t ls
        calm r.1 && decide (c.futureLanes r.2.2 true ls = [0]) && decide (c.laneValue r.1 r.2.2.freeCtr 1 0 = c.b 0) && decide (c.laneValue r.1 r.2.2.freeCtr 1 5 ≠ c.b 5)) = true := by decide

/-- BellsCountArrivals: a bell whose place is good, at issue and after its bytes were stored to; a wait outside a section. -/
theorem test_witness_bell_places : bellAt (.bellArr n2 0) 0x00010002 1 (fun c _ => let q : Want := ⟨c.lowMask, 8, 8⟩
      let b := c.bellWord (bell 0x00010002 1) q (.stash 8)
      (Loc.stash 8).sound b bellBad && !bellBadScope 0 c && decide ((c.homeWord b q (.stash 8)).1 = some 0x00010002)) = true ∧
    racing.ledger.written 0x100400 = true ∧ two.ledger.written 0x100400 = false := by decide

/-- FuturesAndFillTasks: futures that an unordered store has written, pending and resolved ones at `fset` and `fon`. -/
def storedFuture (w0 : Nat) : State := { futures w0 with ledger := ({} : Ledger).store 3 1 0 0 0x100400 8 fun _ => 1 }
theorem test_witness_future_words : stops (.fon n2 0) (storedFuture 7) (fun c => (storedFuture 7).ledger.unready (c.thr 0) 0x100400 &&
      !(storedFuture 7).ledger.unready (c.thr 5) 0x100408) = true ∧
    stops (.fon n2 0) (futures (2 ^ 63)) (fun c => decide (2 ^ 63 ≤ (c.futWord (futures (2 ^ 63)) 0 0x100400).natAt 0x100400 8)) = true ∧
    stops (.fon n2 0) (futures 7) (fun c => decide ((c.futWord (futures 7) 0 0x100400).natAt 0x100400 8 < 2 ^ 63)) = true ∧
    firstPending (futures (2 ^ 63)) [(⟨0, 0x100400, 8⟩, .glob 0x100400 0x100400 0x1001B7#64)] = true := by decide

/-- WorkQueuesAndSpawn: a commit whose header and slots are checked before its release; a bound queue with a batch of committed slots, and with fewer
before a free slot and before a reserved one, whose job is that of the last commit. -/
theorem test_witness_qcom_slots : queue? (.qcom n3 0) (inCrew (queueAt (asked 5 2) 0 8 7 5) fun cr => { cr with qres := [{ hdr := 0x100400, hva := 0x100400, first := 5, count := 2, take := false }] })
    (fun c pa t => ((c.crewIn t).qres.any fun q => decide (q = { hdr := pa, hva := 0x100400, first := c.b c.lowMask, count := c.c c.lowMask, take := false })) &&
      slotsAt? c (t.qhdr pa) 5 2 t fun u => released? c true u fun _ => true) = true := by decide
def commit0 (n : Nat) : QCommit := { hdr := 0x100400, hva := 0x100400, first := 0, count := n, order := 9, part := 0, job := 0, lseq := 0 }
def batching (states : List Byte) : State := paged { ((queueAt two 0x100000 16 0 0).storeAt 0x10041E [2, 0]).storeAt 0x100480 states with qcommits := [commit0 2] }
def batches (states : List Byte) (k : Nat → Option Nat → State → Bool) : Bool := crew0 two fun cr => let s := batching states
  match s.devAll cr.qagent [(0x100400, 64), ((s.qhdr 0x100400).stateVa 0, 1)] [] with
  | (.inr [_, q], v) => decide (v.seenByte q = 2) && (match v.batchRun cr.qagent (s.qhdr 0x100400) 2 0 0 with
    | (.inr (m, stop), y) => k m stop y
    | _ => false)
  | _ => false
set_option maxRecDepth 8192 in
theorem test_witness_batch_launch : batches [2, 2, 0] (fun m stop y => decide (m = 2) && decide (stop = none) &&
      decide (lastCommit (y.commitsOf 0x100400 0 m) = some (commit0 2)) && (match y.job? 0 0 with
        | some j => decide (j.lseq = 0) && (match (y.devAll { part := 0, job := 0, asn := j.asn, root := j.root } ((0x100400, 64) :: (y.qhdr 0x100400).slots 0 2) []).1 with
          | .inr l => decide (l = [0x100400, 0x100480, 0x100481])
          | _ => false)
        | none => false)) = true := by decide
set_option maxRecDepth 8192 in
theorem test_witness_batch_short : batches [2, 0] (fun m stop _ => decide (m = 1) && decide (stop = some 0)) = true ∧
    batches [2, 1] (fun m stop _ => decide (m = 1) && decide (stop = some 1)) = true := by decide

/-- SectionInstructions: a granted `senter` that goes on after a wait; a leave whose write-back faults, at issue and after a wait, from an entry that is
there; keys that are missing and broken at `sskip` and `stake`; a skip of an earlier sequence. -/
def leavingI : Instr := .sleave (hd no (.v 2) (.v 0) (.v 0) 0) 0
def faultsBack (c : Ctx) (s : State) : Bool := match (s.writeBack c.agent false).1 with
  | some (_, .fault _ _) => true
  | _ => false
theorem test_witness_granted : at? (.senter n2 0) (inSplit (keyed ent5 (key5 10)) fun sp => { sp with ans := [(0, 0)] }) (fun c =>
    decide (c.mask ≠ [] ∧ c.sp.ans ≠ []) && decide ((keyed ent5 (key5 10)).rackFind c.cr.part c.cr.jobKey 5 = some (2, ent5)) &&
      decide (seqSub 10 ent5.first < seqSub 11 ent5.first) &&
      ((keyed ent5 (key5 10)).sendSkip c.threads (keyHome 5) 2 10).ledger.points.any fun z => decide (z.1 = .skip (keyHome 5) 0 10)) = true ∧
    (keyed ent5 two).rackEnt (keyHome 5) 2 = some ent5 := by decide
theorem test_witness_leave_faults : at? leavingI (windowed (2 ^ 56) (holding 5)) (fun c => decide (leavingOf c.sp.ans = none) &&
      (c.w.secs.find? fun h => decide (h.key = c.a c.lowMask)).any fun h => faultsBack c (c.setWarp (issued c (windowed (2 ^ 56) (holding 5)))
        { c.warpIn (issued c (windowed (2 ^ 56) (holding 5))) with secs := (c.warpIn (issued c (windowed (2 ^ 56) (holding 5)))).secs.filter fun z => decide (z.key ≠ h.key) })) = true ∧
    at? leavingI (inSplit (windowed (2 ^ 56) (keyed ent5 (key5 10))) fun sp => { sp with ans := [(0, keyHome 5), (1, 2)] }) (fun c =>
      decide (leavingOf c.sp.ans = some (keyHome 5, 2)) && faultsBack c (issued c (windowed (2 ^ 56) (keyed ent5 (key5 10)))) &&
        decide (((issued c (windowed (2 ^ 56) (keyed ent5 (key5 10)))).writeBack c.agent false).2.rackEnt (keyHome 5) 2 = some ent5)) = true := by decide
theorem test_witness_skip_bad : at? (.sskip n2 0) (key5 10) (fun c => released? c true (issued c (key5 10)) fun r => decide (r.rackFind c.cr.part c.cr.jobKey 5 = none)) = true ∧
    at? (.sskip n2 0) (keyed { ent5 with broken := true } (key5 10)) (fun c => released? c true (issued c (keyed { ent5 with broken := true } (key5 10))) fun r =>
      decide (r.rackFind c.cr.part c.cr.jobKey 5 = some (2, { ent5 with broken := true }))) = true ∧
    at? (.stake (hd (.v 8) (.v 2) (.v 0) (.v 0) 0) 0) (keyed { ent5 with broken := true } (key5 0)) (fun c =>
      decide ((issued c (keyed { ent5 with broken := true } (key5 0))).rackFind c.cr.part c.cr.jobKey 5 = some (2, { ent5 with broken := true }))) = true := by decide

/-- ReturnsRepairsAndStalls: a waiter that gave its crew's ticket up to enter. -/
theorem test_witness_regain : crew0 (inSplit (keyed stalling two) fun sp => { sp with st := .parked (.grant (keyHome 5) 2 10 0 true) }) (fun cr =>
    cr.warps.any fun u => u.2.allSplits.any fun sp => decide (sp.st = .parked (.grant (keyHome 5) 2 10 0 true))) = true := by decide

/-- MemorySideMoves: a node that nothing has written since its `fon`, and one that a store has. -/
theorem test_witness_node : ((List.range 32).all fun k => decide (committing.ledger.lastOf (cont0.node + k) ≤ cont0.since)) = true ∧
    (({} : Ledger).store 3 1 0 0 cont0.node 4 fun _ => 1).lastOf cont0.node = 1 := by decide

/-- CopiesArePerformedAndComplete: an element to convert without a scale, a block with one, and a block to quantise, whose places are found. -/
def convert (sfmt dfmt : Nat) : CopyDesc := copyDesc (bytesLE 8 0x100800 ++ bytesLE 8 0x100900 ++ bytesLE 8 0x100A00 ++ bytesLE 8 0 ++ bytesLE 4 32 ++
  [BitVec.ofNat 8 sfmt, BitVec.ofNat 8 dfmt] ++ List.replicate 26 0)
def makes (d : CopyDesc) (mode j : Nat) : Bool := crew0 two fun cr =>
  match two.copyMake (cr.acting 0 0) d mode [] j with
  | (.inr m, u) => (match (u.engSpots (cr.acting 0 0) (m.writes.map fun w => (w.1, w.2.1, w.2.2.1)) []).1 with
    | .inr ps => decide (ps.length = m.writes.length)
    | _ => false)
  | _ => false
set_option maxRecDepth 8192 in
theorem test_witness_converts : makes (convert 1 0) 1 5 = true ∧ makes (convert 5 0) 1 0 = true ∧ makes (convert 0 9) 2 0 = true ∧ hasScale 1 = false ∧ hasScale 5 = true := by
  decide

/-- MatrixOperationsArePerformed: the pieces of a row, from memory with and without its policy and from the stash; a piece to merge; blocks of 32; layers
that fail; a report. -/
def hodFrom (n : Nat) : HodOp := { hod0 0x100400 with fromSrc := n }
theorem test_witness_row_pieces : let s := engines fun c => { c with hodQ := [hodFrom 0] }
    crew0 s (fun cr => let ag := cr.acting 0 0
      [hodFrom 0, hodFrom 2].all (fun op => match s.engSpot ag false 0x100400 1 .read with
        | (.inr (.glob _ pa leaf), u) => (match u.readLine ag op.served leaf pa 16 (if op.fromSrc = 2 then 4 else 0) false with
          | (.bytes bs, v) => decide (pa = 0x100400) && decide (bs.length = 16) && ((List.range 16).all fun k => !v.ledger.races (.op 0 0) pa 16 (pa + k))
          | _ => false)
        | _ => false) &&
      (match (s.engSpot ag true 64 1 .read).1 with
        | .inr _ => true
        | _ => false) && decide (ag.thr = some (.op 0 0))) = true ∧ (rowPieces 65 0x100440 64).length = 1 ∧ (rowPieces 65 0x100470 64).length = 2 := by decide
theorem test_witness_merged : crew0 two (fun cr => let p : Piece := { index := 0, at8 := 0x100402, off := 6, width := 6, value := 5 }
    let r := two.engSpots (cr.agent 0) ((List.range 2).map fun k => (false, p.at8 + k, 1)) []
    match r.1 with
    | .inr qs => decide (¬ (p.off = 0 ∧ p.width % 8 = 0)) && decide ((qs.map fun x => r.2.spotBytes (cr.agent 0) 1 x) = [0, 0].map fun b => [b])
    | _ => false) = true ∧ ({ cfg16 with n := 32 } : MatCfg).n % 32 = 0 := by decide
def pass0 : Passes := passesOn [0, 1, 3]
theorem test_witness_passes : pass0.pending ≠ [] ∧ pass0.layers = [0, 1, 3] ∧ (Passes.run [] 8 pass0).order = [3, 1, 0, 2] ∧ (Passes.run [] 8 pass0).pending = [] ∧
    (Passes.run [(0, 0), (0, 1), (0, 3)] 8 pass0).pending ≠ [] ∧ (Passes.run [] 8 pass0).used.Nodup ∧ (Passes.run [] 8 pass0).passes = 2 := by decide
set_option maxRecDepth 16384 in
theorem test_witness_quants : atHead (mats (mat0 (.tquant 0 5 false 0x100400 64 0) 512 .queued)) (fun op cr =>
      let r := (mats (mat0 (.tquant 0 5 false 0x100400 64 0) 512 .queued)).putPieces (cr.acting 0 0) false
        ((quantPieces op.cfg (cr.mat.quantBlocks op.cfg 0 5) 5 0x100400 64).drop op.done) op.done
      decide (r.1 = none) && ((r.2.2.setMatOp 0 { op with done := r.2.1, st := .performed 0 false }).matHead 0).any fun p =>
        decide (p.1 = { op with done := r.2.1, st := .performed 0 false, begun := true })) = true := by decide

/-- RasterBatchesAreDrawn: a word that no access races with; vertices that are numbers on the grid and one that is not; primitives of each orientation
with a pixel inside; a depth. -/
def vx (x y : Int) : Vert := { x, y, z := .fin false 1 (-1) }
theorem test_witness_primitives : (vertOf 0x41000000 0x40800000 0x3F000000).isSome = true ∧ vertOf 0x7FC00000 0 0 = none ∧ (orient 0 (vx 0 0) (vx 2048 0) (vx 0 2048)).isSome = true ∧
    orient 0 (vx 0 0) (vx 0 0) (vx 0 2048) = none ∧ orient 2 (vx 0 0) (vx 2048 0) (vx 0 2048) = none ∧ orient 1 (vx 0 0) (vx 0 2048) (vx 2048 0) = none ∧
    (orient 0 (vx 0 0) (vx 2048 0) (vx 0 2048)).any (fun p => decide (0 < p.area) && (p.covered 8 8).any fun c => decide (c.1 = 0) && decide (c.2.1 = 0) && c.2.2.isSome) = true := by
  decide
set_option maxRecDepth 8192 in
theorem test_witness_setup : let s := drawing (batch0 false .queued none none) (rastBytes 0x100A00 1 0)
    (match s.batchAgent 3 (batch0 false .queued none none) with
      | some ag => let d := rastDesc (rastBytes 0x100A00 1 0)
          (match s.setupPrim ag [] d 0 with
            | (.inr none, _) => true
            | _ => false) && (match s.rastWords ag [] [d.iaddr, d.iaddr + 4, d.iaddr + 8] [] with
            | (.inr [i, j, k], u) => decide (i < d.nvert) && decide (j < d.nvert) && decide (k < d.nvert) && (match (u.rastWords ag []
                ([i, j, k].flatMap fun n => [d.vaddr + 12 * n, d.vaddr + 12 * n + 4, d.vaddr + 12 * n + 8]) []).1 with
              | .inr ws => decide (ws.length = 9)
              | _ => false)
            | _ => false) && (match (orient 0 (vx 0 0) (vx 2048 0) (vx 0 2048)) with
            | some p => (match (s.visSpots ag (((p.covered 2 2).filterMap fun c => c.2.2.map fun z => (0x100400 + 64 * c.2.1 + 8 * c.1, 2 ^ 32 * z.toNat))) []).1 with
              | .inr ps => decide (ps.length = 4)
              | _ => false)
            | none => false) && (match ag.thr with
            | some th => (List.range 8).all fun k => !s.ledger.races th 0x100408 8 (0x100408 + k)
            | none => true)
      | none => false) = true := by decide

/-- JobsBindEndAndReport: a record with a future to resolve, pending and resolved, of a partition without a queue; a queue that a record is put into. -/
def resolving (w : Nat) : State := (two.storeAt 0x100800 (bytesLE 8 w)).setPart 0 { two.part 0 with records := [{ record0 with done := some (0x100800, 0) }] }
theorem test_witness_record_done : ((resolving (2 ^ 63)).part 0).queue = none ∧ ((resolving (2 ^ 63)).part 0).records = [{ record0 with done := some (0x100800, 0) }] ∧
    2 ^ 63 ≤ (resolving (2 ^ 63)).natAt 0x100800 8 ∧ (resolving 5).natAt 0x100800 8 < 2 ^ 63 ∧ ((reporting (some ring0)).part 0).queue ≠ none := by decide

/-- CommandsTakeTheirEffect: the last page of a flip and one before it; a partition with a queue to answer in. -/
theorem test_witness_flips : given? { two with flipping := some 1 } 0 7 (cmd 7 0 [(8, 1, 1), (0x10, 8, 0x10000), (0x18, 4, 1)])
      (fun t => decide (t.flipping = some 1) && decide (0x10000 / 65536 + 1 ≤ 1 + 1)) = true ∧ ((headed.part 0).queue.isSome) = true := by decide

/-- ErrorsAndHeatAreHandled: a clean line with a pin and without, a dirty one, in a slice whose sets are listed once. -/
def pinned (pins : List (Nat × Nat × Bool)) (dirty : Bool) : State := homed two (fun t => { t with sets := [(setOf 0x100480, { ways := [(14, { line (lineOf 0x100480) with pins, dirty })] })] })
  (homeOf 0x100480)
theorem test_witness_clean_lines : ((pinned [(0, 0, false)] false).llcLine (homeOf 0x100480) (setOf 0x100480) 14).any (fun l => !l.dirty && decide (l.pins ≠ [])) = true ∧
    ((pinned [] false).llcLine (homeOf 0x100480) (setOf 0x100480) 14).any (fun l => !l.dirty && decide (l.pins = [])) = true ∧
    ((pinned [] true).llcLine (homeOf 0x100480) (setOf 0x100480) 14).any (fun l => l.dirty && decide (l.larder = none)) = true ∧
    (((pinned [] false).slice (homeOf 0x100480)).sets.map fun e => e.1).Nodup := by decide
theorem test_witness_head_op : ((mats (mat0 mma0 0 .queued)).core 0).matQ = [mat0 mma0 0 .queued] := by decide

/-- MemoryIsKeptByWhatStoresNothing: `bell.wait`, which loads, at a bell that nothing has stored to. -/
theorem test_witness_bell_wait : loads (.bellWait (hd (.v 8) (.v 2) (.v 4) (.v 0) 0) 1) = true ∧ stores (.bellWait (hd (.v 8) (.v 2) (.v 4) (.v 0) 0) 1) = false ∧
    two.ledger.written 0x100400 = false := by decide

end Sys2Proof.Tests
end

section
/-! PROOFS. The issue of an instruction of the core: what an instruction at issue is, what the charge of its issue keeps, and how an
instruction whose effect is on the registers of its warp alone completes. -/

namespace Sys2Proof.Machine

/-- What an instruction at issue is made of: a warp of a resident crew, a split of it, and the lanes of that split whose guard holds. -/
structure AtIssue (s : State) (i : Instr) (c : Ctx) : Prop where
  crew  : s.crew c.core c.slot = some c.cr
  warp  : c.w = c.cr.warp c.wi
  head  : x96Head (expand i) = some c.x
  form  : c.form = widthForm i c.width ((form (expand i)).getD { layout := .s, long := false })
  mask  : c.mask = guardMask c.w c.x (c.sp.lanesOf c.width)

theorem State.atIssue_of_ctx {s : State} {i : Instr} {c : Ctx} (h : s.ctx? i = some c) : AtIssue s i c := by
  unfold State.ctx? at h
  split at h
  · cases h
  · split at h
    · cases h
    · rename_i hcr
      dsimp only at h
      split at h
      · rename_i hx
        cases h
        exact ⟨hcr, rfl, hx, rfl, rfl⟩
      · cases h

/-- The lanes of `Mask()` are lanes of the split (07 R78). -/
theorem AtIssue.mem_lanes {s : State} {i : Instr} {c : Ctx} (h : AtIssue s i c) {l : Nat} (hl : l ∈ c.mask) : l ∈ c.sp.lanes := by
  rw [h.mask] at hl
  have h' := (List.mem_filter.1 (List.mem_filter.1 hl).1).2
  simpa using h'

/-- An instruction whose encoding is legal has a form, which the issue uses (07 R82). -/
theorem AtIssue.form_eq {s : State} {i : Instr} {c : Ctx} (h : AtIssue s i c) {f : Form} (hf : Machine.form (expand i) = some f) :
    c.form = widthForm i c.width f := by
  rw [h.form, hf]; rfl

theorem form_of_encOk {i : Instr} (h : encOk i = true) : ∃ f, form (expand i) = some f := by
  unfold encOk at h
  cases hf : form (expand i) with
  | some f => exact ⟨f, rfl⟩
  | none => simp [hf] at h

theorem formIf_some {ok : Bool} {f g : Form} : formIf ok f = some g ↔ ok = true ∧ f = g := by
  cases ok <;> simp [formIf]

/-! ### The charge of an issue (19 R274) -/

theorem State.crew_setCore (s : State) (n c k : Nat) (x : Core) :
    (s.setCore n x).crew c k = if n = c then Store.look x.crews k else s.crew c k := by
  unfold State.crew
  rw [State.core_setCore]
  split <;> rfl

@[simp] theorem State.crew_countCore (s : State) (n i k c j : Nat) : (s.countCore n i k).crew c j = s.crew c j := by
  unfold State.countCore
  rw [State.crew_setCore]
  split
  · subst_vars; rfl
  · rfl

@[simp] theorem Ctx.crew_charge (c : Ctx) (s : State) (k j : Nat) : (c.charge s).crew k j = s.crew k j := by
  unfold Ctx.charge
  split
  · rfl
  · simp only [State.crew_countCore, State.crew_setCore]
    split
    · subst_vars; rfl
    · rfl

end Sys2Proof.Machine

namespace Sys2Proof.Claims

open Sys2Proof.Machine

theorem Issues.atIssue {i : Instr} {s : State} {c : Ctx} (h : Issues i s c) : AtIssue s i c := State.atIssue_of_ctx h.1

theorem Issues.encOk {i : Instr} {s : State} {c : Ctx} (h : Issues i s c) : encOk i = true := h.2.1

/-- The issue changes no register: the effect of an instruction finds its warp as the operands were read from it. -/
theorem warpIn_issued {i : Instr} {s : State} {c : Ctx} (h : AtIssue s i c) : c.warpIn (issued c s) = c.w := by
  have hc : (issued c s).crew c.core c.slot = some c.cr := by
    rw [issued, Ctx.crew_charge]
    exact h.crew
  rw [Ctx.warpIn, hc, h.warp]

/-- An instruction at issue completes as its meaning answers. -/
theorem exec_of_done {i : Instr} {s : State} {c : Ctx} {body : Ctx → State → Res} (hi : Issues i s c) (he : exec i s = issue i s noBad body)
    {u : State} {ctl : Ctl} {late : List LaneFault} {extra : List (RegKind × Nat × Nat)}
    (hb : body c (issued c s) = .done u ctl late extra) : exec i s = .next (c.finish u ctl late extra) := by
  obtain ⟨hc, hok, hd, hp⟩ := hi
  rw [he]
  exact issue_done hc hok hd rfl hp hb

/-- Faults that its meaning finds before any effect are raised on the state at the issue. -/
theorem exec_of_fault {i : Instr} {s : State} {c : Ctx} {body : Ctx → State → Res} (hi : Issues i s c) (he : exec i s = issue i s noBad body)
    {fs : List LaneFault} (hb : body c (issued c s) = .fault (issued c s) fs) : exec i s = .next (c.raise (untouched c s) fs) := by
  obtain ⟨hc, hok, hd, hp⟩ := hi
  rw [he]
  exact issue_fault hc hok hd rfl hp hb

/-- An instruction that changes registers of its warp alone completes with the change that its meaning gives. -/
theorem leaves_of_regBody {i : Instr} {s : State} {c : Ctx} {body : Ctx → State → Res} (hi : Issues i s c)
    (he : exec i s = issue i s noBad body) {f : Ctx → Warp → Warp} (hb : body c (issued c s) = regBody f c (issued c s)) :
    Leaves i s c (f c c.w) := by
  refine exec_of_done hi he (hb.trans ?_)
  rw [regBody, warpIn_issued hi.atIssue]

/-! ### Destinations (07 R79, R80) -/

/-- A value is read back from the lane registers that hold its digits (05 R54). -/
theorem vval_of_digits (w : Warp) (l : Nat) : ∀ (n d x : Nat),
    (∀ k, k < n → w.vreg (d + k) l = BitVec.ofNat 32 (x / 2 ^ (32 * k))) → w.vval d n l = x % 2 ^ (32 * n)
  | 0, _, _, _ => by simp [Warp.vval, Nat.mod_one]
  | n + 1, d, x, h => by
    have h0 : w.vreg d l = BitVec.ofNat 32 x := by simpa using h 0 (by omega)
    have ih := vval_of_digits w l n (d + 1) (x / 2 ^ 32) fun k hk => by
      rw [Nat.div_div_eq_div_mul, ← Nat.pow_add, Nat.add_right_comm, show 32 + 32 * k = 32 * (k + 1) by omega]
      exact h (k + 1) (by omega)
    rw [Warp.vval, h0, ih, BitVec.toNat_ofNat, Nat.mul_succ, Nat.add_comm (32 * n), Nat.pow_add, Nat.mod_mul]

/-- A value is read back from the scalars that hold its digits (05 R54). -/
theorem sval_of_digits (w : Warp) : ∀ (n d x : Nat),
    (∀ k, k < n → w.sreg (d + k) = BitVec.ofNat 32 (x / 2 ^ (32 * k))) → w.sval d n = x % 2 ^ (32 * n)
  | 0, _, _, _ => by simp [Warp.sval, Nat.mod_one]
  | n + 1, d, x, h => by
    have h0 : w.sreg d = BitVec.ofNat 32 x := by simpa using h 0 (by omega)
    have ih := sval_of_digits w n (d + 1) (x / 2 ^ 32) fun k hk => by
      rw [Nat.div_div_eq_div_mul, ← Nat.pow_add, Nat.add_right_comm, show 32 + 32 * k = 32 * (k + 1) by omega]
      exact h (k + 1) (by omega)
    rw [Warp.sval, h0, ih, BitVec.toNat_ofNat, Nat.mul_succ, Nat.add_comm (32 * n), Nat.pow_add, Nat.mod_mul]

/-- Writing lane registers changes nothing else of the warp. -/
theorem setVval_only_v (n : Nat) (w : Warp) (d l x : Nat) (u : Store Word) : { w.setVval d n l x with v := u } = { w with v := u } := by
  induction n generalizing w d x with
  | zero => rfl
  | succ n ih => exact ih ..

/-- Writing scalars changes nothing else of the warp. -/
theorem setSval_only_s (n : Nat) (w : Warp) (d x : Nat) (u : Store Word) : { w.setSval d n x with s := u } = { w with s := u } := by
  induction n generalizing w d x with
  | zero => rfl
  | succ n ih => exact ih ..

theorem foldl_setVval_only_v (ls : List Nat) (f : Nat → Nat) (n d : Nat) (w : Warp) (u : Store Word) :
    { ls.foldl (fun w l => w.setVval d n l (f l)) w with v := u } = { w with v := u } := by
  induction ls generalizing w with
  | nil => rfl
  | cons l r ih => rw [List.foldl_cons, ih, setVval_only_v]

/-- `put` writes the destination of an instruction and nothing else. -/
theorem writesD_put (c : Ctx) (n : Nat) (hn : n ≤ 256) (f : Nat → Nat) (w : Warp) : WritesD c n f w (c.put n f w) := by
  unfold WritesD
  cases hd : c.x.d with
  | v d =>
    have hv (u : Store Word) : { c.put n f w with v := u } = { w with v := u } := by
      simp only [Ctx.put, hd]
      exact foldl_setVval_only_v ..
    refine ⟨?_, (congrArg Warp.s (hv w.v) :), fun l hl => ?_, fun r l hr hno => ?_⟩
    · exact congrArg (fun x : Warp => { x with s := w.s }) (hv w.v)
    · have := d.isLt
      refine vval_of_digits _ l n _ _ fun k hk => ?_
      rw [Ctx.vreg_put c hd n f w _ l hn (by omega), if_pos ⟨hl, by omega, by omega⟩, Nat.add_sub_cancel_left]
    · rw [Ctx.vreg_put c hd n f w r l hn hr]
      exact if_neg hno
  | s d =>
    cases hm : c.mask with
    | nil => simp [Ctx.put, hd, hm]
    | cons m ms =>
      have hp : c.put n f w = w.setSval d.toNat n (f m) := by simp only [Ctx.put, hd, hm]
      rw [hp]
      have hs (u : Store Word) := setSval_only_s n w d.toNat (f m) u
      refine ⟨?_, (congrArg Warp.v (hs w.s) :), fun l hl => ?_, fun r hno => ?_⟩
      · exact congrArg (fun x : Warp => { x with v := w.v }) (hs w.s)
      · cases hl
        refine sval_of_digits _ n _ _ fun k hk => ?_
        rw [Warp.sreg_setSval, if_pos (by omega), Nat.add_sub_cancel_left]
      · rw [Warp.sreg_setSval, if_neg fun h => hno ⟨by simp, h⟩]
  | b d => simp [Ctx.put, hd]
  | none d => simp [Ctx.put, hd]

/-- A row that puts the value `f` into its `n` destination registers gives every property that `f` has. -/
theorem givesSuch_of_valBody {i : Instr} {n : Nat} {f : Ctx → Nat → Nat} {p : Ctx → Nat → Nat → Prop} (hn : n ≤ 256)
    (he : ∀ s, exec i s = issueReg i s (valBody n f)) (hp : ∀ s c, Issues i s c → ∀ l ∈ c.mask, p c l (f c l)) : GivesSuch i n p :=
  fun s c hi => ⟨f c, _, leaves_of_regBody hi (he s) rfl, writesD_put c n hn (f c) c.w, hp s c hi⟩

end Sys2Proof.Claims
end

section
/-! PROOFS. Bits and elements: single bits, packed values, signed readings, and the bit functions of the integer rows (05 R53-R55, 09 R110). -/

namespace Sys2Proof.Machine

/-! ### Bits of numbers -/

theorem bit_eq_testBit (x n : Nat) : bit x n = x.testBit n := by
  rw [bit, Nat.testBit_eq_decide_div_mod_eq]

theorem leadZeros_le (w x : Nat) : leadZeros w x ≤ w := by
  induction w with
  | zero => exact Nat.le_refl 0
  | succ w ih => unfold leadZeros; split <;> omega

/-- The bits that `leadZeros` counts are zero. -/
theorem testBit_of_leadZeros {w x j : Nat} (h : w - leadZeros w x ≤ j) (hj : j < w) : x.testBit j = false := by
  induction w with
  | zero => omega
  | succ w ih =>
    have hle := leadZeros_le w x
    unfold leadZeros at h
    split at h
    · omega
    · rename_i hb
      rcases Nat.lt_or_eq_of_le (Nat.lt_succ_iff.1 hj) with hlt | rfl
      · exact ih (by omega) hlt
      · rw [bit_eq_testBit] at hb; simpa using hb

/-- The bit at which `leadZeros` stops is one. -/
theorem testBit_leadZeros {w x : Nat} (h : leadZeros w x < w) : x.testBit (w - 1 - leadZeros w x) = true := by
  induction w with
  | zero => omega
  | succ w ih =>
    unfold leadZeros at h ⊢
    split
    · rename_i hb
      rw [bit_eq_testBit] at hb; simpa using hb
    · rename_i hb
      rw [if_neg hb] at h
      rw [show w + 1 - 1 - (1 + leadZeros w x) = w - 1 - leadZeros w x by omega]
      exact ih (by omega)

theorem oneBits_eq_length (w x : Nat) : oneBits w x = ((List.range w).filter fun j => x.testBit j).length := by
  induction w with
  | zero => rfl
  | succ w ih =>
    rw [oneBits, ih, bit_eq_testBit, List.range_succ, List.filter_append, List.length_append, Nat.add_comm]
    cases h : x.testBit w <;> simp [h]

theorem reverseBits_lt (w x : Nat) : reverseBits w x < 2 ^ w := by
  induction w generalizing x with
  | zero => exact Nat.one_pos
  | succ w ih =>
    have := ih (x / 2)
    unfold reverseBits
    split <;> omega

theorem testBit_reverseBits {w x j : Nat} (hj : j < w) : (reverseBits w x).testBit j = x.testBit (w - 1 - j) := by
  induction w generalizing x with
  | zero => omega
  | succ w ih =>
    have hlt := reverseBits_lt w (x / 2)
    rcases Nat.lt_or_eq_of_le (Nat.lt_succ_iff.1 hj) with h | rfl
    · have hb : (reverseBits (w + 1) x).testBit j = (reverseBits w (x / 2)).testBit j := by
        rw [reverseBits]
        split
        · exact Nat.testBit_two_pow_add_gt h _
        · rw [Nat.zero_add]
      rw [hb, ih h, Nat.testBit_div_two]
      congr 1; omega
    · have hz := Nat.testBit_lt_two_pow hlt
      rw [reverseBits, bit_eq_testBit, Nat.add_sub_cancel, Nat.sub_self]
      split
      · rw [Nat.testBit_two_pow_add_eq, hz]; simp_all
      · rw [Nat.zero_add, hz]; simp_all

/-! ### Packed values (05 R53) -/

theorem joinElems_elem (w : Nat) : ∀ (l : List Nat) (k : Nat) (hk : k < l.length), (∀ e ∈ l, e < 2 ^ w) →
    joinElems w l / 2 ^ (w * k) % 2 ^ w = l[k]
  | e :: r, 0, _, h => by
    have he := h e List.mem_cons_self
    simp [joinElems, Nat.mod_eq_of_lt he]
  | e :: r, k + 1, hk, h => by
    have he := h e List.mem_cons_self
    rw [joinElems, Nat.mul_succ, Nat.add_comm (w * k), Nat.pow_add, ← Nat.div_div_eq_div_mul,
      Nat.add_mul_div_left _ _ (Nat.two_pow_pos w), Nat.div_eq_of_lt he, Nat.zero_add]
    exact joinElems_elem w r k (by simpa using hk) fun x hx => h x (List.mem_cons_of_mem _ hx)

/-- An element of a packed value is what was computed for its place. -/
theorem elem_packT {t : Ty} {f : Nat → Nat} {k : Nat} (hk : k < tyElems t) (hf : ∀ j, f j < 2 ^ tyWidth t) :
    elem t (packT t f) k = f k := by
  rw [elem, packT, joinElems_elem _ _ k (by simpa using hk) fun e he => ?_]
  · simp
  · obtain ⟨j, -, rfl⟩ := List.mem_map.1 he
    exact hf j

theorem elem_lt (t : Ty) (x k : Nat) : elem t x k < 2 ^ tyWidth t := Nat.mod_lt _ (Nat.two_pow_pos _)

theorem toBits_lt (n : Nat) (z : Int) : toBits n z < 2 ^ n := by
  have := Nat.two_pow_pos n
  unfold toBits
  omega

/-! ### Integers read from bits (05 R55) -/

theorem toBits_eq_ofInt (n : Nat) (z : Int) : toBits n z = (BitVec.ofInt n z).toNat := by
  rw [BitVec.toNat_ofInt, toBits]

theorem signExt_eq_toInt (x n : Nat) : signExt x n = (BitVec.ofNat n x).toInt := by
  rw [BitVec.toInt_eq_toNat_cond, BitVec.toNat_ofNat, signExt]
  cases n with
  | zero => simp [Nat.mod_one]
  | succ n =>
    have h : 2 ^ (n + 1) = 2 * 2 ^ n := by rw [Nat.pow_succ, Nat.mul_comm]
    simp only [Nat.add_one_ne_zero, if_false, Nat.add_sub_cancel]
    split <;> split <;> omega

/-- Bits [p + n − 1 : p] of an integer, however far they lie beyond its sign, from its reading in p + n bits. -/
theorem ofInt_div_two_pow (n p : Nat) (z : Int) :
    BitVec.ofInt n (z / (2 ^ p : Nat)) = (BitVec.ofInt (n + p) z).extractLsb' p n := by
  have hp : (0 : Int) < (2 ^ p : Nat) := by exact_mod_cast Nat.two_pow_pos p
  have key : z / (2 ^ p : Nat) % (2 ^ n : Nat) = z % (2 ^ (n + p) : Nat) / (2 ^ p : Nat) := by
    have hz : z % (2 ^ (n + p) : Nat) = z + (2 ^ p : Nat) * -((2 ^ n : Nat) * (z / (2 ^ p : Nat) / (2 ^ n : Nat))) := by
      rw [Int.emod_def, Nat.pow_add, Nat.mul_comm, Nat.cast_mul, Int.ediv_ediv_of_nonneg hp.le]
      ring
    rw [hz, Int.add_mul_ediv_left _ _ hp.ne', Int.emod_def, Int.sub_eq_add_neg]
  have hpos : 0 ≤ z % (2 ^ (n + p) : Nat) := Int.emod_nonneg _ (by positivity)
  obtain ⟨m, hm⟩ := Int.eq_ofNat_of_zero_le hpos
  have hlt : m / 2 ^ p < 2 ^ n := by
    have := Int.emod_lt_of_pos z (b := (2 ^ (n + p) : Nat)) (by positivity)
    rw [hm] at this
    rw [Nat.div_lt_iff_lt_mul (Nat.two_pow_pos p), ← Nat.pow_add]
    exact_mod_cast this
  apply BitVec.eq_of_toNat_eq
  rw [BitVec.toNat_ofInt, key, BitVec.extractLsb'_toNat, BitVec.toNat_ofInt, hm, Int.toNat_natCast, Nat.shiftRight_eq_div_pow,
    Nat.mod_eq_of_lt hlt]
  rfl

end Sys2Proof.Machine
end

section
/-! PROOFS. The shifts, bit fields and bit counts give their results (09 R110, R112). -/

namespace Sys2Proof.Machine

/-! ### Widths of operands (05 R54, 07 R81) -/

theorem Warp.vval_lt (w : Warp) (l : Nat) : ∀ n d, w.vval d n l < 2 ^ (32 * n)
  | 0, _ => Nat.one_pos
  | n + 1, d => by
    have := w.vval_lt l n (d + 1)
    have := (w.vreg d l).isLt
    rw [Warp.vval, Nat.mul_succ, Nat.pow_add]
    omega

theorem Warp.sval_lt (w : Warp) : ∀ n d, w.sval d n < 2 ^ (32 * n)
  | 0, _ => Nat.one_pos
  | n + 1, d => by
    have := w.sval_lt n (d + 1)
    have := (w.sreg d).isLt
    rw [Warp.sval, Nat.mul_succ, Nat.pow_add]
    omega

theorem Crew.bval_lt (cr : Crew) (clk q : Nat) : ∀ n d, cr.bval clk q d n < 2 ^ (32 * n)
  | 0, _ => Nat.one_pos
  | n + 1, d => by
    have := cr.bval_lt clk q n (d + 1)
    have := (cr.bval1 clk q d).isLt
    rw [Crew.bval, Nat.mul_succ, Nat.pow_add]
    omega

theorem immVal_b32_lt (n : Nat) (lit : Option (BitVec 64)) (imm : BitVec 12) : immVal .b32 n lit imm < 2 ^ (32 * n) := by
  cases lit with
  | some y => exact Nat.mod_lt _ (Nat.two_pow_pos _)
  | none => exact BitVec.isLt _

/-- An operand of type 0 fits its registers. -/
theorem Ctx.src_lt (c : Ctx) {u : Use} (hu : u.ity = .b32) (x : Src) (l : Nat) : c.src u x l < 2 ^ (32 * u.n) := by
  cases x with
  | v r => exact Warp.vval_lt ..
  | s r => exact Warp.sval_lt ..
  | b r => exact Crew.bval_lt ..
  | imm => rw [Ctx.src, hu]; exact immVal_b32_lt ..

theorem tyRegs_le (t : Ty) : tyRegs t ≤ 256 := by cases t <;> decide

/-! ### Shifts by counts at and above the width -/

theorem toNat_shiftLeft_min {w : Nat} (x : BitVec w) (n : Nat) : (x <<< n).toNat = x.toNat * 2 ^ Nat.min n w % 2 ^ w := by
  rw [BitVec.toNat_shiftLeft, Nat.shiftLeft_eq]
  rcases Nat.le_total n w with h | h
  · rw [show Nat.min n w = n from Nat.min_eq_left h]
  · rw [show Nat.min n w = w from Nat.min_eq_right h, Nat.mul_mod_left]
    exact Nat.mod_eq_zero_of_dvd ((Nat.pow_dvd_pow 2 h).mul_left _)

theorem toNat_ushiftRight_min {w : Nat} (x : BitVec w) (n : Nat) : (x >>> n).toNat = x.toNat / 2 ^ Nat.min n w := by
  rw [BitVec.toNat_ushiftRight, Nat.shiftRight_eq_div_pow]
  rcases Nat.le_total n w with h | h
  · rw [show Nat.min n w = n from Nat.min_eq_left h]
  · rw [show Nat.min n w = w from Nat.min_eq_right h, Nat.div_eq_of_lt x.isLt,
      Nat.div_eq_of_lt (Nat.lt_of_lt_of_le x.isLt (Nat.pow_le_pow_right (by omega) h))]

theorem sshiftRight_min {w : Nat} (x : BitVec w) (n : Nat) : x.sshiftRight n = x.sshiftRight (Nat.min n w) := by
  rcases Nat.le_total n w with h | h
  · rw [show Nat.min n w = n from Nat.min_eq_left h]
  · rw [show Nat.min n w = w from Nat.min_eq_right h]
    apply BitVec.eq_of_getLsbD_eq
    intro i hi
    rw [BitVec.getLsbD_sshiftRight, BitVec.getLsbD_sshiftRight, if_neg (by omega : ¬ n + i < w), if_neg (by omega : ¬ w + i < w)]

end Sys2Proof.Machine

namespace Sys2Proof.Claims

open Sys2Proof.Machine

/-! ### Rows of shifts -/

@[simp] theorem toNat_bv (t : Ty) (x k : Nat) : (bv t x k).toNat = elem t x k := by
  rw [bv, BitVec.toNat_ofNat, Nat.mod_eq_of_lt (elem_lt t x k)]

theorem elem_shlV (t : Ty) (c : Ctx) (l k : Nat) (hk : k < tyElems t) :
    elem t (shlV t c l) k = (bv t (c.a l) k <<< shiftCount t c l k).toNat := by
  have hsh (j : Nat) : (if tyWidth t ≤ shiftCount t c l j then 0 else elem t (c.a l) j * 2 ^ shiftCount t c l j % 2 ^ tyWidth t) =
      (bv t (c.a l) j <<< shiftCount t c l j).toNat := by
    rw [toNat_shiftLeft_min, toNat_bv]
    split
    · rename_i h
      rw [show Nat.min _ _ = tyWidth t from Nat.min_eq_right h, Nat.mul_mod_left]
    · rename_i h
      rw [show Nat.min _ _ = shiftCount t c l j from Nat.min_eq_left (by omega)]
  rw [shlV, elem_packT hk fun j => ?_]
  · exact hsh k
  · exact hsh j ▸ BitVec.isLt _

theorem elem_shrV (t : Ty) (c : Ctx) (l k : Nat) (hk : k < tyElems t) :
    elem t (shrV t c l) k = (bv t (c.a l) k >>> shiftCount t c l k).toNat := by
  have hsh (j : Nat) : (if tyWidth t ≤ shiftCount t c l j then 0 else elem t (c.a l) j / 2 ^ shiftCount t c l j) =
      (bv t (c.a l) j >>> shiftCount t c l j).toNat := by
    rw [toNat_ushiftRight_min, toNat_bv]
    split
    · rename_i h
      rw [show Nat.min _ _ = tyWidth t from Nat.min_eq_right h, Nat.div_eq_of_lt (elem_lt ..)]
    · rename_i h
      rw [show Nat.min _ _ = shiftCount t c l j from Nat.min_eq_left (by omega)]
  rw [shrV, elem_packT hk fun j => ?_]
  · exact hsh k
  · exact hsh j ▸ BitVec.isLt _

theorem elem_sarV (t : Ty) (c : Ctx) (l k : Nat) (hk : k < tyElems t) :
    elem t (sarV t c l) k = ((bv t (c.a l) k).sshiftRight (shiftCount t c l k)).toNat := by
  rw [sarV, elem_packT hk fun _ => toBits_lt .., toBits_eq_ofInt, signExt_eq_toInt, sshiftRight_min, BitVec.sshiftRight,
    Int.shiftRight_eq_div_pow]
  rfl

/-! ### `dsh` -/

theorem dsh_sources {x : Head} {w : WC} {s : State} {c : Ctx} (hi : Issues (.dsh x w) s c) (l : Nat) :
    c.a l < 2 ^ 32 ∧ c.b l < 2 ^ 32 := by
  obtain ⟨f, hf⟩ := form_of_encOk hi.encOk
  have hform := hi.atIssue.form_eq hf
  obtain ⟨-, rfl⟩ := formIf_some.1 hf
  have ha : c.form.a = .ty .b32 := by rw [hform]; rfl
  have hb : c.form.b = .ty .b32 := by rw [hform]; rfl
  exact ⟨by rw [Ctx.a, ha]; exact c.src_lt rfl .., by rw [Ctx.b, hb]; exact c.src_lt rfl ..⟩

theorem toNat_pair {a b : Nat} (ha : a < 2 ^ 32) (hb : b < 2 ^ 32) : (word b ++ word a).toNat = a + 2 ^ 32 * b := by
  rw [BitVec.toNat_append, word, word, BitVec.toNat_ofNat, BitVec.toNat_ofNat, Nat.mod_eq_of_lt ha, Nat.mod_eq_of_lt hb,
    ← Nat.shiftLeft_add_eq_or_of_lt ha, Nat.shiftLeft_eq]
  omega

/-- `dsh` shifts the pair {B, A} by its count, or by its count modulo 64; a count of 64 and more shifts every bit out. -/
theorem dshV_eq {c : Ctx} {l : Nat} (ha : c.a l < 2 ^ 32) (hb : c.b l < 2 ^ 32) (left modulo : Bool) :
    dshV left modulo c l =
      let n := if modulo then c.c l % 64 else c.c l
      if left then ((word (c.b l) ++ word (c.a l)) <<< n).toNat / 2 ^ 32 else ((word (c.b l) ++ word (c.a l)) >>> n).toNat % 2 ^ 32 := by
  have hn : (if modulo then c.c l % 64 else Nat.min (c.c l) 64) = Nat.min (if modulo then c.c l % 64 else c.c l) (32 + 32) := by
    cases modulo
    · rfl
    · exact (Nat.min_eq_left (Nat.mod_lt _ (by omega)).le).symm
  dsimp only
  rw [toNat_shiftLeft_min, toNat_ushiftRight_min, toNat_pair ha hb, dshV, hn]

/-- The row of `dsh`: bit 0 of `SUB` chooses the direction, bit 1 the count modulo 64 (09 R112). -/
theorem dsh_gives {x : Head} {w : WC} {sub : BitVec 7} (h : x.sub = sub) :
    Gives (.dsh x w) 1 fun c l =>
      let n := if bit sub.toNat 1 then c.c l % 64 else c.c l
      if bit sub.toNat 0 then ((word (c.b l) ++ word (c.a l)) <<< n).toNat / 2 ^ 32
      else ((word (c.b l) ++ word (c.a l)) >>> n).toNat % 2 ^ 32 := by
  subst h
  refine givesSuch_of_valBody (by decide) (fun _ => rfl) fun _ c hi l _ => ?_
  obtain ⟨ha, hb⟩ := dsh_sources hi l
  exact dshV_eq ha hb ..

/-! ### `fext` -/

/-- Bit `q` of a 32-bit value read as an unbounded integer: beyond its 32 bits the sign in type 1, zero in type 2 (09 R112). -/
def unboundedBit (t : Ty) (a q : Nat) : Bool := if q < 32 then a.testBit q else decide (t = .s32) && a.testBit 31

theorem getLsbD_ofInt_elemVal {t : Ty} (ht : t = .s32 ∨ t = .n32) (a : Nat) {m q : Nat} (hq : q < m) :
    (BitVec.ofInt m (elemVal t a 0)).getLsbD q = unboundedBit t a q := by
  unfold unboundedBit
  rcases ht with rfl | rfl
  · have he : elemVal .s32 a 0 = (BitVec.ofNat 32 a).toInt := by
      rw [elemVal, if_pos (show tySigned .s32 = true from rfl), signExt_eq_toInt]
      exact congrArg BitVec.toInt (BitVec.eq_of_toNat_eq (by simp [elem, tyWidth]))
    rw [he, ← BitVec.signExtend, BitVec.getLsbD_signExtend, BitVec.msb_eq_getLsbD_last, BitVec.getLsbD_ofNat, BitVec.getLsbD_ofNat]
    by_cases h : q < 32 <;> simp [h, hq]
  · have he : elemVal .n32 a 0 = ((a % 2 ^ 32 : Nat) : Int) := by simp [elemVal, elem, tyWidth, tySigned]
    rw [he, BitVec.ofInt_natCast, BitVec.getLsbD_ofNat, Nat.testBit_mod_two_pow]
    by_cases h : q < 32 <;> simp [h, hq]

/-- A field of `n` bits at `p` of an unbounded integer. -/
theorem testBit_field {t : Ty} (ht : t = .s32 ∨ t = .n32) (a n p j : Nat) :
    (toBits n (elemVal t a 0 / (2 ^ p : Nat))).testBit j = (decide (j < n) && unboundedBit t a (p + j)) := by
  rw [toBits_eq_ofInt, ofInt_div_two_pow, BitVec.testBit_toNat, BitVec.getLsbD_extractLsb']
  by_cases h : j < n
  · rw [getLsbD_ofInt_elemVal ht a (by omega)]
  · simp [h]

theorem testBit_toBits_signExt (f n : Nat) {m j : Nat} (hj : j < m) (hf : ∀ i, n ≤ i → f.testBit i = false) :
    (toBits m (signExt f n)).testBit j = if j < n then f.testBit j else decide (0 < n) && f.testBit (n - 1) := by
  rw [toBits_eq_ofInt, signExt_eq_toInt, BitVec.testBit_toNat, ← BitVec.signExtend, BitVec.getLsbD_signExtend,
    BitVec.msb_eq_getLsbD_last, BitVec.getLsbD_ofNat, BitVec.getLsbD_ofNat]
  by_cases h : j < n
  · simp [h, hj]
  · cases n with
    | zero => simp [hj]
    | succ n => simp [h, hj]

theorem fext_type {x : Head} {w : WC} (hok : encOk (.fext x w) = true) : w.type = .s32 ∨ w.type = .n32 := by
  obtain ⟨f, hf⟩ := form_of_encOk hok
  obtain ⟨h, -⟩ := formIf_some.1 hf
  simp only [tyIn, Bool.and_eq_true, List.any_cons, List.any_nil, Bool.or_eq_true, decide_eq_true_eq] at h
  obtain ⟨⟨ht, -⟩, -⟩ := h
  simpa [eq_comm] using ht

theorem testBit_fextV {t : Ty} (ht : t = .s32 ∨ t = .n32) (c : Ctx) (l : Nat) {j : Nat} (hj : j < 32) :
    (fextV t c l).testBit j =
      let p := c.b l % 256
      let n := min (c.b l / 256 % 256) 32
      if j < n then unboundedBit t (c.a l) (p + j) else decide (t = .s32) && decide (0 < n) && unboundedBit t (c.a l) (p + (n - 1)) := by
  have hp : bits (c.b l) 7 0 = c.b l % 256 := by simp [bits]
  have hn : Nat.min (bits (c.b l) 15 8) 32 = min (c.b l / 256 % 256) 32 := by simp [bits]
  dsimp only
  rw [fextV, hp, hn, Ctx.ea]
  generalize hn' : min (c.b l / 256 % 256) 32 = n
  have hfield := testBit_field ht (c.a l) n (c.b l % 256)
  generalize toBits n _ = f at hfield ⊢
  rcases ht with rfl | rfl
  · rw [if_pos (show tySigned .s32 = true from rfl), testBit_toBits_signExt _ _ hj fun i hi => by simp [hfield, Nat.not_lt.2 hi]]
    by_cases h : j < n
    · simp [h, hfield]
    · cases n with
      | zero => simp
      | succ n => simp [h, hfield]
  · rw [if_neg (by decide), hfield]
    by_cases h : j < n <;> simp [h]

/-! ### `fins` -/

theorem testBit_finsV (c : Ctx) (l : Nat) {j : Nat} (hj : j < 32) :
    (finsV c l).testBit j =
      let p := c.c l % 256
      if p ≤ j ∧ j < p + min (c.c l / 256 % 256) 32 then (c.a l).testBit (j - p) else (c.b l).testBit j := by
  have hp : bits (c.c l) 7 0 = c.c l % 256 := by simp [bits]
  have hn : Nat.min (bits (c.c l) 15 8) 32 = min (c.c l / 256 % 256) 32 := by simp [bits]
  dsimp only
  rw [finsV, hp, hn]
  generalize c.c l % 256 = p
  generalize min (c.c l / 256 % 256) 32 = n
  have hm : (2 ^ n - 1) * 2 ^ p % 2 ^ 32 < 2 ^ 32 := Nat.mod_lt _ (by decide)
  have hmask : ((2 ^ n - 1) * 2 ^ p % 2 ^ 32).testBit j = decide (p ≤ j ∧ j < p + n) := by
    rw [Nat.testBit_mod_two_pow, Nat.testBit_mul_two_pow, Nat.testBit_two_pow_sub_one]
    by_cases h : p ≤ j
    · simp [h, hj, show j - p < n ↔ j < p + n by omega]
    · simp [h]
  rw [Nat.testBit_or, Nat.testBit_and, Nat.testBit_and, Nat.sub_sub, Nat.add_comm 1, Nat.testBit_two_pow_sub_succ hm, hmask,
    Nat.testBit_mod_two_pow, Nat.testBit_mul_two_pow]
  by_cases h : p ≤ j ∧ j < p + n
  · simp [h, hj]
  · simp [h, hj]

end Sys2Proof.Claims

section

open Sys2Proof Sys2Proof.Machine Sys2Proof.Claims

/-- Settles O13, row by row: every row puts one value into its destination, and the lemma of the row says what that value is. -/
theorem shiftsAndBitFieldsGiveTheirResults : Obligations.ShiftsAndBitFieldsGiveTheirResults := by
  unfold Obligations.ShiftsAndBitFieldsGiveTheirResults
  intro x w
  have hr := tyRegs_le w.type
  refine ⟨?shl, ?shr, ?sar, ?dshRight, ?dshLeft, ?dshRightMod, ?dshLeftMod, ?fext, ?fins, ?clz, ?popc, ?brev⟩
  case shl => exact givesSuch_of_valBody hr (fun _ => rfl) fun _ c _ l _ => elem_shlV w.type c l
  case shr => exact givesSuch_of_valBody hr (fun _ => rfl) fun _ c _ l _ => elem_shrV w.type c l
  case sar => exact givesSuch_of_valBody hr (fun _ => rfl) fun _ c _ l _ => elem_sarV w.type c l
  case dshRight => exact dsh_gives
  case dshLeft => exact dsh_gives
  case dshRightMod => exact dsh_gives
  case dshLeftMod => exact dsh_gives
  case fext => exact givesSuch_of_valBody (by decide) (fun _ => rfl) fun _ c hi l _ _ hj => testBit_fextV (fext_type hi.encOk) c l hj
  case fins => exact givesSuch_of_valBody (by decide) (fun _ => rfl) fun _ c _ l _ _ hj => testBit_finsV c l hj
  case clz =>
    exact givesSuch_of_valBody (by decide) (fun _ => rfl) fun _ c _ l _ =>
      ⟨leadZeros_le .., fun _ => testBit_of_leadZeros, testBit_leadZeros⟩
  case popc => exact givesSuch_of_valBody (by decide) (fun _ => rfl) fun _ c _ l _ => oneBits_eq_length ..
  case brev => exact givesSuch_of_valBody hr (fun _ => rfl) fun _ c _ l _ _ hj => testBit_reverseBits hj

end
end

section
/-! PROOFS. The index registers reach, write and fault as 09 R121 and R122 say. -/

namespace Sys2Proof.Machine

/-! ### Registers written lane by lane -/

/-- A lane register read after one register, perhaps another in each, has been written in lanes of a list. -/
theorem vreg_foldl_setV (ls : List Nat) (g : Nat → Nat) (f : Nat → Word) (w : Warp) {r : Nat} (j : Nat) (hg : ∀ l ∈ ls, g l < 512)
    (hr : r < 512) : (ls.foldl (fun w l => w.setV (g l) l (f l)) w).vreg r j = if j ∈ ls ∧ r = g j then f j else w.vreg r j := by
  induction ls generalizing w with
  | nil => simp
  | cons l t ih =>
    obtain ⟨hl, ht⟩ := List.forall_mem_cons.1 hg
    rw [List.foldl_cons, ih _ ht, Warp.vreg_setV _ _ _ _ hl hr]
    by_cases hj : l = j
    · subst hj
      by_cases hrg : r = g l <;> simp [hrg, Ne.symm]
    · simp [hj, Ne.symm hj]

theorem foldl_setV_only_v (ls : List Nat) (g : Nat → Nat) (f : Nat → Word) (w : Warp) (u : Store Word) :
    { ls.foldl (fun w l => w.setV (g l) l (f l)) w with v := u } = { w with v := u } := by
  induction ls generalizing w with
  | nil => rfl
  | cons l t ih => exact ih _

/-- An index register read after it has been written in lanes of a list. -/
theorem xreg_foldl_setX (ls : List Nat) {k : Nat} (f : Nat → BitVec 16) (w : Warp) {r : Nat} (j : Nat) (hk : k < 512) (hr : r < 512) :
    (ls.foldl (fun w l => w.setX k l (f l)) w).xreg r j = if j ∈ ls ∧ r = k then f j else w.xreg r j := by
  induction ls generalizing w with
  | nil => simp
  | cons l t ih =>
    rw [List.foldl_cons, ih, Warp.xreg_setX _ _ _ _ hk hr]
    by_cases hj : l = j
    · subst hj
      by_cases hrk : r = k <;> simp [hrk, Ne.symm]
    · simp [hj, Ne.symm hj]

theorem foldl_setX_only_x (ls : List Nat) (k : Nat) (f : Nat → BitVec 16) (w : Warp) (u : Store (BitVec 16)) :
    { ls.foldl (fun w l => w.setX k l (f l)) w with x := u } = { w with x := u } := by
  induction ls generalizing w with
  | nil => rfl
  | cons l t ih => exact ih _

end Sys2Proof.Machine

namespace Sys2Proof.Claims

open Sys2Proof.Machine

/-! ### What an index reaches (09 R121) -/

/-- An index faults: it is at or past the limit, or the register that it reaches is not legal. -/
def IndexFaults (c : Ctx) (k b l : Nat) : Prop :=
  (c.w.xreg k l).toNat / 256 ≤ (c.w.xreg k l).toNat % 256 ∨ 256 ≤ reached c k b l ∨ c.vOk (reached c k b l) 1 = false

theorem indexed_snd (c : Ctx) (k b l : Nat) [Decidable (IndexFaults c k b l)] : (c.indexed k b l).2 =
    if IndexFaults c k b l then some { lane := l, code := 0x03, detail := reached c k b l % 256 } else none := by
  have hok : (c.indexReg k b l).2 = true ↔ ¬ IndexFaults c k b l := by
    unfold Ctx.indexReg IndexFaults reached
    simp [and_assoc]
  unfold Ctx.indexed
  by_cases h : IndexFaults c k b l
  · simp only [h, if_true, if_neg (fun e => hok.1 e h)]; rfl
  · simp only [h, if_false, if_pos (hok.2 h)]

theorem mem_indexFaults {c : Ctx} {k b l : Nat} (hl : l ∈ c.mask) (h : IndexFaults c k b l) :
    ({ lane := l, code := 0x03, detail := reached c k b l % 256 } : LaneFault) ∈ c.indexFaults k b := by
  classical
  exact List.mem_filterMap.2 ⟨l, hl, by rw [indexed_snd, if_pos h]⟩

theorem indexFaults_of_reaches {c : Ctx} {k b : Nat} (h : Reaches c k b) : c.indexFaults k b = [] := by
  classical
  refine List.filterMap_eq_nil_iff.2 fun l hl => ?_
  obtain ⟨hlim, hnum, hok, -⟩ := h l hl
  rw [indexed_snd, if_neg]
  rintro (h | h | h)
  · omega
  · omega
  · rw [hok] at h; cases h

theorem aReg_of {c : Ctx} {n : BitVec 8} (h : c.x.a = .v n) : c.aReg = n.toNat := by
  unfold Ctx.aReg; rw [h]

/-! ### `vget` and `vput` (09 R121) -/

theorem vgetBody_of_reaches {c : Ctx} {k b : Nat} (hb : c.aReg = b) (h : Reaches c k b) (s : State) :
    vgetBody k c s = regBody (fun c w => c.put 1 (fun l => (c.w.vreg (reached c k c.aReg l) l).toNat) w) c s := by
  rw [vgetBody, hb, indexFaults_of_reaches h]
  rfl

theorem vgetBody_of_faults {c : Ctx} {k b : Nat} (hb : c.aReg = b) (h : c.indexFaults k b ≠ []) (s : State) :
    vgetBody k c s = .fault s (c.indexFaults k b) := by
  rw [vgetBody, hb]
  exact if_neg (by simpa using h)

theorem vputBody_of_reaches {c : Ctx} {k : Nat} {d : BitVec 8} (hd : c.x.d = .v d) (h : Reaches c k d.toNat) (s : State) :
    vputBody k c s = .done (c.setWarp s (c.mask.foldl (fun w l => w.setV (reached c k d.toNat l) l (word (c.a l))) (c.warpIn s))) .next []
      (c.mask.map fun l => (RegKind.v, reached c k d.toNat l, l)) := by
  simp only [vputBody, hd, indexFaults_of_reaches h]
  rfl

theorem vputBody_of_faults {c : Ctx} {k : Nat} {d : BitVec 8} (hd : c.x.d = .v d) (h : c.indexFaults k d.toNat ≠ []) (s : State) :
    vputBody k c s = .fault s (c.indexFaults k d.toNat) := by
  simp only [vputBody, hd]
  exact if_neg (by simpa using h)

theorem vget_leaves {x : Head} {w : WC} {s : State} {c : Ctx} {n : BitVec 8} (ha : x.a = .v n) (hi : Issues (.vget x w) s c)
    (hr : Reaches c (x.sub.toNat % 4) n.toNat) :
    ∃ w', Leaves (.vget x w) s c w' ∧
      WritesD c 1 (fun l => (c.w.vreg (reached c (x.sub.toNat % 4) n.toNat l) l).toNat) c.w w' := by
  have hx : x = c.x := Option.some.inj hi.atIssue.head
  have hb : c.aReg = n.toNat := aReg_of (hx ▸ ha)
  refine ⟨_, leaves_of_regBody hi rfl (vgetBody_of_reaches hb hr _), ?_⟩
  rw [hb]
  exact writesD_put c 1 (by decide) _ c.w

theorem vput_writes {x : Head} {w : WC} {s : State} {c : Ctx} {n : BitVec 8} (hd : x.d = .v n) (hi : Issues (.vput x w) s c)
    (hr : Reaches c (x.sub.toNat % 4) n.toNat) :
    ∃ w', exec (.vput x w) s = .next (c.finish (c.setWarp (issued c s) w') .next []
        (c.mask.map fun l => (RegKind.v, reached c (x.sub.toNat % 4) n.toNat l, l))) ∧
      { w' with v := c.w.v } = c.w ∧ (∀ l ∈ c.mask, w'.vreg (reached c (x.sub.toNat % 4) n.toNat l) l = word (c.a l)) ∧
      ∀ r l, r < 512 → ¬ (l ∈ c.mask ∧ r = reached c (x.sub.toNat % 4) n.toNat l) → w'.vreg r l = c.w.vreg r l := by
  have hx : x = c.x := Option.some.inj hi.atIssue.head
  have hlt (l : Nat) (hl : l ∈ c.mask) : reached c (x.sub.toNat % 4) n.toNat l < 512 := by
    obtain ⟨-, hnum, -, -⟩ := hr l hl
    omega
  have hbody := vputBody_of_reaches (hx ▸ hd : c.x.d = .v n) hr (issued c s)
  rw [warpIn_issued hi.atIssue] at hbody
  refine ⟨_, exec_of_done hi rfl hbody, foldl_setV_only_v .., fun l hl => ?_, fun r l hr hno => ?_⟩
  · rw [vreg_foldl_setV _ _ _ _ l hlt (hlt l hl), if_pos ⟨hl, rfl⟩]
  · rw [vreg_foldl_setV _ _ _ _ l hlt hr, if_neg hno]

/-- A bad index stops `vget` and `vput` before any lane moves, with its fault in every lane that has one. -/
theorem index_raises {x : Head} {w : WC} {s : State} {c : Ctx} {n : BitVec 8} {i : Instr}
    (hn : (i = .vget x w ∧ x.a = .v n) ∨ (i = .vput x w ∧ x.d = .v n)) (hi : Issues i s c)
    (hbad : ∃ l ∈ c.mask, IndexFaults c (x.sub.toNat % 4) n.toNat l) :
    exec i s = .next (c.raise (untouched c s) (c.indexFaults (x.sub.toNat % 4) n.toNat)) := by
  obtain ⟨l, hl, hb⟩ := hbad
  have hne := List.ne_nil_of_mem (mem_indexFaults hl hb)
  rcases hn with ⟨rfl, ha⟩ | ⟨rfl, hd⟩
  · have hx : x = c.x := Option.some.inj hi.atIssue.head
    exact exec_of_fault hi rfl (vgetBody_of_faults (aReg_of (hx ▸ ha)) hne _)
  · have hx : x = c.x := Option.some.inj hi.atIssue.head
    exact exec_of_fault hi rfl (vputBody_of_faults (hx ▸ hd) hne _)

/-! ### `xset` (09 R122) -/

theorem xset_leaves {x : Head} {w : WC} {s : State} {c : Ctx} (hi : Issues (.xset x w) s c) :
    ∃ w', Leaves (.xset x w) s c w' ∧ { w' with x := c.w.x } = c.w ∧
      (∀ l ∈ c.mask, (w'.xreg (x.sub.toNat % 4) l).toNat =
        if x.sub.getLsbD 2 then
          (c.w.xreg (x.sub.toNat % 4) l).toNat / 256 * 256 + ((c.w.xreg (x.sub.toNat % 4) l).toNat % 256 + c.a l % 256) % 256
        else c.b l % 256 * 256 + c.a l % 256) ∧
      ∀ j l, j < 512 → ¬ (l ∈ c.mask ∧ j = x.sub.toNat % 4) → w'.xreg j l = c.w.xreg j l := by
  have hk : x.sub.toNat % 4 < 512 := by omega
  refine ⟨_, leaves_of_regBody hi rfl rfl, foldl_setX_only_x .., fun l hl => ?_, fun j l hj hno => ?_⟩
  · have := (c.w.xreg (x.sub.toNat % 4) l).isLt
    rw [xsetBody, xreg_foldl_setX _ _ _ l hk hk, if_pos ⟨hl, rfl⟩, bit_eq_testBit, ← BitVec.getLsbD, ← Nat.add_mod,
      BitVec.toNat_ofNat, Nat.mod_eq_of_lt]
    split <;> omega
  · rw [xsetBody, xreg_foldl_setX _ _ _ l hk hj, if_neg hno]

theorem dstOk_of_encOk {i : Instr} {f : Form} {x : Head} (h : encOk i = true) (hf : form (expand i) = some f)
    (hx : x96Head (expand i) = some x) : dstOk f.d x.d = true := by
  simp only [Machine.encOk, hf, hx, headOk, Bool.and_eq_true] at h
  tauto

theorem dstOk_none {d : Dst} (h : dstOk .none d = true) : d = .none 0 := by
  cases d <;> simp_all [dstOk]

theorem xset_encoding {x : Head} {w : WC} (h : encOk (.xset x w) = true) : x.d = .none 0 ∧ x.sub.toNat < 8 := by
  obtain ⟨f, hf⟩ := form_of_encOk h
  have hd := dstOk_of_encOk h hf rfl
  obtain ⟨hok, rfl⟩ := formIf_some.1 hf
  exact ⟨dstOk_none hd, of_decide_eq_true (Bool.and_eq_true_iff.1 hok).2⟩

theorem xset_add_reads_no_b {x : Head} {w : WC} {s : State} {c : Ctx} (hc : s.ctx? (.xset x w) = some c) (h : x.sub.getLsbD 2 = true) :
    c.form.b.n = 0 := by
  have hsub : ¬ x.sub.toNat < 4 := Nat.not_lt.2 (Nat.ge_two_pow_of_testBit h)
  have hform := State.atIssue_of_ctx hc
  cases hf : form (expand (.xset x w)) with
  | none => rw [hform.form, hf]; rfl
  | some f =>
    rw [hform.form_eq hf]
    obtain ⟨-, rfl⟩ := formIf_some.1 hf
    show (if x.sub.toNat < 4 then Use.any 1 .b32 else .unread).n = 0
    rw [if_neg hsub]
    rfl

end Sys2Proof.Claims

section

open Sys2Proof Sys2Proof.Machine Sys2Proof.Claims

/-- Settles O27, instruction by instruction; a bad index is the one that `IndexFaults` names. -/
theorem indexedRegisters : Obligations.IndexedRegisters := by
  unfold Obligations.IndexedRegisters
  intro x w
  refine ⟨fun s c n => vget_leaves, fun s c n => vput_writes, fun s c => xset_leaves, xset_encoding, fun s c => xset_add_reads_no_b, ?_⟩
  intro s c n i hn hi bad hbad
  exact ⟨_, index_raises hn hi hbad, fun l => mem_indexFaults⟩

end
end

section
/-! PROOFS. A branch parts its split (09 R138): the groups of its targets, the splits that it leaves, and its count in `%mpred` (03 R43). -/

namespace Sys2Proof.Machine

/-! ### Groups of lanes by target -/

/-- `g` groups the lanes of `t` by target: one group for each target, with the lanes that go there. -/
structure Groups (t : List (Nat × Addr)) (g : List (Addr × List Nat)) : Prop where
  lanes    : ∀ e ∈ g, ∀ l, l ∈ e.2 ↔ (l, e.1) ∈ t
  targets  : ∀ p ∈ t, ∃ e ∈ g, e.1 = p.2
  distinct : g.Pairwise fun e f => e.1 ≠ f.1
  nonempty : ∀ e ∈ g, e.2 ≠ []

theorem Groups.cons_known {t : List (Nat × Addr)} {g : List (Addr × List Nat)} (h : Groups t g) (l : Nat) {e : Addr × List Nat}
    (he : e ∈ g) : Groups ((l, e.1) :: t) ((e.1, l :: e.2) :: g.filter fun f => decide (f.1 ≠ e.1)) where
  lanes f hf j := by
    rcases List.mem_cons.1 hf with rfl | hf
    · simp [h.lanes e he j]
    · obtain ⟨hf, hne⟩ := List.mem_filter.1 hf
      have hne := of_decide_eq_true hne
      simp [h.lanes f hf j, hne]
  targets p hp := by
    by_cases hpe : p.2 = e.1
    · exact ⟨_, List.mem_cons_self, hpe.symm⟩
    · rcases List.mem_cons.1 hp with rfl | hp
      · exact absurd rfl hpe
      · obtain ⟨f, hf, hfp⟩ := h.targets p hp
        exact ⟨f, List.mem_cons_of_mem _ (List.mem_filter.2 ⟨hf, decide_eq_true (hfp ▸ hpe)⟩), hfp⟩
  distinct := List.pairwise_cons.2 ⟨fun f hf => (of_decide_eq_true (List.mem_filter.1 hf).2 : f.1 ≠ e.1).symm, h.distinct.filter _⟩
  nonempty f hf := by
    rcases List.mem_cons.1 hf with rfl | hf
    · simp
    · exact h.nonempty f (List.mem_filter.1 hf).1

theorem Groups.cons_new {t : List (Nat × Addr)} {g : List (Addr × List Nat)} (h : Groups t g) (l : Nat) {a : Addr}
    (ha : ∀ e ∈ g, e.1 ≠ a) : Groups ((l, a) :: t) ((a, [l]) :: g) where
  lanes f hf j := by
    rcases List.mem_cons.1 hf with rfl | hf
    · have hj : (j, a) ∉ t := fun hj => by
        obtain ⟨e, he, hea⟩ := h.targets _ hj
        exact ha e he hea
      simp [hj]
    · simp [h.lanes f hf j, ha f hf]
  targets p hp := by
    rcases List.mem_cons.1 hp with rfl | hp
    · exact ⟨_, List.mem_cons_self, rfl⟩
    · obtain ⟨f, hf, hfp⟩ := h.targets p hp
      exact ⟨f, List.mem_cons_of_mem _ hf, hfp⟩
  distinct := List.pairwise_cons.2 ⟨fun f hf => (ha f hf).symm, h.distinct⟩
  nonempty f hf := by
    rcases List.mem_cons.1 hf with rfl | hf
    · simp
    · exact h.nonempty f hf

theorem groups_groupTargets (t : List (Nat × Addr)) : Groups t (groupTargets t) := by
  induction t with
  | nil => exact ⟨by simp [groupTargets], by simp, by simp [groupTargets], by simp [groupTargets]⟩
  | cons p r ih =>
    obtain ⟨l, a⟩ := p
    rw [groupTargets]
    split
    · rename_i e he
      obtain rfl : e.1 = a := by simpa using List.find?_some he
      exact ih.cons_known l (List.mem_of_find?_eq_some he)
    · rename_i hn
      exact ih.cons_new l fun e he => by simpa using List.find?_eq_none.1 hn e he

/-- There are two groups just when there are two targets. -/
theorem Groups.one_lt_length_iff {t : List (Nat × Addr)} {g : List (Addr × List Nat)} (h : Groups t g) :
    1 < g.length ↔ ∃ e ∈ g, ∃ f ∈ g, e.1 ≠ f.1 := by
  match g, h with
  | [], _ => simp
  | [e], _ => simp
  | e :: f :: r, h =>
    have hef : e.1 ≠ f.1 := (List.pairwise_cons.1 h.distinct).1 f List.mem_cons_self
    exact iff_of_true (by simp) ⟨e, List.mem_cons_self, f, List.mem_cons_of_mem _ List.mem_cons_self, hef⟩

/-! ### What a branch leaves of a warp -/

/-- The lanes of the issuing split that a branch leaves to go on. -/
def Ctx.stay (c : Ctx) (t : List (Nat × Addr)) : Split :=
  { lanes := lanesWithout c.sp.lanes (t.map fun e => e.1), pc := c.next, st := .run }

/-- The splits that a branch makes of the issuing one: one for each target, and the lanes that go on. -/
def Ctx.parts (c : Ctx) (t : List (Nat × Addr)) : List Split :=
  (groupTargets t).map (fun g => { lanes := g.2, pc := g.1, st := .run : Split }) ++
    if (c.stay t).lanes.isEmpty then [] else [c.stay t]

theorem Warp.uncur_eq (w : Warp) (ls rest : List Nat) : ∃ cur run, w.uncur ls rest = { w with cur, run } := by
  unfold Warp.uncur
  split
  · exact ⟨w.cur, w.run, rfl⟩
  · split
    · split <;> exact ⟨_, _, rfl⟩
    · exact ⟨w.cur, w.run, rfl⟩

@[simp] theorem Warp.uncur_splits (w : Warp) (ls rest : List Nat) : (w.uncur ls rest).splits = w.splits := by
  obtain ⟨cur, run, h⟩ := w.uncur_eq ls rest
  rw [h]

@[simp] theorem Warp.uncur_meets (w : Warp) (ls rest : List Nat) : (w.uncur ls rest).meets = w.meets := by
  obtain ⟨cur, run, h⟩ := w.uncur_eq ls rest
  rw [h]

@[simp] theorem Warp.uncur_mpred (w : Warp) (ls rest : List Nat) : (w.uncur ls rest).mpred = w.mpred := by
  obtain ⟨cur, run, h⟩ := w.uncur_eq ls rest
  rw [h]

/-- A branch replaces the issuing split by its parts, and is divergent where there are two and more. -/
theorem Ctx.branch_eq (c : Ctx) (t : List (Nat × Addr)) (n : Nat) (w : Warp) : c.branch t n w =
    (if 1 < (c.parts t).length then (w.uncur c.sp.lanes []).countDivergent n else w).replaceSplit c.low (c.parts t) := rfl

theorem Ctx.branch_splits (c : Ctx) (t : List (Nat × Addr)) (n : Nat) (w : Warp) :
    (c.branch t n w).splits =
      w.splits.filter (fun sp => !sp.lanes.any fun l => decide (l = c.low)) ++ (c.parts t).filter fun sp => !sp.lanes.isEmpty := by
  rw [c.branch_eq, Warp.replaceSplit]
  split <;> simp

theorem Ctx.branch_meets (c : Ctx) (t : List (Nat × Addr)) (n : Nat) (w : Warp) : (c.branch t n w).meets = w.meets := by
  rw [c.branch_eq, Warp.replaceSplit]
  split <;> simp

theorem Ctx.branch_mpred (c : Ctx) (t : List (Nat × Addr)) (n : Nat) (w : Warp) :
    (c.branch t n w).mpred = if 1 < (c.parts t).length then (w.countDivergent n).mpred else w.mpred := by
  rw [c.branch_eq, Warp.replaceSplit]
  split <;> simp [Warp.countDivergent]

/-- The splits that hold no lane of the issuing one stay. -/
theorem Ctx.mem_branch_of_other (c : Ctx) (t : List (Nat × Addr)) (n : Nat) {w : Warp} {sp : Split} (hsp : sp ∈ w.splits)
    (hl : c.low ∉ sp.lanes) : sp ∈ (c.branch t n w).splits := by
  rw [c.branch_splits]
  exact List.mem_append_left _ (List.mem_filter.2 ⟨hsp, by simpa using fun l h (e : l = c.low) => hl (e ▸ h)⟩)

theorem Ctx.mem_branch_of_part (c : Ctx) {t : List (Nat × Addr)} (n : Nat) (w : Warp) {sp : Split} (hsp : sp ∈ c.parts t)
    (hl : sp.lanes ≠ []) : sp ∈ (c.branch t n w).splits := by
  rw [c.branch_splits]
  exact List.mem_append_right _ (List.mem_filter.2 ⟨hsp, by simpa using hl⟩)

/-! ### The count of a divergent branch -/

theorem bits_countDivergent {n : Nat} (h : Config.predicted n = true) (w : Warp) :
    bits (w.countDivergent n).mpred.toNat 31 0 = (bits w.mpred.toNat 31 0 + 1) % 2 ^ 32 ∧
      bits (w.countDivergent n).mpred.toNat 63 32 = bits w.mpred.toNat 63 32 := by
  have := w.mpred.isLt
  simp only [Warp.countDivergent, h, if_true, BitVec.toNat_ofNat, bits]
  constructor <;> omega

theorem mpred_countDivergent {n : Nat} (h : ¬ Config.predicted n = true) (w : Warp) : (w.countDivergent n).mpred = w.mpred :=
  if_neg h

/-! ### Lanes of `Mask()` sent to targets -/

theorem mem_lanesWithout (ls ms : List Nat) (l : Nat) : l ∈ lanesWithout ls ms ↔ l ∈ ls ∧ l ∉ ms := by
  simp only [lanesWithout, List.mem_filter, Bool.not_eq_true', List.any_eq_false, decide_eq_true_eq]
  exact and_congr_right fun _ => ⟨fun h hl => h l hl rfl, fun h m hm e => h (e ▸ hm)⟩

/-- The lanes of `Mask()`, each with its target. -/
abbrev Ctx.sends (c : Ctx) (a : Nat → Addr) : List (Nat × Addr) := c.mask.map fun l => (l, a l)

section

variable {s : State} {i : Instr} {c : Ctx} (hc : AtIssue s i c) (a : Nat → Addr)

theorem mem_stay (c : Ctx) (l : Nat) : l ∈ (c.stay (c.sends a)).lanes ↔ l ∈ c.sp.lanes ∧ l ∉ c.mask := by
  simp [Ctx.stay, mem_lanesWithout]

theorem mem_group_iff {t : Addr × List Nat} (ht : t ∈ groupTargets (c.sends a)) (l : Nat) :
    l ∈ t.2 ↔ l ∈ c.mask ∧ a l = t.1 := by
  rw [(groups_groupTargets _).lanes t ht]
  simp

theorem exists_group {l : Nat} (hl : l ∈ c.mask) : ∃ t ∈ groupTargets (c.sends a), t.1 = a l := by
  simpa using (groups_groupTargets (c.sends a)).targets (l, a l) (List.mem_map_of_mem hl)

theorem exists_lane_of_group {t : Addr × List Nat} (ht : t ∈ groupTargets (c.sends a)) : ∃ l ∈ c.mask, a l = t.1 := by
  obtain ⟨l, hl⟩ := List.exists_mem_of_ne_nil _ ((groups_groupTargets _).nonempty t ht)
  exact ⟨l, (mem_group_iff a ht l).1 hl⟩

include hc

/-- Each lane of the split is in the part that goes where it goes. -/
theorem exists_part {l : Nat} (hl : l ∈ c.sp.lanes) : ∃ sp ∈ c.parts (c.sends a), sp.st = .run ∧
    sp.pc = (if l ∈ c.mask then a l else c.next) ∧
    ∀ j, j ∈ sp.lanes ↔ j ∈ c.sp.lanes ∧ (j ∈ c.mask ↔ l ∈ c.mask) ∧ (l ∈ c.mask → a j = a l) := by
  by_cases hm : l ∈ c.mask
  · obtain ⟨t, ht, hta⟩ := exists_group a hm
    refine ⟨_, List.mem_append_left _ (List.mem_map_of_mem ht), rfl, by rw [if_pos hm, hta], fun j => ?_⟩
    rw [mem_group_iff a ht, hta]
    have hj : j ∈ c.mask → j ∈ c.sp.lanes := hc.mem_lanes
    simp only [hm, iff_true, true_implies]
    tauto
  · have hstay := (mem_stay a c l).2 ⟨hl, hm⟩
    refine ⟨c.stay (c.sends a), List.mem_append_right _ ?_, rfl, (if_neg hm).symm, fun j => ?_⟩
    · rw [if_neg (by simpa using List.ne_nil_of_mem hstay)]
      exact List.mem_singleton_self _
    · rw [mem_stay]
      simp [hm]

/-- There are two parts and more just when the branch parts its split. -/
theorem one_lt_parts_iff : 1 < (c.parts (c.sends a)).length ↔
    ∃ l ∈ c.sp.lanes, ∃ j ∈ c.sp.lanes, l ∈ c.mask ∧ (j ∉ c.mask ∨ a l ≠ a j) := by
  by_cases hrest : ∃ j ∈ c.sp.lanes, j ∉ c.mask
  · obtain ⟨j, hj, hjm⟩ := hrest
    have hne := List.ne_nil_of_mem ((mem_stay a c j).2 ⟨hj, hjm⟩)
    rw [Ctx.parts, if_neg (by simpa using hne), List.length_append, List.length_map, List.length_singleton, Nat.lt_add_left_iff_pos,
      List.length_pos_iff_exists_mem]
    constructor
    · rintro ⟨t, ht⟩
      obtain ⟨l, hl, -⟩ := exists_lane_of_group a ht
      exact ⟨l, hc.mem_lanes hl, j, hj, hl, .inl hjm⟩
    · rintro ⟨l, -, -, -, hl, -⟩
      obtain ⟨t, ht, -⟩ := exists_group a hl
      exact ⟨t, ht⟩
  · have hall (j : Nat) (hj : j ∈ c.sp.lanes) : j ∈ c.mask := by_contra fun h => hrest ⟨j, hj, h⟩
    have hnil : (c.stay (c.sends a)).lanes = [] := List.eq_nil_iff_forall_not_mem.2 fun l hl => hrest ⟨l, (mem_stay a c l).1 hl⟩
    rw [Ctx.parts, hnil, if_pos List.isEmpty_nil, List.append_nil, List.length_map, (groups_groupTargets _).one_lt_length_iff]
    constructor
    · rintro ⟨e, he, f, hf, hef⟩
      obtain ⟨l, hl, hle⟩ := exists_lane_of_group a he
      obtain ⟨j, hj, hjf⟩ := exists_lane_of_group a hf
      exact ⟨l, hc.mem_lanes hl, j, hc.mem_lanes hj, hl, .inr (by rwa [hle, hjf])⟩
    · rintro ⟨l, -, j, hj, hl, hno | hlj⟩
      · exact absurd (hall j hj) hno
      · obtain ⟨e, he, hel⟩ := exists_group a hl
        obtain ⟨f, hf, hfj⟩ := exists_group a (hall j hj)
        exact ⟨e, he, f, hf, by rwa [hel, hfj]⟩

end

end Sys2Proof.Machine

section

open Sys2Proof Sys2Proof.Machine Sys2Proof.Claims

/-- Settles O30: the parts of the issuing split are the groups of `groupTargets` and the lanes that go on. -/
theorem branchPartsTheSplit : Obligations.BranchPartsTheSplit := by
  unfold Obligations.BranchPartsTheSplit
  intro i s c a n w hctx
  have hc := State.atIssue_of_ctx hctx
  have hk := RegsKept.branch c (c.sends a) n w
  have hmpred := c.branch_mpred (c.sends a) n w
  simp only [one_lt_parts_iff hc a] at hmpred
  refine ⟨fun l hl => ?_, fun sp => c.mem_branch_of_other _ n, hk.v, hk.s, hk.m, c.branch_meets .., fun hno => ?_, fun hp hpred => ?_⟩
  · obtain ⟨sp, hsp, hst, hpc, hlanes⟩ := exists_part hc a hl
    have hne : l ∈ sp.lanes := (hlanes l).2 ⟨hl, Iff.rfl, fun _ => rfl⟩
    exact ⟨sp, c.mem_branch_of_part n w hsp (List.ne_nil_of_mem hne), hst, hpc, hlanes⟩
  · rw [hmpred]
    split
    · exact mpred_countDivergent (fun hpred => hno ⟨‹_›, hpred⟩) w
    · rfl
  · rw [hmpred, if_pos hp]
    exact bits_countDivergent hpred w

end
end
